-- ==== Sys2Proof/Word.lean ====
section
/-! DEFINITION. The words and index types of the Ravdis RVD-212 (spec/00_scope.md, "Principal Quantities"). -/

namespace Sys2Proof

/-- One byte of the local port (R166). -/
abbrev Byte := BitVec 8

/-- A station address, 0 to 31. -/
abbrev Address := Fin 32

/-- A channel number, 0 to 11. -/
abbrev ChannelId := Fin 12

/-- A slot number, 0 to 63; slot arithmetic is modulo 64. -/
abbrev Slot := Fin 64

end Sys2Proof
end

