-- ==== Sys2Proof/Syntax.lean ====
section
/-! DEFINITION. The commands of the block: one constructor of `Instr` per row of spec/opcode_table.json, in the
table's order, with the operands that the outside world chooses.

A time that an operand states (`hold`) counts periods of CLKIN (R49, R168): it says for how long after the
command OTHER stations keep the line low, 0 when none does. -/

namespace Sys2Proof

/-- One entry of an ANNOUNCE, or the payload of a CLAIM, as its fields stand on the wire (R164). -/
structure WireEntry where
  /-- CHANNEL, 4 bits -/
  channel : BitVec 4
  /-- START, 6 bits -/
  start : BitVec 6
  /-- LENGTH−1, 6 bits -/
  lengthLess1 : BitVec 6
  /-- RATING, 10 bits -/
  rating : BitVec 10
  deriving DecidableEq, Repr

/-- A bus message as it is framed on the wire, less CHECK and the verdict bits (R164). COUNT of an ANNOUNCE is the
number of its entries. -/
inductive Message where
  | announce (sender : BitVec 5) (digest : BitVec 8) (cycleAge : BitVec 16) (entries : List WireEntry)
  | release (sender : BitVec 5) (channel : BitVec 4)
  | claim (sender : BitVec 5) (entry : WireEntry)
  | rollcall (sender : BitVec 5)
  deriving DecidableEq, Repr

/-- The 32 argument bytes of CONFIG, in the fields that R166 lays out. -/
structure ConfigArgs where
  address : Byte
  rateCode : Byte
  slotCode : Byte
  budget : BitVec 16
  interval : Byte
  mask : BitVec 16
  ratings : Vector (BitVec 16) 12
  deriving DecidableEq, Repr

/-- The outcome of a message that is decided before a SYNC edge, and handed over in the event of the edge (R74, R76). -/
inductive LateOutcome where
  /-- the message has reached its commit point; `refused`: another station pulled REFUSE -/
  | committed (message : Message) (refused : Bool)
  /-- OBJECT has read dominant; `message` and `check` as read up to it -/
  | objected (message : Message) (check : BitVec 8)
  deriving DecidableEq, Repr

/-- The events that a SYNC edge brings to blocks that share state (R57): the four blocks' parts of the edge, and the hand-offs
of the message whose outcome falls together with it (R24, R74, R76, R121, R122, R136). The Transmit Scheduler's part changes no
state. -/
inductive EdgePart where
  | planTable
  | driveUnit
  | messageEngine
  | stationController
  /-- the Plan Table's event for a message that commits (R76, step 1); an objected one has none -/
  | message (outcome : LateOutcome)
  /-- the report of the own attempt, committed or void by objection, to the Transmit Scheduler (R74; R76, step 2) -/
  | attemptReport
  /-- the report of the message to the Station Controller (R74; R76, step 3) -/
  | stationReport
  deriving DecidableEq, Repr

/-- The commands: the operations and events of spec/opcode_table.json. -/
inductive Instr where
  | powerOnReset
  | resetPin
  | resetRelease
  | portReady
  | transactionStart
  /-- `clocked`: the whole bytes that the controller clocks before the rise and that no other row stands for. -/
  | transactionEnd (clocked : List Byte)
  | badCommand (code : Byte)
  | config (args : ConfigArgs)
  | demand (channel : Byte) (value : BitVec 16)
  | clear (channel mask : Byte)
  | quiet
  | leaveQuiet
  | channel (channel : Byte)
  | slot (slot : Byte)
  | holdings (owner : Byte)
  | peer (address : Byte)
  | station
  | event
  | eventRecordRemoved
  /-- `order`: the order in which the blocks handle the edge, which the manual leaves open (R57, R138), with the hand-offs of the
  message whose outcome falls together with the edge; where it has none, a message on the wire is void (R77). -/
  | syncEdge (hold : Nat) (order : List EdgePart)
  | invalidSyncEdge (hold : Nat)
  | peerExpired (address : BitVec 5)
  | selfExpired
  | announceDue
  | joinWindowEnd
  | slotStart
  | guardWindow
  | syncPulse
  | syncPulseRelease
  | syncAcquired
  | syncStuck
  | dataStuck
  | linesIdle
  | framingIdle
  | startOfFrame
  | joinStartOfFrame
  | attemptLost
  /-- `message` and `check`: what this station read up to the OBJECT bit. -/
  | messageObjected (message : Message) (check : BitVec 8)
  | announceCommit (sender : BitVec 5) (digest : BitVec 8) (cycleAge : BitVec 16) (entries : List WireEntry)
  /-- `refused`: another station pulls REFUSE dominant. -/
  | claimCommit (sender : BitVec 5) (entry : WireEntry) (refused : Bool)
  | releaseCommit (sender : BitVec 5) (channel : BitVec 4)
  | rollcallCommit (sender : BitVec 5)
  | dataFall (hold : Nat)
  | refuseBit (sender : BitVec 5) (entry : WireEntry)
  | mismatchAfterSender
  deriving DecidableEq, Repr

end Sys2Proof
end

