-- ==== Sys2Proof/Config.lean ====
section
/-! DEFINITION. The fixed quantities of the part (spec/00_scope.md, "Principal Quantities").

The manual leaves no result value open, so this file declares no free value: where the manual lets two
events fall in either order, the order is the order of the commands, or the operand of `SYNC_EDGE`
(notes/assumptions/5.md and 6.md). -/

namespace Sys2Proof.Config

/-- The guard window is the last 400 bit times of each cycle (R58). -/
def guardBits : Nat := 400

/-- The least cycle length in bit times, four guard windows (R49, R154 check 6). -/
def leastCycleBits : Nat := 1600

/-- The idle gap before a station's own SOF, in bit times (R65). -/
def idleGapBits : Nat := 10

/-- The recessive measure at which another station's SOF may be joined, in bit times (R66). -/
def joinGapBits : Nat := 9

/-- The recessive measure at which a receiver is ready for a start of frame, in bit times (R64). -/
def receiverGapBits : Nat := 3

/-- The length of the SYNC pulse, in bit times (R51). -/
def pulseBits : Nat := 8

/-- The high time that makes a falling edge of SYNC valid, in bit times (R51, R52). -/
def syncHighBits : Nat := 16

/-- SYNC low for more than this many bit times is stuck (R59). -/
def syncStuckBits : Nat := 64

/-- DATA dominant for more than this many bit times is stuck (R83). -/
def dataStuckBits : Nat := 128

/-- The length of END, in bits (R67). -/
def endBits : Nat := 3

/-- The longest message that a receiver frames, in bits: an ANNOUNCE whose COUNT reads 15 (R73). -/
def longestFrame : Nat := 438

/-- The bit position of REFUSE in a CLAIM (R67). -/
def refusePosition : Nat := 43

/-- The greatest demand, in eighths of a slot (R106). -/
def greatestDemand : Nat := 512

/-- The void count at which TX_OBJECTED is posted (R97). -/
def voidLimit : Nat := 8

/-- The event queue holds at most this many records (R159). -/
def eventLimit : Nat := 16

end Sys2Proof.Config
end

