-- ==== Sys2Proof/Machine/State.lean ====
section
/-! DEFINITION. The state of the part, block by block as the manual's section 2.3 gives it, and its reset value.

Times are counts of CLKIN periods (R49: one bit time is a whole number of them). -/

namespace Sys2Proof.Machine

/-! ## Named values -/

/-- The station states, in the order of their codes (R131, R167). -/
inductive StationState where
  | unconfigured | listen | joined | resync | leaving | quiet | fault | halt
  deriving DecidableEq, Repr

/-- The causes, in the order of their codes (R131, R167); the last two are causes of TX_OBJECTED only. -/
inductive Cause where
  | reset | config | recovery | stale | window | early | returned | divergence | claimRefused | request | closed
  | syncStuck | dataStuck | addressClash | configMismatch | objected | sync
  deriving DecidableEq, Repr

/-- The event kinds, in the order of their codes (R158, R167). -/
inductive EventKind where
  | joined | resync | fault | faultCleared | halt | quietEntered | channelHeld | channelStarved | channelEvicted
  | selfExpired | peerArrived | peerExpired | txObjected | overflow
  deriving DecidableEq, Repr

/-- The subject of an event record (R158). -/
inductive Subject where
  | address (a : Address)
  | channel (c : ChannelId)
  | cause (c : Cause)
  | kind (k : EventKind)
  deriving DecidableEq, Repr

/-- The channel states, in the order of their codes (R103, R167). -/
inductive ChannelState where
  | unused | idle | waiting | queued | inFlight | held | starved
  deriving DecidableEq, Repr

/-- The framing states (R62, R64). -/
inductive Framing where
  | off | awaitSync | gap | idle | frame
  deriving DecidableEq, Repr

/-- The transmission states (R62). -/
inductive Transmission where
  | none | driving | stopped
  deriving DecidableEq, Repr

/-- A verdict on a CLAIM (R17). -/
inductive Verdict where
  | admits | refuses
  deriving DecidableEq, Repr

/-- This station's verdict on the OBJECT bit (R72). -/
inductive Objection where
  | object | pass
  deriving DecidableEq, Repr

/-- The rollcall mark of a join window (R136). -/
inductive RollcallMark where
  | none | thisCycle | earlier
  deriving DecidableEq, Repr

/-- The transaction phases (R150, R151). -/
inductive Phase where
  | none | command | arguments | reply | ignore
  deriving DecidableEq, Repr

/-- The kind of a transmit request, with its channel where it has one (R85). -/
inductive Request where
  | announce
  | release (c : ChannelId)
  | claim (c : ChannelId)
  | rollcall
  deriving DecidableEq, Repr

/-! ## The blocks -/

/-- What holds the part in reset (R133). -/
structure ResetInputs where
  /-- the supply is below its operating range (power-on reset) -/
  supplyLow : Bool
  /-- the RESET pin is low -/
  pinLow : Bool
  deriving DecidableEq, Repr

/-- The configuration that the valid CONFIG fixes until the next reset (R134). -/
structure Configuration where
  address : Address
  rateCode : Fin 4
  slotCode : Nat
  /-- the slot budget B in LU -/
  budget : Nat
  /-- the announce interval I in cycles -/
  interval : Nat
  /-- the own digest (R42) -/
  digest : BitVec 8
  deriving DecidableEq, Repr

/-- One entry of the plan (R1). -/
structure Holding where
  owner : Address
  channel : ChannelId
  start : Slot
  length : Nat
  rating : Nat
  deriving DecidableEq, Repr

/-- One record of the peer table (R29). -/
structure Peer where
  present : Bool
  age : Nat
  cycleAge : BitVec 16
  deriving DecidableEq, Repr

/-- The Plan Table: the holdings map, as a list rising strictly by (owner, channel); the slot sums and covering
counts (R3); the peer table (R29). -/
structure PlanTable where
  plan : List Holding
  sums : Vector Nat 64
  counts : Vector Nat 64
  peers : Vector Peer 32
  deriving DecidableEq, Repr

/-- The Cycle Timer (R47). -/
structure CycleTimer where
  running : Bool
  /-- local cycle time -/
  localTime : Nat
  slotIndex : Slot
  cycleCounter : BitVec 16
  syncAcquired : Bool
  deriving DecidableEq, Repr

/-- The Line Interface (R47, R62): the two drivers, the levels last sampled and the measures of the lines. -/
structure LineInterface where
  /-- the SYNC driver is DRIVING -/
  syncDriving : Bool
  /-- time since the SYNC driver began its pulse (R51) -/
  pulseTime : Nat
  /-- SYNC was low when last sampled -/
  syncLow : Bool
  /-- how long SYNC has been high -/
  syncHighTime : Nat
  /-- how long SYNC has been low -/
  syncLowTime : Nat
  /-- the model's own: for how much longer other stations hold SYNC low -/
  syncHold : Nat
  /-- the DATA driver is DRIVING: an own message from its SOF, or from the first KIND bit of a joined frame, and a pull on REFUSE.
  At which of those bits it pulls the line low, and the pull on OBJECT, during which the item stays RELEASED, are `State.pullsData`
  (DESIGN CHOICE; notes/assumptions/27.md). -/
  dataDriving : Bool
  /-- DATA was dominant when last sampled -/
  dataDominant : Bool
  /-- the dominant measure (R83) -/
  dominantTime : Nat
  /-- the model's own: for how much longer other stations hold DATA dominant -/
  dataHold : Nat
  /-- in FAULT, how long SYNC has been high and DATA recessive together (R60) -/
  idleTime : Nat
  deriving DecidableEq, Repr

/-- The message being framed (R62). Kind, sender and payload fields read so far are those of the bits read:
`FrameRecord.kind`, `sender` and `payload`. -/
structure FrameRecord where
  /-- the levels read so far, SOF first, `true` for recessive -/
  read : List Bool
  /-- time since the SOF; the bit position is the whole number of bit times in it -/
  elapsed : Nat
  deriving DecidableEq, Repr

/-- The END of the message framed last, while it lasts: its bits are framed after the commit point, in GAP (R64, R76). -/
structure EndRecord where
  /-- time since END began -/
  elapsed : Nat
  /-- a bit of END has read dominant -/
  dominant : Bool
  deriving DecidableEq, Repr

/-- The Message Engine (R62). -/
structure MessageEngine where
  framing : Framing
  /-- the recessive measure -/
  recessiveTime : Nat
  /-- the END in progress, absent outside it (R76) -/
  ending : Option EndRecord
  frame : Option FrameRecord
  /-- the check accumulator -/
  accumulator : BitVec 8
  /-- the own objection -/
  objection : Option Objection
  /-- the own admission verdict -/
  verdict : Option Verdict
  transmission : Transmission
  /-- the transmitted request -/
  request : Option Request
  deriving DecidableEq, Repr

/-- One entry of the transmit queue (R85). -/
structure QueueEntry where
  request : Request
  onWire : Bool
  cancel : Bool
  deriving DecidableEq, Repr

/-- The composed record (R85): the content of the own message now on the wire. -/
structure Composed where
  request : Request
  message : Message
  /-- for a CLAIM, the target read at composition; 0 for other kinds -/
  target : Nat
  /-- the station state at composition -/
  station : StationState
  deriving DecidableEq, Repr

/-- The Transmit Scheduler (R85). -/
structure Scheduler where
  /-- the transmit queue, oldest at the head -/
  queue : List QueueEntry
  composed : Option Composed
  /-- the consecutive-void counter -/
  voids : Nat
  deriving DecidableEq, Repr

/-- A span as the Channel Controller knows it (R102). -/
structure Span where
  start : Slot
  length : Nat
  deriving DecidableEq, Repr

/-- One channel record (R102). -/
structure Channel where
  state : ChannelState
  rating : Nat
  target : Nat
  held : Nat
  span : Option Span
  superseded : Bool
  starved : Bool
  evicted : Bool
  deriving DecidableEq, Repr

/-- One non-empty entry of the drive table (R120). -/
structure DriveEntry where
  start : Slot
  length : Nat
  fraction : Nat
  deriving DecidableEq, Repr

/-- The Drive Unit (R120). -/
structure DriveUnit where
  table : Vector (Option DriveEntry) 12
  /-- the load outputs OUT0 to OUT11, `true` for on (conducting, pin high: R168) -/
  outputs : Vector Bool 12
  deriving DecidableEq, Repr

/-- The Station Controller (R131). -/
structure Station where
  state : StationState
  cause : Cause
  /-- window opened -/
  opened : Bool
  /-- join-window count -/
  count : Nat
  /-- cycle traffic mark -/
  traffic : Bool
  rollcall : RollcallMark
  quietStale : Bool
  deriving DecidableEq, Repr

/-- An event record (R158). -/
structure EventRecord where
  kind : EventKind
  subject : Subject
  stamp : BitVec 16
  deriving DecidableEq, Repr

/-- The Local Port (R150). -/
structure LocalPort where
  /-- the port has become ready since reset (R150) -/
  ready : Bool
  /-- the level of chip select: low -/
  selectLow : Bool
  phase : Phase
  /-- received bytes: the command byte and the argument bytes -/
  received : List Byte
  /-- reply buffer: the status byte and the reply bytes -/
  reply : List Byte
  /-- reply position, in bits -/
  replyPosition : Nat
  /-- the event queue, oldest at the head -/
  events : List EventRecord
  pendingRemoval : Bool
  mask : BitVec 16
  /-- ATTN is asserted -/
  attn : Bool
  deriving DecidableEq, Repr

/-- The whole part, and the queue of the commands that wait. -/
structure State where
  inputs : ResetInputs
  cfg : Configuration
  table : PlanTable
  timer : CycleTimer
  lines : LineInterface
  engine : MessageEngine
  sched : Scheduler
  channels : Vector Channel 12
  drive : DriveUnit
  station : Station
  port : LocalPort
  /-- the model's own: the commands waiting, first in, first out -/
  pending : List Instr
  deriving DecidableEq, Repr

/-! ## Stops -/

/-- The part stops on no command: the manual gives every command an effect or says that it is discarded (R132), so
there is no fault to raise and the type has no constructor. FAULT and HALT of the manual are station states. -/
inductive Fault where
  deriving DecidableEq, Repr

/-- Why a command has no meaning. -/
inductive Refusal where
  /-- Raised by `exec` alone, for a command that has no meaning yet; safe, since the model then stops. No arm of this
  model raises it. -/
  | notModelled (mnemonic : String)
  deriving DecidableEq, Repr

/-! ## Reset values -/

/-- The configuration registers before the first CONFIG: the manual gives them no value (DESIGN CHOICE, all zero;
notes/assumptions/1.md). -/
def Configuration.reset : Configuration :=
  { address := 0, rateCode := 0, slotCode := 0, budget := 0, interval := 0, digest := 0 }

/-- R29. -/
def Peer.reset : Peer := { present := false, age := 0, cycleAge := 0 }

/-- R6, R29. -/
def PlanTable.reset : PlanTable :=
  { plan := [], sums := Vector.replicate 64 0, counts := Vector.replicate 64 0, peers := Vector.replicate 32 .reset }

/-- R47. -/
def CycleTimer.reset : CycleTimer :=
  { running := false, localTime := 0, slotIndex := 0, cycleCounter := 0, syncAcquired := false }

/-- R47, R62. The levels are inputs: both lines are taken as high (DESIGN CHOICE; notes/assumptions/2.md). -/
def LineInterface.reset : LineInterface :=
  { syncDriving := false, pulseTime := 0, syncLow := false, syncHighTime := 0, syncLowTime := 0, syncHold := 0,
    dataDriving := false, dataDominant := false, dominantTime := 0, dataHold := 0, idleTime := 0 }

/-- R62; no END is in progress (R76). -/
def MessageEngine.reset : MessageEngine :=
  { framing := .off, recessiveTime := 0, ending := none, frame := none, accumulator := 0xFF, objection := none,
    verdict := none, transmission := .none, request := none }

/-- R85. -/
def Scheduler.reset : Scheduler := { queue := [], composed := none, voids := 0 }

/-- R102. -/
def Channel.reset : Channel :=
  { state := .unused, rating := 0, target := 0, held := 0, span := none, superseded := false, starved := false,
    evicted := false }

/-- R120. -/
def DriveUnit.reset : DriveUnit :=
  { table := Vector.replicate 12 none, outputs := Vector.replicate 12 false }

/-- R131. -/
def Station.reset : Station :=
  { state := .unconfigured, cause := .reset, opened := false, count := 0, traffic := false, rollcall := .none,
    quietStale := false }

/-- R150. Chip select is an input: it is taken as high (DESIGN CHOICE; notes/assumptions/2.md). -/
def LocalPort.reset : LocalPort :=
  { ready := false, selectLow := false, phase := .none, received := [], reply := [], replyPosition := 0, events := [],
    pendingRemoval := false, mask := 0, attn := false }

/-- The part right after the release of reset (R133): every item of every block at its reset value. -/
def State.reset : State :=
  { inputs := { supplyLow := false, pinLow := false }, cfg := .reset, table := .reset, timer := .reset, lines := .reset,
    engine := .reset, sched := .reset, channels := Vector.replicate 12 .reset, drive := .reset, station := .reset,
    port := .reset, pending := [] }

end Sys2Proof.Machine
end

