-- ==== Sys2Proof/Machine/Operands.lean ====
section
/-! DEFINITION. The formats of Chapter 10: the check computation (R165), the layout and the framing of bus messages (R164,
R67), the grounds of objection (R72), and the codes of the local port (R166, R167). -/

namespace Sys2Proof.Machine

/-! ## The check computation (R165) -/

/-- One step of the bit-serial computation: generator x⁸ + x² + x + 1. -/
def crcStep (accumulator : BitVec 8) (bit : Bool) : BitVec 8 :=
  if bit ^^ accumulator.msb then (accumulator <<< 1) ^^^ 0x07 else accumulator <<< 1

/-- The check over a run of bits: the accumulator starts at all ones and there is no final inversion. -/
def crc (bits : List Bool) : BitVec 8 := bits.foldl crcStep 0xFF

/-- The bits of a field, most significant first. -/
def bitsOf {w : Nat} (x : BitVec w) : List Bool := (List.range w).map x.getMsbD

/-- The digest of the bus-wide configuration: five bytes in the order of R42. -/
def digestOf (rateCode slotCode : Byte) (budget : BitVec 16) (interval : Byte) : BitVec 8 :=
  crc (bitsOf rateCode ++ bitsOf slotCode ++ bitsOf budget ++ bitsOf interval)

/-! ## Bus messages (R164) -/

/-- The address that a 5-bit SENDER field names. -/
def addressOf (sender : BitVec 5) : Address := ⟨sender.toNat, sender.isLt⟩

/-- The channel that a 4-bit CHANNEL field names, if it is not above 11. -/
def channelOf? (channel : BitVec 4) : Option ChannelId :=
  if h : channel.toNat < 12 then some ⟨channel.toNat, h⟩ else none

/-- The slot that a 6-bit START field names. -/
def slotOf (start : BitVec 6) : Slot := ⟨start.toNat, start.isLt⟩

end Sys2Proof.Machine

namespace Sys2Proof

/-- KIND: ANNOUNCE 00, RELEASE 01, CLAIM 10, ROLLCALL 11. -/
def Message.kindBits : Message → BitVec 2
  | .announce .. => 0
  | .release .. => 1
  | .claim .. => 2
  | .rollcall .. => 3

/-- SENDER. -/
def Message.sender : Message → BitVec 5
  | .announce s _ _ _ => s
  | .release s _ => s
  | .claim s _ => s
  | .rollcall s => s

/-- One entry: CHANNEL, START, LENGTH−1, RATING, 26 bits in all. -/
def WireEntry.bits (e : WireEntry) : List Bool :=
  Machine.bitsOf e.channel ++ Machine.bitsOf e.start ++ Machine.bitsOf e.lengthLess1 ++ Machine.bitsOf e.rating

/-- The payload of a message. -/
def Message.payloadBits : Message → List Bool
  | .announce _ digest cycleAge entries =>
      Machine.bitsOf digest ++ Machine.bitsOf cycleAge ++ Machine.bitsOf (BitVec.ofNat 4 entries.length)
        ++ entries.flatMap WireEntry.bits
  | .release _ channel => Machine.bitsOf channel
  | .claim _ entry => entry.bits
  | .rollcall _ => []

/-- KIND, SENDER and payload: the input of CHECK (R165). -/
def Message.checkedBits (m : Message) : List Bool :=
  Machine.bitsOf m.kindBits ++ Machine.bitsOf m.sender ++ m.payloadBits

/-- CHECK. -/
def Message.check (m : Message) : BitVec 8 := Machine.crc m.checkedBits

/-- Whether the kind has a REFUSE bit. -/
def Message.hasRefuse : Message → Bool
  | .claim .. => true
  | _ => false

/-- The whole message as its transmitter drives it, SOF first and 0 for dominant: the verdict bits and END are driven
recessive. -/
def Message.wire (m : Message) : List Bool :=
  [false] ++ m.checkedBits ++ Machine.bitsOf m.check ++ [true] ++ (if m.hasRefuse then [true] else [])
    ++ [true, true, true]

/-- The levels that the line shows of a message read with a given CHECK, SOF first, up to the end of CHECK (R67). -/
def Message.read (m : Message) (check : BitVec 8) : List Bool := [false] ++ m.checkedBits ++ Machine.bitsOf check

/-- The bit position of OBJECT (the table of R67). -/
def Message.objectPosition : Message → Nat
  | .announce _ _ _ entries => 44 + 26 * entries.length
  | .release .. => 20
  | .claim .. => 42
  | .rollcall .. => 16

/-- The bit position at which END begins, which is the commit point in bit times after the SOF (the table of R67). -/
def Message.commitPoint (m : Message) : Nat := m.objectPosition + if m.hasRefuse then 2 else 1

/-- Two messages agree in KIND and SENDER, the seven bits of arbitration (R68). -/
def Message.sameArbitration (m n : Message) : Bool := m.kindBits == n.kindBits && m.sender == n.sender

/-- The grounds of objection of R72 other than CHECK. -/
def Message.unacceptable : Message → Bool
  | .announce _ _ _ entries =>
      decide (12 < entries.length) || entries.any (fun e => decide (11 < e.channel.toNat) || e.rating == 0)
        || !distinct (entries.map WireEntry.channel)
  | .release _ channel => decide (11 < channel.toNat)
  | .claim _ entry => decide (11 < entry.channel.toNat) || entry.rating == 0
  | .rollcall _ => false
where
  /-- no value stands twice in the list -/
  distinct : List (BitVec 4) → Bool
    | [] => true
    | c :: cs => !cs.contains c && distinct cs

/-- How long after the fall of the SOF an outcome is decided, at a bit time of `bit` periods: at the commit point (R76), or at the
middle of OBJECT, where it is read (R67, R74). -/
def LateOutcome.instant (bit : Nat) : LateOutcome → Nat
  | .committed message _ => message.commitPoint * bit
  | .objected message _ => message.objectPosition * bit + bit / 2

/-- The own objection to a message read with the given CHECK (R72). -/
def Message.objection (m : Message) (check : BitVec 8) : Machine.Objection :=
  if check ≠ m.check || m.unacceptable then .object else .pass

end Sys2Proof

namespace Sys2Proof.Machine

/-! ## Framing: what a receiver reads (R67) -/

/-- The number that a run of bits spells, most significant first. -/
def numberOf (bits : List Bool) : Nat := bits.foldl (fun n b => 2 * n + b.toNat) 0

/-- Takes a field of `w` bits off a run of bits. -/
def takeField (w : Nat) (bits : List Bool) : Option (BitVec w × List Bool) :=
  if bits.length < w then none else some (BitVec.ofNat w (numberOf (bits.take w)), bits.drop w)

/-- Takes one entry off a run of bits. -/
def takeEntry (bits : List Bool) : Option (WireEntry × List Bool) := do
  let (channel, bits) ← takeField 4 bits
  let (start, bits) ← takeField 6 bits
  let (lengthLess1, bits) ← takeField 6 bits
  let (rating, bits) ← takeField 10 bits
  return (⟨channel, start, lengthLess1, rating⟩, bits)

/-- Takes a number of entries off a run of bits. -/
def takeEntries : Nat → List Bool → Option (List WireEntry × List Bool)
  | 0, bits => some ([], bits)
  | n + 1, bits => do
      let (e, bits) ← takeEntry bits
      let (es, bits) ← takeEntries n bits
      return (e :: es, bits)

/-- Frames the bits that follow a SOF: KIND gives the payload layout and COUNT the number of entries (R67). Answers the
message, CHECK as read and the bits that follow it. -/
def frameBits (bits : List Bool) : Option (Message × BitVec 8 × List Bool) := do
  let (kind, bits) ← takeField 2 bits
  let (sender, bits) ← takeField 5 bits
  let (message, bits) ← match kind with
    | 0 => do
        let (digest, bits) ← takeField 8 bits
        let (cycleAge, bits) ← takeField 16 bits
        let (count, bits) ← takeField 4 bits
        let (entries, bits) ← takeEntries count.toNat bits
        pure (Message.announce sender digest cycleAge entries, bits)
    | 1 => do
        let (channel, bits) ← takeField 4 bits
        pure (Message.release sender channel, bits)
    | 2 => do
        let (entry, bits) ← takeEntry bits
        pure (Message.claim sender entry, bits)
    | _ => pure (Message.rollcall sender, bits)
  let (check, bits) ← takeField 8 bits
  return (message, check, bits)

/-- The bit position at which CHECK begins, by the levels read so far, SOF first (the table of R67): KIND gives the layout and
COUNT, whatever its value, the number of entries (R73). -/
def checkPosition (read : List Bool) : Nat :=
  match takeField 2 (read.drop 1) with
  | none => 8
  | some (kind, _) =>
      if kind = 0 then
        36 + 26 * (match takeField 4 (read.drop 32) with
          | some (count, _) => count.toNat
          | none => 0)
      else if kind = 1 then 12
      else if kind = 2 then 34
      else 8

/-- The bit position at which END begins, by the levels read so far. -/
def endPosition (read : List Bool) : Nat :=
  checkPosition read + 9 + if (takeField 2 (read.drop 1)).any (fun r => r.1 == 2) then 1 else 0

/-- KIND, once it has been read (R62). -/
def FrameRecord.kind (f : FrameRecord) : Option (BitVec 2) := (takeField 2 (f.read.drop 1)).map Prod.fst

/-- SENDER, once it has been read (R62). -/
def FrameRecord.sender (f : FrameRecord) : Option (BitVec 5) := (takeField 5 (f.read.drop 3)).map Prod.fst

/-- The bits of the payload read so far (R62). -/
def FrameRecord.payload (f : FrameRecord) : List Bool := (f.read.take (checkPosition f.read)).drop 8

/-- One level of DATA is read at the middle of its bit (R67): up to END it joins the frame record; the bits of KIND, SENDER and
the payload are fed into the check accumulator; and with the last bit of CHECK the own objection is formed (R72). -/
def MessageEngine.readLevel (e : MessageEngine) (level : Bool) : MessageEngine :=
  match e.frame with
  | none => e
  | some f =>
      let position := f.read.length
      let read := f.read ++ [level]
      if endPosition f.read ≤ position then e
      else
        { e with
          frame := some { f with read := read }
          accumulator :=
            if 1 ≤ position ∧ position < checkPosition f.read then crcStep e.accumulator level else e.accumulator
          objection :=
            if position + 1 = checkPosition f.read + 8 then
              (frameBits (read.drop 1)).map fun r => r.1.objection r.2.1
            else e.objection }

/-! ## The bytes of the local port (R166, R167) -/

/-- The two bytes of a quantity, high byte first. -/
def bytes2 (n : Nat) : List Byte := [BitVec.ofNat 8 (n / 256), BitVec.ofNat 8 n]

/-- The 16-bit value of two bytes, high byte first. -/
def word2 (high low : Byte) : BitVec 16 := high ++ low

/-- R167. -/
def StationState.code : StationState → Byte
  | .unconfigured => 0 | .listen => 1 | .joined => 2 | .resync => 3 | .leaving => 4 | .quiet => 5 | .fault => 6
  | .halt => 7

/-- R167. -/
def Cause.code : Cause → Byte
  | .reset => 0 | .config => 1 | .recovery => 2 | .stale => 3 | .window => 4 | .early => 5 | .returned => 6
  | .divergence => 7 | .claimRefused => 8 | .request => 9 | .closed => 10 | .syncStuck => 11 | .dataStuck => 12
  | .addressClash => 13 | .configMismatch => 14 | .objected => 15 | .sync => 16

/-- R167; the code is also the kind's position in the event mask (R166). -/
def EventKind.code : EventKind → Nat
  | .joined => 0 | .resync => 1 | .fault => 2 | .faultCleared => 3 | .halt => 4 | .quietEntered => 5
  | .channelHeld => 6 | .channelStarved => 7 | .channelEvicted => 8 | .selfExpired => 9 | .peerArrived => 10
  | .peerExpired => 11 | .txObjected => 12 | .overflow => 13

/-- R167. -/
def ChannelState.code : ChannelState → Byte
  | .unused => 0 | .idle => 1 | .waiting => 2 | .queued => 3 | .inFlight => 4 | .held => 5 | .starved => 6

/-- The subject byte of an event record (R158, R167). -/
def Subject.code : Subject → Byte
  | .address a => BitVec.ofNat 8 a.val
  | .channel c => BitVec.ofNat 8 c.val
  | .cause c => c.code
  | .kind k => BitVec.ofNat 8 k.code

/-- The four bytes of an event record (R167). -/
def EventRecord.bytes (r : EventRecord) : List Byte :=
  [BitVec.ofNat 8 r.kind.code, r.subject.code] ++ bytes2 r.stamp.toNat

/-- The status bytes of R166. -/
def statusOk : Byte := 0x00
/-- The queue held no record (R162). -/
def statusEmpty : Byte := 0x01
/-- The command byte names no command. -/
def statusBadCommand : Byte := 0x02
/-- An argument is out of its range. -/
def statusBadArgument : Byte := 0x03
/-- The station state does not accept the command. -/
def statusWrongState : Byte := 0x04

/-- The number of argument bytes of each command byte of R166; none for a byte that names no command. -/
def argumentCount (code : Byte) : Option Nat :=
  if code = 0x01 then some 32
  else if code = 0x02 then some 3
  else if code = 0x03 then some 2
  else if code = 0x04 ∨ code = 0x05 ∨ code = 0x14 ∨ code = 0x15 then some 0
  else if code = 0x10 ∨ code = 0x11 ∨ code = 0x12 ∨ code = 0x13 then some 1
  else none

/-- The channel that an argument byte names, if it is not above 11. -/
def channelByte? (b : Byte) : Option ChannelId := if h : b.toNat < 12 then some ⟨b.toNat, h⟩ else none

/-- The slot that an argument byte names, if it is not above 63. -/
def slotByte? (b : Byte) : Option Slot := if h : b.toNat < 64 then some ⟨b.toNat, h⟩ else none

/-- The address that an argument byte names, if it is not above 31. -/
def addressByte? (b : Byte) : Option Address := if h : b.toNat < 32 then some ⟨b.toNat, h⟩ else none

end Sys2Proof.Machine

namespace Sys2Proof

/-- The outcome that the events of an edge hand over. -/
def EdgePart.outcomeIn (order : List EdgePart) : Option LateOutcome :=
  order.findSome? fun p => match p with
    | .message outcome => some outcome
    | .planTable | .driveUnit | .messageEngine | .stationController | .attemptReport | .stationReport => none

/-- `p` comes before `q` in an order of the events of an edge. -/
def EdgePart.before (order : List EdgePart) (p q : EdgePart) : Bool := decide (order.idxOf p < order.idxOf q)

/-- The orders in which the hand-offs of a message may stand among the events of an edge. Those of a commit keep their order (R76),
the first of them ahead of the Plan Table's part (R34), and the latch may come before it (R122); the last, which may take the station
to RESYNC, does not stand between the parts of the Message Engine and the Station Controller, for which the edge opens the window or
does not (R64, R135). Those of an objected message may stand anywhere (R74, R113, R136). -/
def EdgePart.handOffsAllowed (order : List EdgePart) : LateOutcome → Bool
  | .committed m refused =>
      let commit := EdgePart.message (.committed m refused)
      EdgePart.before order commit .planTable && EdgePart.before order commit .attemptReport
        && EdgePart.before order .attemptReport .stationReport
        && (EdgePart.before order .planTable .driveUnit || EdgePart.before order .driveUnit commit)
        && EdgePart.before order .stationReport .messageEngine == EdgePart.before order .stationReport .stationController
  | .objected _ _ => EdgePart.before order .planTable .driveUnit

/-- An order of the events of a SYNC edge that the manual allows: each block once, and the latch after the ageing and expiry of
the same edge (R37, R57); or the same with the three hand-offs of one message among them. -/
def EdgePart.orderAllowed (order : List EdgePart) : Bool :=
  [EdgePart.planTable, .driveUnit, .messageEngine, .stationController].all order.contains
    && match EdgePart.outcomeIn order with
      | none => order.length == 4 && EdgePart.before order .planTable .driveUnit
      | some outcome =>
          order.length == 7 && [EdgePart.attemptReport, .stationReport].all order.contains
            && EdgePart.handOffsAllowed order outcome

/-- The order of R57's own list. -/
def EdgePart.usualOrder : List EdgePart := [.planTable, .driveUnit, .messageEngine, .stationController]

/-- The order in which the events are taken: a list that is no allowed order stands for the usual one. -/
def EdgePart.taken (order : List EdgePart) : List EdgePart :=
  if EdgePart.orderAllowed order then order else EdgePart.usualOrder

/-- The two bytes of a 16-bit argument, high byte first. -/
def argumentBytes (x : BitVec 16) : List Byte := [x.extractLsb' 8 8, x.extractLsb' 0 8]

/-- The 32 argument bytes of CONFIG in the order of R166. -/
def ConfigArgs.bytes (a : ConfigArgs) : List Byte :=
  [a.address, a.rateCode, a.slotCode] ++ argumentBytes a.budget ++ [a.interval] ++ argumentBytes a.mask
    ++ a.ratings.toList.flatMap argumentBytes

/-- The fields that 32 argument bytes of CONFIG stand for (R166). -/
def ConfigArgs.ofBytes (bs : List Byte) : ConfigArgs :=
  { address := bs.getD 0 0, rateCode := bs.getD 1 0, slotCode := bs.getD 2 0
    budget := Machine.word2 (bs.getD 3 0) (bs.getD 4 0), interval := bs.getD 5 0
    mask := Machine.word2 (bs.getD 6 0) (bs.getD 7 0)
    ratings := Vector.ofFn fun c => Machine.word2 (bs.getD (8 + 2 * c.val) 0) (bs.getD (9 + 2 * c.val) 0) }

end Sys2Proof
end

