-- ==== Sys2Proof/Machine/Flags.lean ====
section
/-! DEFINITION. The flags: the event queue and ATTN (Chapter 9), the sticky channel flags (R107) and the flag bytes of the
replies (R167). -/

namespace Sys2Proof.Machine

/-! ## The event queue (R159 to R163) -/

/-- A record joins at the tail, and ATTN is asserted (R163: it is asserted already where a record is held). -/
def LocalPort.store (p : LocalPort) (r : EventRecord) : LocalPort :=
  { p with events := p.events ++ [r], attn := true }

/-- A block posts an event (R160): masked, stored, stored in the form of OVERFLOW, or discarded. -/
def LocalPort.post (p : LocalPort) (r : EventRecord) : LocalPort :=
  if !p.mask.getLsbD r.kind.code then p
  else if p.events.length + 1 < Config.eventLimit then p.store r
  else if p.events.length + 1 = Config.eventLimit then p.store ⟨.overflow, .kind r.kind, r.stamp⟩
  else p

/-- The head record leaves the queue, its removal mark is cleared, and ATTN is released if the queue is then empty
(R162, R163). -/
def LocalPort.removeHead (p : LocalPort) : LocalPort :=
  { p with
    events := p.events.tail
    pendingRemoval := false
    attn := if p.events.tail.isEmpty then false else p.attn }

/-- Posts an event of the given kind and subject, stamped with the cycle counter (R158). -/
def post (kind : EventKind) (subject : Subject) (s : State) : State :=
  { s with port := s.port.post ⟨kind, subject, s.timer.cycleCounter⟩ }

/-! ## The sticky flags (R107) -/

/-- CLEAR: bit 0 of the mask selects SUPERSEDED, bit 1 STARVED, bit 2 EVICTED (R166). -/
def Channel.clearFlags (mask : Byte) (ch : Channel) : Channel :=
  { ch with
    superseded := ch.superseded && !mask.getLsbD 0
    starved := ch.starved && !mask.getLsbD 1
    evicted := ch.evicted && !mask.getLsbD 2 }

/-- The flags byte of the CHANNEL reply (R167). -/
def Channel.flagByte (ch : Channel) : Byte :=
  BitVec.ofNat 8 (ch.superseded.toNat + 2 * ch.starved.toNat + 4 * ch.evicted.toNat)

/-- The flag byte of the STATION reply (R167): bit 0 is sync-acquired and bit 1 the quiet-stale flag. -/
def stationFlagByte (s : State) : Byte :=
  BitVec.ofNat 8 (s.timer.syncAcquired.toNat + 2 * s.station.quietStale.toNat)

end Sys2Proof.Machine
end

