-- ==== Sys2Proof/Machine/Plan.lean ====
section
/-! DEFINITION. The Plan Table as a data structure: holdings, slot sums and covering counts (R1 to R5), the admission check
(R18), the fit test and the order of candidates of the Placement Engine (R94, R95), and the choice that eviction makes (R21). -/

namespace Sys2Proof.Machine

/-- The slots of a cycle in rising order. -/
def allSlots : List Slot := List.finRange 64

/-- The channels in rising order. -/
def allChannels : List ChannelId := List.finRange 12

/-- The addresses in rising order. -/
def allAddresses : List Address := List.finRange 32

/-- A span covers its start slot and the slots that follow it, modulo 64, as many as its length (R2). -/
def spanCovers (start : Slot) (length : Nat) (k : Slot) : Bool := decide ((k.val + 64 - start.val) % 64 < length)

/-- The slots that a holding covers (R2). -/
def Holding.covers (h : Holding) (k : Slot) : Bool := spanCovers h.start h.length k

/-- The holding of a key (owner, channel). -/
def Holding.isFor (h : Holding) (owner : Address) (c : ChannelId) : Bool := h.owner == owner && h.channel == c

/-- The position of a holding's key in the plan's canonical order. -/
def Holding.key (h : Holding) : Nat := 12 * h.owner.val + h.channel.val

/-- The plan's holding for a key, if there is one. -/
def PlanTable.find (t : PlanTable) (owner : Address) (c : ChannelId) : Option Holding := t.plan.find? (·.isFor owner c)

/-- The holdings of one owner in ascending channel order (R28). -/
def PlanTable.holdingsOf (t : PlanTable) (owner : Address) : List Holding := allChannels.filterMap (t.find owner)

/-- Removes one holding: the sum and the count of every slot that it covers fall (R3). -/
def PlanTable.remove (t : PlanTable) (h : Holding) : PlanTable :=
  { t with
    plan := t.plan.erase h
    sums := Vector.ofFn fun k => if h.covers k then t.sums[k] - h.rating else t.sums[k]
    counts := Vector.ofFn fun k => if h.covers k then t.counts[k] - 1 else t.counts[k] }

/-- Removes the holding of a key, if there is one. -/
def PlanTable.removeKey (t : PlanTable) (owner : Address) (c : ChannelId) : PlanTable :=
  match t.find owner c with
  | some h => t.remove h
  | none => t

/-- Removes a list of holdings, one after the other. -/
def PlanTable.removeAll (t : PlanTable) (hs : List Holding) : PlanTable := hs.foldl PlanTable.remove t

/-- Removes every holding of one owner. -/
def PlanTable.removeOwner (t : PlanTable) (owner : Address) : PlanTable := t.removeAll (t.plan.filter (·.owner == owner))

/-- Removes every holding of the other owners (R26). -/
def PlanTable.keepOwner (t : PlanTable) (owner : Address) : PlanTable := t.removeAll (t.plan.filter (·.owner != owner))

/-- Puts a holding into a list in the canonical order of keys. -/
def PlanTable.insertSorted (h : Holding) : List Holding → List Holding
  | [] => [h]
  | g :: gs => if h.key ≤ g.key then h :: g :: gs else g :: insertSorted h gs

/-- Inserts a holding as a replacement of the holding of its key (R5): the sum and the count of every slot that it
covers rise (R3). -/
def PlanTable.insert (t : PlanTable) (h : Holding) : PlanTable :=
  let u := t.removeKey h.owner h.channel
  { u with
    plan := insertSorted h u.plan
    sums := Vector.ofFn fun k => if h.covers k then u.sums[k] + h.rating else u.sums[k]
    counts := Vector.ofFn fun k => if h.covers k then u.counts[k] + 1 else u.counts[k] }

/-- Sets one peer record. -/
def PlanTable.setPeer (t : PlanTable) (a : Address) (p : Peer) : PlanTable := { t with peers := t.peers.set a p }

/-- The present-peer count (R46). -/
def PlanTable.presentCount (t : PlanTable) : Nat := (allAddresses.filter fun a => t.peers[a].present).length

/-- Every PRESENT record ages by one cycle (R34). -/
def PlanTable.agePeers (t : PlanTable) : PlanTable :=
  { t with peers := t.peers.map fun p => if p.present then { p with age := p.age + 1 } else p }

/-! ## Fit and admission -/

/-- What the plan's holding for a key draws in a slot: the part of the slot sum that a claim for the key sets aside. -/
def PlanTable.setAside (t : PlanTable) (owner : Address) (c : ChannelId) (k : Slot) : Nat :=
  match t.find owner c with
  | some h => if h.covers k then h.rating else 0
  | none => 0

/-- In every slot of the span the sum, less the old holding's rating where it covers the slot, plus the rating claimed,
is at most the budget (R18, R94). -/
def PlanTable.fits (t : PlanTable) (budget : Nat) (owner : Address) (c : ChannelId) (start : Slot) (length rating : Nat) : Bool :=
  allSlots.all fun k => !spanCovers start length k || decide (t.sums[k] - t.setAside owner c k + rating ≤ budget)

/-- The admission check of R18. -/
def PlanTable.admission (t : PlanTable) (budget : Nat) (owner : Address) (c : ChannelId) (start : Slot) (length rating : Nat) :
    Verdict :=
  if t.peers[owner].present && t.fits budget owner c start length rating then .admits else .refuses

/-- The first start that the scan tries: (2 × own address + 5 × channel) modulo 64 (R95). -/
def PlanTable.origin (owner : Address) (c : ChannelId) : Slot := Fin.ofNat 64 (2 * owner.val + 5 * c.val)

/-- The starts that placement tries, in order (R95): in place where there is an old holding, then 64 from the origin. -/
def PlanTable.candidates (t : PlanTable) (owner : Address) (c : ChannelId) : List Slot :=
  (t.find owner c).toList.map Holding.start ++ allSlots.map fun i => origin owner c + i

/-- The Placement Engine (R95): the first candidate that fits. -/
def PlanTable.place (t : PlanTable) (budget : Nat) (owner : Address) (c : ChannelId) (length rating : Nat) : Option Slot :=
  (t.candidates owner c).find? fun start => t.fits budget owner c start length rating

/-! ## Eviction -/

/-- The holding covers a slot whose sum exceeds the budget. -/
def PlanTable.coversOverBudget (t : PlanTable) (budget : Nat) (h : Holding) : Bool :=
  allSlots.any fun k => h.covers k && decide (budget < t.sums[k])

/-- Of two holdings, the one with the higher owner, and then the higher channel. -/
def PlanTable.higher (best : Option Holding) (h : Holding) : Option Holding :=
  match best with
  | none => some h
  | some b => if b.key < h.key then some h else some b

/-- The holding that one step of eviction removes: of those that cover a slot over budget, the one with the highest
owner, and of that owner's the one with the highest channel (R21). -/
def PlanTable.evictionChoice (t : PlanTable) (budget : Nat) : Option Holding :=
  (t.plan.filter (t.coversOverBudget budget)).foldl higher none

/-! ## Lost coverage -/

/-- A holding covers some slot that the span which takes its place does not (R23). -/
def PlanTable.losesCoverage (old : Holding) (new : Option Holding) : Bool :=
  match new with
  | none => true
  | some n => allSlots.any fun k => old.covers k && !n.covers k

/-- A holding that a wire entry states: LENGTH−1 plus one slots (R1, R164). -/
def holdingOf (owner : Address) (c : ChannelId) (e : WireEntry) : Holding :=
  { owner := owner, channel := c, start := ⟨e.start.toNat, e.start.isLt⟩, length := e.lengthLess1.toNat + 1
    rating := e.rating.toNat }

/-- The wire entry that states a holding. -/
def entryOf (h : Holding) : WireEntry :=
  { channel := BitVec.ofNat 4 h.channel.val, start := BitVec.ofNat 6 h.start.val
    lengthLess1 := BitVec.ofNat 6 (h.length - 1), rating := BitVec.ofNat 10 h.rating }

end Sys2Proof.Machine
end

