-- ==== Sys2Proof/Machine/Clock.lean ====
section
/-! DEFINITION. Time: the lengths of Chapter 3 in CLKIN periods, the outputs slot by slot (Chapter 7), the passing of time over
every clock and measure of the part, and the conditions that time decides. -/

namespace Sys2Proof.Machine

/-! ## Lengths (R49) -/

/-- CLKIN periods in one bit time: 512, 256, 128 or 64 for bit-rate codes 0 to 3. -/
def bitPeriods (rateCode : Nat) : Nat := 512 / 2 ^ rateCode

/-- CLKIN periods in one slot. -/
def slotPeriods (slotCode : Nat) : Nat := slotCode * 4000

/-- The cycle length in bit times: the slot code times 500, 1000, 2000 or 4000. -/
def cycleBits (rateCode slotCode : Nat) : Nat := slotCode * (500 * 2 ^ rateCode)

/-- A number of bit times at the configured bit rate. -/
def State.bits (s : State) (n : Nat) : Nat := n * bitPeriods s.cfg.rateCode.val

/-- The cycle length, 64 slot lengths. -/
def State.cycleLength (s : State) : Nat := 64 * slotPeriods s.cfg.slotCode

/-- The local cycle time at which the guard window begins (R58). -/
def State.guardStart (s : State) : Nat := s.cycleLength - s.bits Config.guardBits

/-- The expiry E, three announce intervals (R33). -/
def State.expiry (s : State) : Nat := 3 * s.cfg.interval

/-! ## Conditions -/

/-- The attached states, in which the station follows bus traffic. -/
def StationState.attached : StationState → Bool
  | .listen | .joined | .resync | .leaving | .quiet => true
  | .unconfigured | .fault | .halt => false

/-- The part is held in reset (R133). -/
def State.heldInReset (s : State) : Bool := s.inputs.supplyLow || s.inputs.pinLow

/-- The station is inside the guard window (R58). -/
def State.inGuard (s : State) : Bool := decide (s.guardStart ≤ s.timer.localTime)

/-- All conditions of R51 for a SYNC pulse hold. -/
def State.pulseDue (s : State) : Bool :=
  s.station.state.attached && s.timer.syncAcquired && decide (s.cycleLength ≤ s.timer.localTime)
    && !s.lines.syncLow && decide (s.bits Config.syncHighBits ≤ s.lines.syncHighTime) && !s.lines.syncDriving

/-- The conditions of R65 for an opportunity, with the recessive measure at `gap` bit times or more (R66 takes 9 for the idle gap's 10;
of a fall at 10 or more: notes/assumptions/26.md). -/
def State.opportunity (s : State) (gap : Nat) : Bool :=
  decide (s.engine.framing = .idle) && decide (s.bits gap ≤ s.engine.recessiveTime) && s.timer.syncAcquired
    && !s.inGuard && decide (s.engine.transmission = .none)

/-- A join window is open (R136). -/
def State.windowOpen (s : State) : Bool :=
  (s.station.state == .listen || s.station.state == .resync) && s.station.opened

/-! ## The outputs slot by slot (Chapter 7) -/

/-- The dither order of R124. -/
def ditherOrder : List Nat := [0, 4, 2, 6, 1, 5, 3, 7]

/-- An entry conducts in slot `k` of a cycle with the given dither index (R123). -/
def DriveEntry.conducts (e : DriveEntry) (index : Nat) (k : Slot) : Bool :=
  spanCovers e.start e.length k &&
    (decide (k.val ≠ (e.start.val + e.length - 1) % 64) || decide (e.fraction = 0)
      || (ditherOrder.take e.fraction).contains index)

/-- The dither index of the current cycle (R124). -/
def State.ditherIndex (s : State) : Nat := s.timer.cycleCounter.toNat % 8

/-- The start of a slot at the Drive Unit: every output is set for the slot (R123). -/
def setOutputs (k : Slot) (s : State) : State :=
  { s with
    drive :=
      { s.drive with
        outputs := Vector.ofFn fun c =>
          match s.drive.table[c] with
          | some e => e.conducts s.ditherIndex k
          | none => false } }

/-- The slot that local cycle time stands in (R50): k from k slot lengths on, and 63 from 63 slot lengths on. -/
def State.slotNow (s : State) : Slot := Fin.ofNat 64 (min 63 (s.timer.localTime / slotPeriods s.cfg.slotCode))

/-- The slot boundaries that local cycle time has passed are reported to the Drive Unit; of several, the last start leaves the
outputs as they stand (R50, R123). -/
def passSlots (s : State) : State :=
  if s.timer.running && decide (s.timer.slotIndex < s.slotNow) then
    setOutputs s.slotNow { s with timer := { s.timer with slotIndex := s.slotNow } }
  else s

/-! ## The level of DATA -/

/-- This station pulls DATA low at this instant: at the dominant bits of the message that it drives; at OBJECT by its own objection
(R72); and at REFUSE by its own verdict (R75). The DATA driver's state (`lines.dataDriving`) reads RELEASED during the pull on OBJECT
and DRIVING from a verdict to pull REFUSE on (DESIGN CHOICE; notes/assumptions/27.md). -/
def State.pullsData (s : State) : Bool :=
  match s.engine.frame with
  | none => false
  | some f =>
      let position := f.elapsed / s.bits 1
      if s.engine.transmission = .driving then
        s.lines.dataDriving && s.sched.composed.any fun k => k.message.wire[position]? == some false
      else
        (position == checkPosition f.read + 8 && s.engine.objection == some .object)
          || (position == Config.refusePosition && s.lines.dataDriving)

/-! ## The passing of time -/

/-- SYNC over `d` periods in which it does not fall: the low time or the high time counts on, and the line rises when
every driver has released it. `counting` is false before the first CONFIG (R47). -/
def LineInterface.advanceSync (l : LineInterface) (d : Nat) (counting : Bool) : LineInterface :=
  if l.syncLow then
    if l.syncDriving || decide (d < l.syncHold) then
      { l with syncLowTime := if counting then l.syncLowTime + d else 0, syncHold := l.syncHold - d }
    else
      { l with
        syncLow := false, syncLowTime := 0, syncHold := 0
        syncHighTime := if counting then d - l.syncHold else 0 }
  else { l with syncHighTime := if counting then l.syncHighTime + d else 0 }

/-- DATA over `d` periods in which this station pulls it throughout or not at all, and no other station's pull begins: a
wired-AND line is dominant while anyone pulls it, and the dominant measure runs from its fall (R83). -/
def LineInterface.advanceData (l : LineInterface) (d : Nat) (counting pulled : Bool) : LineInterface :=
  if pulled || (l.dataDominant && decide (d < l.dataHold)) then
    { l with
      dataDominant := true, dataHold := l.dataHold - d
      dominantTime := if counting then (if l.dataDominant then l.dominantTime else 0) + d else 0 }
  else { l with dataDominant := false, dominantTime := 0, dataHold := 0 }

/-- For how much longer other stations hold DATA dominant. -/
def LineInterface.dataBusy (l : LineInterface) : Nat := if l.dataDominant then l.dataHold else 0

/-- For how much longer one of the two lines is held low or dominant. -/
def LineInterface.busy (l : LineInterface) : Nat := max (if l.syncLow then l.syncHold else 0) l.dataBusy

/-- The lines-idle measure of FAULT after `d` periods in which neither line falls (R60). -/
def LineInterface.idleAfter (l : LineInterface) (d : Nat) : Nat :=
  if l.busy = 0 then l.idleTime + d else d - l.busy

/-! ## END -/

/-- How many bits of END have been read when it has run for `t` periods: each is read at its middle (R67). -/
def State.endBitsRead (s : State) (t : Nat) : Nat := min Config.endBits ((t + s.bits 1 / 2) / s.bits 1)

/-- A bit of END has read dominant when `d` more periods have passed in which DATA does not fall. A dominant level that meets the
middle of no bit is no level of a bit of END (DEDUCED from R67; notes/assumptions/25.md). -/
def State.endReadsDominant (s : State) (r : EndRecord) (d : Nat) : Bool :=
  r.dominant
    || (s.lines.dataDominant
      && decide (s.endBitsRead r.elapsed < s.endBitsRead (r.elapsed + min d (s.lines.dataHold - 1))))

/-- END after `d` periods in which DATA does not fall: the engine goes on framing its bits until it is over (R76). -/
def State.endAfter (s : State) (d : Nat) : Option EndRecord :=
  s.engine.ending.bind fun r =>
    if s.bits Config.endBits ≤ r.elapsed + d then none
    else some { elapsed := r.elapsed + d, dominant := s.endReadsDominant r d }

/-- For how much longer an END in GAP holds the recessive measure down: to its end where a bit of it reads dominant, since the measure
is set back to 0 once END is over (R76), and not at all otherwise. -/
def State.endHold (s : State) : Nat :=
  match s.engine.ending with
  | some r =>
      let left := s.bits Config.endBits - r.elapsed
      if s.engine.framing = .gap ∧ s.endReadsDominant r left = true then left else 0
  | none => 0

/-- The recessive measure after `d` periods in which DATA does not fall: it counts in GAP and IDLE (R64), and from 0 again once an
END with a dominant bit is over (R76). -/
def State.recessiveAfter (s : State) (d : Nat) : Nat :=
  if s.engine.framing = .gap ∨ s.engine.framing = .idle then
    if 0 < s.endHold ∧ s.endHold ≤ d then d - max s.endHold s.lines.dataBusy
    else if s.lines.dataDominant then (if d < s.lines.dataHold then s.engine.recessiveTime else d - s.lines.dataHold)
    else s.engine.recessiveTime + d
  else s.engine.recessiveTime

/-- The measures of the lines count in every state but UNCONFIGURED (R47, R62). -/
def State.counting (s : State) : Bool := decide (s.station.state ≠ .unconfigured)

/-- `d` periods at local cycle time, at SYNC and its pulse, and at the wait of FAULT for idle lines. -/
def passClocks (d : Nat) (s : State) : State :=
  { s with
    timer := if s.timer.running then { s.timer with localTime := s.timer.localTime + d } else s.timer
    lines :=
      { s.lines.advanceSync d s.counting with
        pulseTime := if s.lines.syncDriving then s.lines.pulseTime + d else s.lines.pulseTime
        idleTime := if s.station.state = .fault then s.lines.idleAfter d else s.lines.idleTime } }

/-- `d` periods at DATA and at the Message Engine. The driver of a message that this station joined is DRIVING from the first KIND
bit on (R66). -/
def passData (pulled : Bool) (d : Nat) (s : State) : State :=
  { s with
    lines :=
      { s.lines.advanceData d s.counting pulled with
        dataDriving :=
          s.lines.dataDriving
            || (decide (s.engine.transmission = .driving)
              && s.engine.frame.any fun f => decide (s.bits 1 ≤ f.elapsed + d)) }
    engine :=
      { s.engine with
        recessiveTime := s.recessiveAfter d
        ending := s.endAfter d
        frame := s.engine.frame.map fun f => { f with elapsed := f.elapsed + d } } }

/-- The level of DATA is read where the frame record stands at the middle of a bit that has not been read (R67). -/
def readMiddle (s : State) : State :=
  match s.engine.frame with
  | none => s
  | some f =>
      if f.elapsed = s.bits 1 * f.read.length + s.bits 1 / 2 then
        { s with engine := s.engine.readLevel !s.lines.dataDominant }
      else s

/-- `d` periods at DATA inside a frame: from half bit to half bit, the level is read at the middle of each bit (R67), and this
station's own pull is that of the bit (R68 to R75). `fuel` bounds the number of half bits. -/
def passBits : Nat → Nat → State → State
  | 0, d, s => passData s.pullsData d s
  | fuel + 1, d, s =>
      match s.engine.frame with
      | none => passData s.pullsData d s
      | some f =>
          let half := s.bits 1 / 2
          let ahead := half - f.elapsed % half
          if d < ahead then passData s.pullsData d s
          else passBits fuel (d - ahead) (readMiddle (passData s.pullsData ahead s))

/-- `d` CLKIN periods pass in which no other station makes a line fall: every clock and measure that runs counts on. -/
def elapse (d : Nat) (s : State) : State := passBits (2 * Config.longestFrame) d (passClocks d s)

/-- Time passes, and the slots that it reaches start (R50). -/
def advance (d : Nat) (s : State) : State := passSlots (elapse d s)

/-- Time passes inside a message whose levels the command gives that follows; the part pulls none of them at its end. -/
def advanceInMessage (d : Nat) (s : State) : State := passSlots (passData false d (passClocks d s))

/-- Time passes until local cycle time has reached `t` (not at all where it stands there or beyond). -/
def advanceToLocal (t : Nat) (s : State) : State := advance (t - s.timer.localTime) s

/-- How long it takes until SYNC, where no driver of this station holds it, has been high for 16 bit times (R51, R52). -/
def State.untilHigh (s : State) : Nat :=
  if s.lines.syncLow then s.lines.syncHold + s.bits Config.syncHighBits
  else s.bits Config.syncHighBits - s.lines.syncHighTime

/-- Time passes until SYNC has been high for 16 bit times and local cycle time has reached `t`. -/
def advanceToPulse (t : Nat) (s : State) : State := advance (max (t - s.timer.localTime) s.untilHigh) s

/-- Time passes until no other station holds SYNC low. -/
def advanceToRise (s : State) : State := if s.lines.syncLow then advance s.lines.syncHold s else s

/-- Time passes until no other station holds DATA dominant. -/
def advanceToRecessive (s : State) : State := if s.lines.dataDominant then advance s.lines.dataHold s else s

/-- Time passes until the recessive measure has reached `gap` bit times: counted from 0 where DATA is dominant yet (R64) or an
END with a dominant bit is not over yet (R76). -/
def advanceToGap (gap : Nat) (s : State) : State :=
  if s.lines.dataDominant || decide (0 < s.endHold) then advance (max s.endHold s.lines.dataBusy + s.bits gap) s
  else if s.bits gap ≤ s.engine.recessiveTime then s
  else advance (s.bits gap - s.engine.recessiveTime) s

/-- Time passes until the message on the wire has run for `t` periods since its SOF. -/
def advanceInFrame (t : Nat) (s : State) : State :=
  match s.engine.frame with
  | some f => advanceInMessage (t - f.elapsed) s
  | none => s

/-- Time passes until the message on the wire has reached a bit position. -/
def advanceToBit (position : Nat) (s : State) : State := advanceInFrame (s.bits position) s

/-- Time passes until both lines have been idle together for one cycle length (R60). -/
def advanceToIdle (s : State) : State :=
  advance (if s.lines.busy = 0 then s.cycleLength - s.lines.idleTime else s.lines.busy + s.cycleLength) s

end Sys2Proof.Machine
end

