-- ==== Sys2Proof/Machine/Ops.lean ====
section
/-! DEFINITION. The operations that several commands share: the transmit queue (Chapter 5), settling a channel (R104), the loss
of a holding and eviction (R20 to R23), expiry (R35 to R37), the outputs (Chapter 7), the outcomes of an attempt (R96 to R99)
and the entry into each station state (Chapter 8). -/

namespace Sys2Proof.Machine

/-! ## The transmit queue -/

/-- A fresh entry, with both marks clear. -/
def QueueEntry.fresh (r : Request) : QueueEntry := { request := r, onWire := false, cancel := false }

/-- The channel that a request concerns. -/
def Request.channel? : Request → Option ChannelId
  | .release c => some c
  | .claim c => some c
  | .announce => none
  | .rollcall => none

/-- The request of the other kind for the same channel (R86). -/
def Request.other : Request → Option Request
  | .release c => some (.claim c)
  | .claim c => some (.release c)
  | .announce => none
  | .rollcall => none

/-- Whether a request is a CLAIM. -/
def Request.isClaim : Request → Bool
  | .claim _ => true
  | .announce | .release _ | .rollcall => false

/-- The queue holds a request. -/
def holds (queue : List QueueEntry) (r : Request) : Bool := queue.any fun e => e.request == r

/-- A removal of the entries that `p` selects: an entry on the wire gets the cancel mark instead (R87). -/
def removeEntries (p : Request → Bool) (queue : List QueueEntry) : List QueueEntry :=
  queue.filterMap fun e =>
    if p e.request then (if e.onWire then some { e with cancel := true } else none) else some e

/-- An offer of a request (R86): it merges with the entry of its kind and channel; it is not entered beside an entry of
the other kind on the wire; otherwise it joins at the tail, and an entry of the other kind leaves. -/
def offerTo (queue : List QueueEntry) (r : Request) : List QueueEntry :=
  if holds queue r then queue
  else
    match r.other with
    | none => queue ++ [.fresh r]
    | some o =>
        if queue.any (fun e => e.request == o && e.onWire) then queue
        else (queue.filter fun e => e.request != o) ++ [.fresh r]

/-- The attempt on the wire is over and its request was not resolved: the mark is cleared, or the entry leaves where it
carries the cancel mark (R96, R97). -/
def returnEntry (queue : List QueueEntry) : List QueueEntry :=
  queue.filterMap fun e =>
    if e.onWire then (if e.cancel then none else some { e with onWire := false }) else some e

/-- The attempt on the wire is resolved: its entry leaves (R98). -/
def resolveEntry (queue : List QueueEntry) : List QueueEntry := queue.filter fun e => !e.onWire

/-- An operation on the queue alone. -/
def State.mapQueue (s : State) (f : List QueueEntry → List QueueEntry) : State :=
  { s with sched := { s.sched with queue := f s.sched.queue } }

/-- Offers a request to the Transmit Scheduler. -/
def offer (r : Request) (s : State) : State := s.mapQueue fun q => offerTo q r

/-! ## Channels -/

/-- An operation on one channel record. -/
def State.mapChannel (s : State) (c : ChannelId) (f : Channel → Channel) : State :=
  { s with channels := s.channels.set c (f s.channels[c]) }

/-- The span length that a demand needs: ⌈demand / 8⌉ slots. -/
def slotsFor (demand : Nat) : Nat := (demand + 7) / 8

/-- The kinds that a channel may queue in a station state (the table of R105). -/
def StationState.mayQueue (st : StationState) : Request → Bool
  | .claim _ => st == .joined
  | .release _ => st == .joined || st == .resync
  | .announce => false
  | .rollcall => false

/-- Both kinds of entry for a channel are withdrawn, where they are not on the wire (R104). -/
def withdrawAll (c : ChannelId) (s : State) : State :=
  s.mapQueue fun q => q.filter fun e => e.onWire || e.request.channel? != some c

/-- A channel that needs a request goes to QUEUED or to WAITING (R105). -/
def placeRequest (r : Request) (c : ChannelId) (s : State) : State :=
  if holds s.sched.queue r || s.station.state.mayQueue r then
    (offer r s).mapChannel c fun ch => { ch with state := .queued }
  else
    (withdrawAll c s).mapChannel c fun ch => { ch with state := .waiting }

/-- Settling a channel (R104): its target is compared with its span. -/
def settle (c : ChannelId) (s : State) : State :=
  let ch := s.channels[c]
  match ch.state with
  | .unused => s
  | .inFlight => s
  | .idle | .waiting | .queued | .held | .starved =>
      match ch.span with
      | none =>
          if ch.target = 0 then
            (withdrawAll c s).mapChannel c fun ch => { ch with state := .idle, held := 0 }
          else placeRequest (.claim c) c s
      | some span =>
          if ch.target = 0 then placeRequest (.release c) c s
          else if span.length = slotsFor ch.target then
            (withdrawAll c s).mapChannel c fun ch => { ch with state := .held, held := ch.target }
          else placeRequest (.claim c) c s

/-- A channel leaves IN_FLIGHT and is settled (R109 to R111). -/
def leaveFlight (c : ChannelId) (s : State) : State :=
  settle c (s.mapChannel c fun ch => if ch.state = .inFlight then { ch with state := .waiting } else ch)

/-- Does something for every channel in rising order. -/
def forChannels (f : ChannelId → State → State) (s : State) : State := allChannels.foldl (fun s c => f c s) s

/-- A WAITING channel is settled. -/
def settleIfWaiting (c : ChannelId) (s : State) : State := if s.channels[c].state = .waiting then settle c s else s

/-- Every WAITING channel is settled, in rising order (R116). -/
def settleWaiting (s : State) : State := forChannels settleIfWaiting s

/-- A channel whose request the queue is to lose: QUEUED with a CLAIM (R115). -/
def parkClaims (s : State) : State :=
  { s with
    channels := Vector.ofFn fun c =>
      if s.channels[c].state = .queued && holds s.sched.queue (.claim c) then
        { s.channels[c] with state := .waiting }
      else s.channels[c] }

/-- A used channel loses its span and becomes WAITING or IDLE by its target (R117, R118). -/
def Channel.unspan (ch : Channel) : Channel :=
  if ch.state = .unused then ch
  else { ch with span := none, held := 0, state := if ch.target = 0 then .idle else .waiting }

/-! ## The outputs (Chapter 7) -/

/-- The entry that the latch takes for a channel (R121). -/
def latchedEntry (s : State) (c : ChannelId) : Option DriveEntry :=
  if s.channels[c].state = .unused then none
  else
    match s.station.state with
    | .joined | .resync | .leaving =>
        (s.table.find s.cfg.address c).map fun h =>
          { start := h.start, length := h.length
            fraction := if slotsFor s.channels[c].held = h.length then s.channels[c].held % 8 else 0 }
    | .unconfigured | .listen | .quiet | .fault | .halt => none

/-- The latch of the drive table at a SYNC edge in an attached state (R121). -/
def latch (s : State) : State :=
  if s.station.state.attached then
    { s with drive := { s.drive with table := Vector.ofFn (latchedEntry s) } }
  else s

/-- An immediate clear: the entry is emptied and the output turns off at once (R126). -/
def clearDrive (c : ChannelId) (s : State) : State :=
  { s with drive := { table := s.drive.table.set c none, outputs := s.drive.outputs.set c false } }

/-- Every entry is emptied and every output turns off at once (R127, R128). -/
def clearAllDrive (s : State) : State := { s with drive := .reset }

/-! ## Losing a holding -/

/-- The Plan Table reports that a channel's holding is gone (R22, R36): the output is cleared at once; the span becomes
absent and the held demand 0, EVICTED is set, CHANNEL_EVICTED is posted for an eviction (R112) and not for a self-expiry
(R113), and the channel is settled unless it is IN_FLIGHT. -/
def loseHolding (byEviction : Bool) (c : ChannelId) (s : State) : State :=
  let s := clearDrive c s
  if s.channels[c].state = .unused then s
  else
    let s := s.mapChannel c fun ch => { ch with span := none, held := 0, evicted := true }
    settle c (if byEviction then post .channelEvicted (.channel c) s else s)

/-- One step of eviction: the holding is removed and, where it is the station's own, reported at once (R21, R22). -/
def evictOne (h : Holding) (s : State) : State :=
  let s := { s with table := s.table.remove h }
  if h.owner = s.cfg.address then loseHolding true h.channel s else s

/-- Eviction, for at most `fuel` steps (R21). -/
def evictSteps : Nat → State → State
  | 0, s => s
  | fuel + 1, s =>
      match s.table.evictionChoice s.cfg.budget with
      | none => s
      | some h => evictSteps fuel (evictOne h s)

/-- Eviction (R20, R21): every step removes one holding, so as many steps as there are holdings are enough. -/
def evict (s : State) : State := evictSteps s.table.plan.length s

/-- A STARVED channel leaves STARVED at a freeing notice: to QUEUED with its CLAIM in JOINED and to WAITING in other states
(R114). -/
def retryStarved (c : ChannelId) (s : State) : State :=
  if s.channels[c].state = .starved then
    if s.station.state = .joined then
      (offer (.claim c) s).mapChannel c fun ch => { ch with state := .queued }
    else s.mapChannel c fun ch => { ch with state := .waiting }
  else s

/-- A freeing notice reaches every channel, in rising order (R114). -/
def freeingNotice (s : State) : State := forChannels retryStarved s

/-- Eviction, and then a freeing notice if the change before it lost coverage or eviction removed a holding
(R20, R23, R24). `tell` posts the events that come between the two. -/
def evictAndFree (lost : Bool) (tell : State → State) (s : State) : State :=
  let after := tell (evict s)
  if lost || decide (after.table.plan.length < s.table.plan.length) then freeingNotice after else after

/-! ## Expiry -/

/-- One record expires (R35, R36): it becomes ABSENT at age E and keeps its reported cycle age; the holdings of its
owner are removed, and the station's own are reported to their channels. Of several own channels the lower is reported first, and
its CLAIM joins the queue first (DESIGN CHOICE; notes/assumptions/23.md). -/
def expireRecord (a : Address) (s : State) : State :=
  let own := s.table.holdingsOf a
  let t := s.table.setPeer a { s.table.peers[a] with present := false, age := s.expiry }
  let s := { s with table := t.removeOwner a }
  if a = s.cfg.address then own.foldl (fun s h => loseHolding false h.channel s) s else s

/-- The event that an expiry posts (R35, R36). -/
def postExpiry (a : Address) (s : State) : State :=
  post (if a = s.cfg.address then .selfExpired else .peerExpired) (.address a) s

/-- The expiries of one edge, in the order of R37: the records in ascending order, eviction, the events in ascending
order, the freeing notice. -/
def expireAll (as : List Address) (s : State) : State :=
  let removed := as.foldl (fun s a => expireRecord a s) s
  evictAndFree (decide (removed.table.plan.length < s.table.plan.length))
    (fun s => as.foldl (fun s a => postExpiry a s) s) removed

/-- The records that have reached the expiry E, in ascending order. -/
def State.dueRecords (s : State) : List Address :=
  allAddresses.filter fun a => s.table.peers[a].present && decide (s.expiry ≤ s.table.peers[a].age)

/-- The own announce age (R30). -/
def State.ownAge (s : State) : Nat := s.table.peers[s.cfg.address].age

/-- The announce-due test of R39 in JOINED and RESYNC. -/
def announceDueTest (s : State) : State :=
  if (s.station.state = .joined || s.station.state = .resync) && decide (s.cfg.interval ≤ s.ownAge) then
    offer .announce s
  else s

/-! ## Entries into the station states (Chapter 8) -/

/-- The new state and cause, with the window items at their reset values (R131). -/
def setStation (state : StationState) (cause : Cause) (s : State) : State :=
  { s with
    station :=
      { s.station with
        state := state, cause := cause, opened := false, count := 0, traffic := false, rollcall := .none } }

/-- The Cycle Timer starts (R48). -/
def startTimer (s : State) : State :=
  { s with timer := { running := true, localTime := 0, slotIndex := 0, cycleCounter := 0, syncAcquired := false } }

/-- The Message Engine waits for a SYNC edge: a frame in progress is dropped with its verdicts (R63). -/
def awaitSync (s : State) : State :=
  { s with
    lines := { s.lines with dataDriving := false }
    engine :=
      { s.engine with framing := .awaitSync, ending := none, frame := none, objection := none, verdict := none } }

/-- Entry to LISTEN: plan and peer table are emptied (R25, R38), the engine waits for an edge (R63), a ROLLCALL is offered
(R88) and a join window begins (R135). A frame that LEAVE QUIET drops so is not handed over, so that a commit falling together with
the command halts the station only where it is taken first (DESIGN CHOICE; notes/assumptions/24.md). -/
def enterListen (cause : Cause) (s : State) : State :=
  offer .rollcall (awaitSync { setStation .listen cause s with table := .reset })

/-- Entry to JOINED (R138): a queued ROLLCALL is removed, an ANNOUNCE is offered, the WAITING channels are settled behind it
(R116), and JOINED is posted. -/
def enterJoined (cause : Cause) (s : State) : State :=
  let s := (setStation .joined cause s).mapQueue fun q => removeEntries (· == .rollcall) q
  post .joined (.cause cause) (settleWaiting (offer .announce s))

/-- The plan and the peer table keep what is the station's own (R26, R38). -/
def PlanTable.keepOwn (t : PlanTable) (own : Address) : PlanTable :=
  { t.keepOwner own with peers := Vector.ofFn fun a => if a = own then t.peers[a] else .reset }

/-- Entry to RESYNC (R139): the own holdings and record are kept, the engine waits for an edge, queued CLAIMs are removed and a
ROLLCALL is offered, the channels follow R115, and RESYNC is posted. -/
def enterResync (cause : Cause) (s : State) : State :=
  let fromLeaving := s.station.state = .leaving
  let s := parkClaims (setStation .resync cause s)
  let s := awaitSync { s with table := s.table.keepOwn s.cfg.address }
  let s := offer .rollcall (s.mapQueue fun q => removeEntries Request.isClaim q)
  post .resync (.cause cause) (if fromLeaving then settleWaiting s else s)

/-- Entry to LEAVING (R141): queued CLAIMs are removed, the closing ANNOUNCE is offered, and the channels follow R115. -/
def enterLeaving (s : State) : State :=
  let s := parkClaims (setStation .leaving .request s)
  offer .announce (s.mapQueue fun q => removeEntries Request.isClaim q)

/-- Entry to QUIET (R143): the quiet-stale flag is cleared, the outputs turn off, the queue is emptied, the channels lose
their spans (R117), and QUIET_ENTERED is posted. -/
def enterQuiet (s : State) : State :=
  let s := clearAllDrive (setStation .quiet .closed s)
  let s :=
    { s with
      station := { s.station with quietStale := false }
      sched := { s.sched with queue := [] }
      channels := s.channels.map Channel.unspan }
  post .quietEntered (.address s.cfg.address) s

/-- What entry to FAULT and entry to HALT have in common (R146, R148): plan and peer table emptied (R27, R38), the timer
stopped with its counter kept and the SYNC driver released (R48), framing OFF and the transmission dropped (R82), the queue
emptied (R88), the spans removed (R118) and the outputs off (R127). -/
def shutDown (state : StationState) (cause : Cause) (s : State) : State :=
  let s := clearAllDrive (setStation state cause s)
  { s with
    table := .reset
    timer := { s.timer with running := false, localTime := 0, slotIndex := 0, syncAcquired := false }
    lines := { s.lines with syncDriving := false, pulseTime := 0, dataDriving := false, idleTime := 0 }
    engine :=
      { s.engine with
        framing := .off, ending := none, frame := none, objection := none, verdict := none, transmission := .none
        request := none }
    sched := .reset
    channels := s.channels.map Channel.unspan }

/-- Entry to FAULT (R146). -/
def enterFault (cause : Cause) (s : State) : State := post .fault (.cause cause) (shutDown .fault cause s)

/-- Entry to HALT (R148). -/
def enterHalt (cause : Cause) (s : State) : State := post .halt (.cause cause) (shutDown .halt cause s)

/-! ## The outcomes of an attempt -/

/-- The channel of the own request on the wire. -/
def State.attemptChannel (s : State) : Option ChannelId := s.engine.request.bind Request.channel?

/-- The transmission is over: DATA is released, and no request is on the wire (R68, R70, R76). -/
def endTransmission (s : State) : State :=
  { s with
    lines := { s.lines with dataDriving := false }
    engine := { s.engine with transmission := .none, request := none } }

/-- The Channel Controller hears of the outcome for its channel, if the request concerns one. -/
def tellChannel (c : Option ChannelId) (s : State) : State :=
  match c with
  | some c => leaveFlight c s
  | none => s

/-- An attempt ends without a commit: its entry returns to the queue or leaves it, the composed record is dropped, and the
channel is settled (R96, R97, R109). -/
def endAttempt (s : State) : State :=
  let c := s.attemptChannel
  let s := endTransmission s
  tellChannel c { s with sched := { s.sched with queue := returnEntry s.sched.queue, composed := none } }

/-- The consecutive-void counter advances, and TX_OBJECTED is posted when it reaches 8 (R97). -/
def countVoid (cause : Cause) (s : State) : State :=
  if s.sched.voids < Config.voidLimit then
    let s := { s with sched := { s.sched with voids := s.sched.voids + 1 } }
    if s.sched.voids = Config.voidLimit then post .txObjected (.cause cause) s else s
  else s

/-- An own attempt is reported as lost (R68, R69, R96). -/
def reportLost (s : State) : State := endAttempt s

/-- An own attempt is reported as void (R97). -/
def reportVoid (cause : Cause) (s : State) : State := countVoid cause (endAttempt s)

end Sys2Proof.Machine
end

