-- ==== Sys2Proof/Machine/Edge.lean ====
section
/-! DEFINITION. The falling edges of SYNC (R52, R53, R57): what a valid edge is to each block, how a fall is judged, and the rows that
name one part of an edge (R35, R36, R39, R137). -/

namespace Sys2Proof.Machine

/-- SYNC falls: the measure of low time restarts, and in FAULT the wait for idle lines does (R52, R59, R60). -/
def fallSync (hold : Nat) (s : State) : State :=
  { s with
    lines :=
      { s.lines with syncLow := true, syncLowTime := 0, syncHighTime := 0, syncHold := hold, idleTime := 0 } }

/-! ## The blocks' parts -/

/-- The Cycle Timer: local cycle time and slot index return to 0, the counter advances, sync-acquired is set (R53, R56). -/
def edgeTimer (s : State) : State :=
  { s with
    timer :=
      { s.timer with
        localTime := 0, slotIndex := 0, cycleCounter := s.timer.cycleCounter + 1, syncAcquired := true } }

/-- The Plan Table (R37): ageing, the expiries and their reports, and the announce-due test. -/
def edgePlan (s : State) : State :=
  let aged := { s with table := s.table.agePeers }
  announceDueTest (expireAll aged.dueRecords aged)

/-- The Drive Unit: the latch, and then the outputs for slot 0 (R121). -/
def edgeDrive (s : State) : State := setOutputs 0 (latch s)

/-- The Message Engine: a message that it still frames is void, with its transmitter's attempt (R77), and the framing state
becomes GAP with the measure at 0, in AWAIT_SYNC too (R64). A message whose outcome is decided is framed no longer. -/
def edgeEngine (s : State) : State :=
  match s.engine.framing with
  | .off => s
  | .awaitSync | .gap | .idle | .frame =>
      let t :=
        { s with
          lines := { s.lines with dataDriving := false }
          engine :=
            { s.engine with
              framing := .gap, recessiveTime := 0, ending := none, frame := none, objection := none, verdict := none } }
      if s.engine.framing = .frame ∧ s.engine.transmission ≠ .none then reportVoid .sync t else t

/-- The window opens at the first edge after the entry (R135). -/
def openWindow (s : State) : State := { s with station := { s.station with opened := true } }

/-- The window items move on to the next cycle (R137, step 4). -/
def continueWindow (s : State) : State :=
  { s with
    station :=
      { s.station with
        traffic := false
        rollcall := match s.station.rollcall with
          | .thisCycle => .earlier
          | .none => .none
          | .earlier => .earlier } }

/-- The test of the cycle that an edge ends (R137, steps 2 and 3): an early end, the end at E edges, or neither. -/
def State.windowEnd (s : State) : Option Cause :=
  if !s.station.traffic && s.station.rollcall == .earlier then some .early
  else if s.expiry ≤ s.station.count then some .window
  else none

/-- The Station Controller (R135, R137). -/
def edgeStation (s : State) : State :=
  match s.station.state with
  | .listen | .resync =>
      if !s.station.opened then openWindow s
      else
        let s := { s with station := { s.station with count := s.station.count + 1 } }
        match s.windowEnd with
        | some cause => enterJoined cause s
        | none => continueWindow s
  | .unconfigured | .joined | .leaving | .quiet | .fault | .halt => s

/-- The hand-offs that the outcome of a message brings, to one block each (R74, R76). -/
structure HandOffs where
  /-- the Plan Table's event for a commit, with the HALT of R9 -/
  message : State → State
  /-- the report of the own attempt to the Transmit Scheduler, and from it to the channel -/
  attempt : State → State
  /-- the report to the Station Controller -/
  station : State → State

/-- Nothing is handed over. -/
def HandOffs.none : HandOffs := { message := id, attempt := id, station := id }

/-- The hand-offs in the order of R76, with nothing between them. -/
def HandOffs.run (h : HandOffs) (s : State) : State := h.station (h.attempt (h.message s))

/-- One event of an edge; `handOffs` are those of a message whose outcome falls together with it. -/
def edgePart (handOffs : HandOffs) : EdgePart → State → State
  | .planTable => edgePlan
  | .driveUnit => edgeDrive
  | .messageEngine => edgeEngine
  | .stationController => edgeStation
  | .message _ => handOffs.message
  | .attemptReport => handOffs.attempt
  | .stationReport => handOffs.station

/-- The events of a valid SYNC edge at a running timer (R53, R57): the timer's own, and then the others in the given order. -/
def validEdge (order : List EdgePart) (handOffs : HandOffs) (s : State) : State :=
  order.foldl (fun s p => edgePart handOffs p s) (edgeTimer s)

/-! ## The judgement of a fall -/

/-- SYNC has been high for the 16 bit times that make a fall valid, and the timer acts on it (R52). -/
def State.fallIsValid (s : State) : Bool := s.timer.running && decide (s.bits Config.syncHighBits ≤ s.lines.syncHighTime)

/-- SYNC falls at this instant, and the fall is judged by the high time before it (R52). -/
def takeFall (hold : Nat) (order : List EdgePart) (handOffs : HandOffs) (s : State) : State :=
  if s.fallIsValid then validEdge order handOffs (fallSync hold s) else fallSync hold s

/-- The station's own pulse has begun and its fall of SYNC has not been taken yet. -/
def State.fallWaits (s : State) : Bool := s.lines.syncDriving && !s.lines.syncLow

/-- Before any time passes, SYNC falls by the station's own pulse where one has just begun (R51, R52). The blocks take such an edge
in the order of R57's list where no SYNC_EDGE names another (DESIGN CHOICE; notes/assumptions/6.md). -/
def ownFall (s : State) : State := if s.fallWaits then takeFall 0 EdgePart.usualOrder .none s else s

/-! ## The rows -/

/-- The record is PRESENT at a station that ages it, so that it can reach age E (R34). -/
def State.mayExpire (s : State) (a : Address) : Bool := s.station.state.attached && s.table.peers[a].present

/-- PEER_EXPIRED (R35): the PRESENT record of another station reaches age E. Given by itself the row brings nothing else of its SYNC edge
(DESIGN CHOICE; notes/assumptions/18.md). -/
def execPeerExpired (a : BitVec 5) (s : State) : Host.Outcome State Fault Refusal :=
  .next
    (if addressOf a ≠ s.cfg.address ∧ s.mayExpire (addressOf a) = true then expireAll [addressOf a] s else s)

/-- SELF_EXPIRED (R36): the PRESENT own record reaches age E, and the ANNOUNCE is due at once (R39). That happens at a SYNC
edge, which voids an own message on the wire (R77); R113 lets the void and the expiry reach a channel in either order, and this row
takes the void first (DESIGN CHOICE; notes/assumptions/18.md). -/
def execSelfExpired (s : State) : Host.Outcome State Fault Refusal :=
  .next
    (if s.mayExpire s.cfg.address then
      announceDueTest
        (expireAll [s.cfg.address] (if s.engine.transmission = .none then s else edgeEngine s))
    else s)

/-- The own announce age reaches I, where the record is PRESENT and stands below it. -/
def ageOwnToInterval (s : State) : State :=
  let p := s.table.peers[s.cfg.address]
  if p.present then { s with table := s.table.setPeer s.cfg.address { p with age := max p.age s.cfg.interval } } else s

/-- ANNOUNCE_DUE (R39): in JOINED or RESYNC the own announce age is I or more, and an ANNOUNCE is offered. Given by itself the row brings
nothing else of its SYNC edge (DESIGN CHOICE; notes/assumptions/29.md). -/
def execAnnounceDue (s : State) : Host.Outcome State Fault Refusal :=
  .next
    (if s.station.state = .joined || s.station.state = .resync then announceDueTest (ageOwnToInterval s) else s)

/-- JOIN_WINDOW_END (R137): the count of an open window reaches E and the station enters JOINED; the cause is EARLY where the
early ending is met too. The entry takes place within a SYNC edge (R138); given by itself the row brings nothing else of that edge: the
cycle counter, and with it the stamp of JOINED, is that of the cycle before it, and an own ROLLCALL on the wire is cancelled and runs on
(DESIGN CHOICE; notes/assumptions/29.md). -/
def execJoinWindowEnd (s : State) : Host.Outcome State Fault Refusal :=
  .next
    (if s.windowOpen then
      enterJoined (if !s.station.traffic && s.station.rollcall == .earlier then .early else .window) s
    else s)

end Sys2Proof.Machine
end

