-- ==== Sys2Proof/Machine/Exchange.lean ====
section
/-! DEFINITION. Message exchange up to the verdict bits: the falls of DATA (R64), selection, composition and placement at a SOF
(R65, R66, R89 to R95), lost arbitration and readback (R68 to R70), OBJECT (R72, R74) and REFUSE (R75). -/

namespace Sys2Proof.Machine

/-! ## The start of a frame -/

/-- DATA falls to dominant: the dominant measure starts (R83), and in FAULT the wait for idle lines restarts (R60). -/
def fallData (hold : Nat) (s : State) : State :=
  { s with
    lines :=
      { s.lines with dataDominant := true, dominantTime := 0, dataHold := hold, idleTime := 0 } }

/-- A start of frame: the framing state becomes FRAME at bit position 0 and the accumulator is all ones (R64). -/
def openFrame (s : State) : State :=
  { s with
    engine :=
      { s.engine with
        framing := .frame, frame := some { read := [], elapsed := 0 }, accumulator := 0xFF
        objection := none, verdict := none } }

/-! ## Composition (R91 to R93) -/

/-- The kinds that a station state permits (R89). -/
def StationState.permits (st : StationState) : Request → Bool
  | .announce => st == .joined || st == .resync || st == .leaving
  | .release _ => st == .joined || st == .resync
  | .claim _ => st == .joined
  | .rollcall => st == .listen || st == .joined || st == .resync

/-- The own address as a SENDER field. -/
def State.ownSender (s : State) : BitVec 5 := BitVec.ofNat 5 s.cfg.address.val

/-- The message of an ANNOUNCE (R91): the own holdings of the plan, and none in LEAVING. -/
def composeAnnounce (s : State) : Message :=
  .announce s.ownSender s.cfg.digest s.timer.cycleCounter
    (if s.station.state = .leaving then [] else (s.table.holdingsOf s.cfg.address).map entryOf)

/-- The message of a CLAIM for a channel (R92), if the Placement Engine finds a start. -/
def composeClaim (c : ChannelId) (s : State) : Option Message :=
  let length := slotsFor s.channels[c].target
  let rating := s.channels[c].rating
  (s.table.place s.cfg.budget s.cfg.address c length rating).map fun start =>
    .claim s.ownSender (entryOf { owner := s.cfg.address, channel := c, start := start, length := length, rating := rating })

/-- The composed record of a request whose message is composed now (R85). -/
def State.composedOf (s : State) (r : Request) (m : Message) : Composed :=
  { request := r, message := m
    target := match r with
      | .claim c => s.channels[c].target
      | .announce | .release _ | .rollcall => 0
    station := s.station.state }

/-! ## Selection (R89) -/

/-- The queue holds an entry that the station state permits. -/
def State.selectable (s : State) (r : Request) : Bool := holds s.sched.queue r && s.station.state.permits r

/-- The channels of the queued RELEASEs, from the head. -/
def State.releases (s : State) : List ChannelId :=
  s.sched.queue.filterMap fun e => match e.request with
    | .release c => some c
    | .announce | .claim _ | .rollcall => none

/-- The channels of the queued CLAIMs, from the head. -/
def State.claims (s : State) : List ChannelId :=
  s.sched.queue.filterMap fun e => match e.request with
    | .claim c => some c
    | .announce | .release _ | .rollcall => none

/-- A CLAIM that finds no fit is withdrawn, and its channel becomes STARVED (R92, R108). -/
def starve (c : ChannelId) (s : State) : State :=
  let s := s.mapQueue fun q => removeEntries (· == .claim c) q
  post .channelStarved (.channel c) (s.mapChannel c fun ch => { ch with state := .starved, starved := true })

/-- The CLAIMs are tried in order: each that finds no fit starves, and the first that fits is composed (R89). -/
def tryClaims : List ChannelId → State → State × Option Composed
  | [], s => (s, none)
  | c :: cs, s =>
      match composeClaim c s with
      | some m => (s, some (s.composedOf (.claim c) m))
      | none => tryClaims cs (starve c s)

/-- Selection at an opportunity: the ANNOUNCE, then the first RELEASE, then the CLAIMs, then the ROLLCALL (R89). -/
def selectMessage (s : State) : State × Option Composed :=
  if s.selectable .announce then (s, some (s.composedOf .announce (composeAnnounce s)))
  else
    match s.releases.filter (fun c => s.station.state.permits (.release c)) with
    | c :: _ => (s, some (s.composedOf (.release c) (.release s.ownSender (BitVec.ofNat 4 c.val))))
    | [] =>
        match tryClaims (s.claims.filter fun c => s.station.state.permits (.claim c)) s with
        | (s, some k) => (s, some k)
        | (s, none) =>
            if s.selectable .rollcall then (s, some (s.composedOf .rollcall (.rollcall s.ownSender)))
            else (s, none)

/-- The on-wire mark of a request's entry is set (R89). -/
def markOnWire (r : Request) (queue : List QueueEntry) : List QueueEntry :=
  queue.map fun e => if e.request = r then { e with onWire := true } else e

/-- The SOF of the composed message (R65, R66, R90): its entry is marked, the engine is DRIVING it, and its channel goes to
IN_FLIGHT (R108). `pulls`: the SOF is this station's own; of a joined frame it drives the bits from the first of KIND on. -/
def driveFrame (pulls : Bool) (k : Composed) (s : State) : State :=
  let s :=
    { s with
      lines := { s.lines with dataDriving := pulls }
      engine := { s.engine with transmission := .driving, request := some k.request }
      sched := { s.sched with queue := markOnWire k.request s.sched.queue, composed := some k } }
  match k.request.channel? with
  | some c => s.mapChannel c fun ch => { ch with state := .inFlight }
  | none => s

/-- An opportunity (R65): if a request may be sent, its message starts with the station's own pull of DATA. -/
def startFrame (s : State) : State :=
  match selectMessage s with
  | (s, none) => s
  | (s, some k) => driveFrame true k (openFrame (fallData 0 s))

/-- Another station's SOF that this station may join (R66): it drives from the first KIND bit onward if it has a message, and
receives otherwise. -/
def joinFrame (hold : Nat) (s : State) : State :=
  let s := openFrame (fallData hold s)
  match selectMessage s with
  | (s, none) => s
  | (s, some k) => driveFrame false k s

/-- Within a message a fall of DATA sets the alignment of the bit times: a bit begins there (R67). -/
def alignFrame (s : State) : State :=
  { s with
    engine :=
      { s.engine with
        frame := s.engine.frame.map fun f =>
          { f with elapsed := (f.elapsed + s.bits 1 / 2) / s.bits 1 * s.bits 1 } } }

/-- END with the beginning of a bit, `bit` periods long, at this instant; or no END, where its last bit ends here. -/
def EndRecord.align (bit : Nat) (r : EndRecord) : Option EndRecord :=
  let begun := (r.elapsed + bit / 2) / bit
  if Config.endBits ≤ begun then none else some { r with elapsed := begun * bit }

/-- A fall of DATA in END is a change within the message, and a bit of END begins there, or END is over (R67). -/
def alignEnd (s : State) : State :=
  { s with engine := { s.engine with ending := s.engine.ending.bind (EndRecord.align (s.bits 1)) } }

/-- DATA falls by another station's pull (R64): in IDLE a start of frame, joined where R66 lets it be; in GAP the recessive measure
restarts, and the bits of an END in progress are aligned to it; within a message the bits are. A fall that comes at the idle gap
or beyond, where R65 gives this station an SOF of its own at the same instant, is joined as well (DESIGN CHOICE;
notes/assumptions/26.md). -/
def landFall (hold : Nat) (s : State) : State :=
  match s.engine.framing with
  | .idle => if s.opportunity Config.joinGapBits then joinFrame hold s else openFrame (fallData hold s)
  | .gap =>
      let t := alignEnd (fallData hold s)
      { t with engine := { t.engine with recessiveTime := 0 } }
  | .frame => alignFrame (fallData hold s)
  | .off | .awaitSync => fallData hold s

/-- Another station pulls DATA for `hold` periods: DATA falls once it is recessive, and a pull within this station's own makes no
fall. -/
def dataFall (hold : Nat) (s : State) : State :=
  let t := advanceToRecessive s
  if t.lines.dataDominant then { t with lines := { t.lines with dataHold := max t.lines.dataHold hold } }
  else landFall hold t

/-! ## Readback -/

/-- A mismatch after SENDER: DATA is released and the transmission is STOPPED (R70). -/
def stopDriving (s : State) : State :=
  { s with
    lines := { s.lines with dataDriving := false }
    engine := { s.engine with transmission := .stopped } }

/-- The message that the wire carries is compared with the own one: another KIND or SENDER means that the arbitration was
lost (R68), and another payload that the readback failed (R70). -/
def readback (m : Message) (s : State) : State :=
  if s.engine.transmission = .none then s
  else
    match s.sched.composed with
    | none => s
    | some k =>
        if !k.message.sameArbitration m then reportLost s
        else if k.message = m then s
        else stopDriving s

/-- The station is DRIVING the message that the wire carries (R44). -/
def State.drives (s : State) (m : Message) : Bool :=
  decide (s.engine.transmission = .driving) && decide (s.sched.composed.map Composed.message = some m)

/-- The message as the command gives it has been read up to OBJECT: the frame record, the check accumulator and the own objection
are what its levels make them (R67, R72). -/
def readMessage (m : Message) (check : BitVec 8) (object : Bool) (s : State) : State :=
  { s with
    engine :=
      { s.engine with
        accumulator := m.check
        frame := s.engine.frame.map fun f => { f with read := m.read check ++ [object] }
        objection := some (m.objection check) } }

/-- END begins: the framing state is GAP with the measure at 0, the frame record and both verdicts are dropped, and this station
pulls DATA no longer (R64). Its bits are framed from here on (R76). DATA stays dominant where another station holds it. -/
def endFrame (s : State) : State :=
  { s with
    lines := { s.lines with dataDriving := false }
    engine :=
      { s.engine with
        framing := .gap, recessiveTime := 0, ending := some { elapsed := 0, dominant := false }, frame := none
        objection := none, verdict := none } }

/-! ## OBJECT -/

/-- A committed ANNOUNCE or an objected message marks the cycle while a join window is open (R136). -/
def markTraffic (s : State) : State :=
  if s.windowOpen then { s with station := { s.station with traffic := true } } else s

/-- OBJECT has read dominant, and the frame has run on for `t` periods, to its end or to the SYNC edge that ends it (R74). -/
def readObjected (t : Nat) (m : Message) (check : BitVec 8) (s : State) : State :=
  endFrame (readMessage m check false (readback m (advanceInFrame t s)))

/-- A transmitter's attempt is void with cause OBJECTED (R74). -/
def reportObjected (s : State) : State := if s.engine.transmission = .none then s else reportVoid .objected s

/-- The hand-offs of a message that is void by objection (R74): the report of the attempt, and the mark of the cycle at the Station
Controller (R136). -/
def HandOffs.objected : HandOffs := { message := id, attempt := reportObjected, station := markTraffic }

/-- The message is void by objection (R74). -/
def objected (m : Message) (check : BitVec 8) (s : State) : State :=
  HandOffs.objected.run (readObjected (s.bits m.commitPoint) m check s)

/-! ## REFUSE -/

/-- The admission check of a received CLAIM (R17, R18). -/
def State.admissionOf (s : State) (sender : BitVec 5) (e : WireEntry) (c : ChannelId) : Verdict :=
  s.table.admission s.cfg.budget (addressOf sender) c (slotOf e.start) (e.lengthLess1.toNat + 1) e.rating.toNat

/-- The states that compute the admission check (R17). -/
def StationState.judges : StationState → Bool
  | .joined | .leaving | .quiet => true
  | .unconfigured | .listen | .resync | .fault | .halt => false

/-- The states that pull REFUSE (R17). -/
def StationState.pullsRefuse : StationState → Bool
  | .joined | .leaving => true
  | .unconfigured | .listen | .resync | .quiet | .fault | .halt => false

/-- The own admission verdict on the CLAIM that the wire carries (R17, R71): a judging receiver computes it, a sender's
admits, and a station does not judge a CLAIM that bears its address and that it does not drive. -/
def State.ownVerdict (s : State) (sender : BitVec 5) (e : WireEntry) : Option Verdict :=
  if !s.station.state.judges then none
  else if s.drives (.claim sender e) then some .admits
  else if addressOf sender = s.cfg.address then none
  else (channelOf? e.channel).map (s.admissionOf sender e)

/-- The REFUSE bit of a CLAIM whose OBJECT bit read recessive (R75). A CLAIM that this station objects to has no verdict
(R19). -/
def refuse (sender : BitVec 5) (e : WireEntry) (s : State) : State :=
  let m := Message.claim sender e
  let s := readMessage m m.check true (readback m (advanceToBit Config.refusePosition s))
  if m.unacceptable then s
  else
    let verdict := s.ownVerdict sender e
    let pulls := s.station.state.pullsRefuse && verdict == some .refuses
    { s with
      lines := { s.lines with dataDriving := s.lines.dataDriving || pulls }
      engine := { s.engine with verdict := verdict } }

/-! ## The rows -/

/-- DATA_FALL (R64, R66). -/
def execDataFall (hold : Nat) (s : State) : Host.Outcome State Fault Refusal := .next (dataFall hold (ownFall s))

/-- START_OF_FRAME (R65): the recessive measure reaches the idle gap; without an opportunity nothing starts. -/
def execStartOfFrame (s : State) : Host.Outcome State Fault Refusal :=
  let s := ownFall s
  let t := advanceToGap Config.idleGapBits s
  .next (if t.opportunity Config.idleGapBits then startFrame t else s)

/-- JOIN_START_OF_FRAME (R66): a station that may not join the fall receives it. -/
def execJoinStartOfFrame (s : State) : Host.Outcome State Fault Refusal :=
  let s := ownFall s
  let t := advanceToGap Config.joinGapBits s
  .next (if t.opportunity Config.joinGapBits then joinFrame (s.bits 1) t else dataFall (s.bits 1) s)

/-- ATTEMPT_LOST (R68, R96). -/
def execAttemptLost (s : State) : Host.Outcome State Fault Refusal :=
  .next (if s.engine.transmission = .driving then reportLost s else s)

/-- MISMATCH_AFTER_SENDER (R70). -/
def execMismatchAfterSender (s : State) : Host.Outcome State Fault Refusal :=
  .next (if s.engine.transmission = .driving then stopDriving s else s)

/-- MESSAGE_OBJECTED (R74): a station that does not frame the message does nothing. -/
def execMessageObjected (m : Message) (check : BitVec 8) (s : State) : Host.Outcome State Fault Refusal :=
  let s := ownFall s
  .next (if s.engine.framing = .frame then objected m check s else s)

/-- REFUSE_BIT (R75): a station that does not frame the message does nothing. -/
def execRefuseBit (sender : BitVec 5) (e : WireEntry) (s : State) : Host.Outcome State Fault Refusal :=
  let s := ownFall s
  .next (if s.engine.framing = .frame then refuse sender e s else s)

end Sys2Proof.Machine
end

