-- ==== Sys2Proof/Machine/Commit.lean ====
section
/-! DEFINITION. The commit of a message (R76): its application to the plan and the peer table (R9 to R16), the report of an own
commit to the Transmit Scheduler and its channel (R98, R99, R110, R111), and the reports to the Station Controller (R78 to
R80, R136). -/

namespace Sys2Proof.Machine

/-! ## Step 1: the Plan Table -/

/-- The entry of an ANNOUNCE for a channel, as the holding that it inserts. -/
def announcedHolding (owner : Address) (entries : List WireEntry) (c : ChannelId) : Option Holding :=
  entries.findSome? fun e => if channelOf? e.channel = some c then some (holdingOf owner c e) else none

/-- The overwrite of R10: every holding of the sender is removed, and one is inserted for each entry. -/
def PlanTable.overwrite (t : PlanTable) (owner : Address) (entries : List WireEntry) : PlanTable :=
  entries.foldl
    (fun t e => match channelOf? e.channel with
      | some c => t.insert (holdingOf owner c e)
      | none => t)
    (t.removeOwner owner)

/-- A committed ANNOUNCE (R10, R31): the overwrite and the peer update, then eviction, PEER_ARRIVED where the sender was ABSENT
and is another station, and the freeing notice where the sender lost coverage or eviction removed a holding. -/
def applyAnnounce (sender : Address) (cycleAge : BitVec 16) (entries : List WireEntry) (s : State) : State :=
  let arrived := !s.table.peers[sender].present && decide (sender ≠ s.cfg.address)
  let lost :=
    s.table.plan.any fun h =>
      h.owner == sender && PlanTable.losesCoverage h (announcedHolding sender entries h.channel)
  let t := s.table.overwrite sender entries
  evictAndFree lost (fun s => if arrived then post .peerArrived (.address sender) s else s)
    { s with table := t.setPeer sender { present := true, age := 0, cycleAge := cycleAge } }

/-- An admitted CLAIM (R12): ignored where its sender is ABSENT; otherwise it replaces the holding of its key, eviction runs, and
a freeing notice follows where coverage was lost. -/
def applyClaim (sender : Address) (c : ChannelId) (e : WireEntry) (s : State) : State :=
  if s.table.peers[sender].present then
    let new := holdingOf sender c e
    let lost := match s.table.find sender c with
      | some old => PlanTable.losesCoverage old (some new)
      | none => false
    evictAndFree lost id { s with table := s.table.insert new }
  else s

/-- A committed RELEASE (R15). -/
def applyRelease (sender : Address) (c : ChannelId) (s : State) : State :=
  evictAndFree (s.table.find sender c).isSome id { s with table := s.table.removeKey sender c }

/-- A committed ROLLCALL (R16, R40): an ANNOUNCE is due in JOINED, RESYNC and LEAVING. -/
def applyRollcall (s : State) : State :=
  match s.station.state with
  | .joined | .resync | .leaving => offer .announce s
  | .unconfigured | .listen | .quiet | .fault | .halt => s

/-- The Plan Table's event for a committed message; `refused` is the wire verdict of a CLAIM. -/
def applyMessage (m : Message) (refused : Bool) (s : State) : State :=
  match m with
  | .announce sender _ cycleAge entries => applyAnnounce (addressOf sender) cycleAge entries s
  | .release sender channel =>
      match channelOf? channel with
      | some c => applyRelease (addressOf sender) c s
      | none => s
  | .claim sender e =>
      match channelOf? e.channel with
      | some c => if refused then s else applyClaim (addressOf sender) c e s
      | none => s
  | .rollcall _ => applyRollcall s

/-! ## Step 2: the Transmit Scheduler and the channel -/

/-- The record of an admitted own CLAIM (R110): the span and the held demand of the composed record, and CHANNEL_HELD. -/
def channelAdmitted (c : ChannelId) (span : Span) (target : Nat) (s : State) : State :=
  leaveFlight c
    (post .channelHeld (.channel c) (s.mapChannel c fun ch => { ch with span := some span, held := target }))

/-- The record of an own RELEASE that committed (R111). -/
def channelReleased (c : ChannelId) (s : State) : State :=
  leaveFlight c (s.mapChannel c fun ch => { ch with span := none, held := 0 })

/-- The counter returns to 0 and the composed record is dropped (R98, R99). -/
def ownCommitted (queue : List QueueEntry → List QueueEntry) (s : State) : State :=
  { s with sched := { queue := queue s.sched.queue, composed := none, voids := 0 } }

/-- An own attempt is reported as committed (R98, R99). -/
def reportCommit (k : Composed) (refused : Bool) (s : State) : State :=
  let s := endTransmission s
  match k.request, k.message with
  | .claim c, .claim _ e =>
      let s := ownCommitted resolveEntry s
      if refused then leaveFlight c s
      else channelAdmitted c { start := slotOf e.start, length := e.lengthLess1.toNat + 1 } k.target s
  | .release c, _ => channelReleased c (ownCommitted resolveEntry s)
  | .announce, _ =>
      if k.station = .leaving then
        let s := ownCommitted resolveEntry s
        if s.station.state = .leaving then enterQuiet s else s
      else if s.station.state = .leaving then ownCommitted returnEntry s
      else ownCommitted resolveEntry s
  | _, _ => ownCommitted resolveEntry s

/-! ## Step 3: the Station Controller -/

/-- A committed own ROLLCALL sets the rollcall mark of an open window (R136). -/
def markRollcall (sender : Address) (s : State) : State :=
  if s.windowOpen && decide (sender = s.cfg.address) then
    { s with station := { s.station with rollcall := .thisCycle } }
  else s

/-- A verdict difference (R78, R80): RESYNC from JOINED and LEAVING, and the quiet-stale flag in QUIET. -/
def reportDifference (s : State) : State :=
  match s.station.state with
  | .joined | .leaving => enterResync .divergence s
  | .quiet => { s with station := { s.station with quietStale := true } }
  | .unconfigured | .listen | .resync | .fault | .halt => s

/-- A refused own CLAIM (R79). -/
def reportRefused (s : State) : State :=
  match s.station.state with
  | .joined | .leaving => enterResync .claimRefused s
  | .unconfigured | .listen | .resync | .quiet | .fault | .halt => s

/-- The reports of step 3 (R76): traffic and rollcall marks, and for a CLAIM the comparison of the own verdict with the wire. -/
def stationReport (m : Message) (own : Bool) (verdict : Option Verdict) (refused : Bool) (s : State) : State :=
  match m with
  | .announce .. => markTraffic s
  | .release .. => s
  | .rollcall sender => markRollcall (addressOf sender) s
  | .claim .. =>
      if own then (if refused then reportRefused s else s)
      else if verdict = some (if refused then .admits else .refuses) then reportDifference s
      else s

/-! ## The commit point -/

/-- The own verdict on a CLAIM at its commit point: the one formed at its REFUSE bit, or else the one that the station forms
now, against the same plan (R18, R75). -/
def State.verdictAtCommit (m : Message) (s : State) : Option Verdict :=
  match m with
  | .claim sender e => s.engine.verdict.or (s.ownVerdict sender e)
  | .announce .. | .release .. | .rollcall .. => none

/-- The wire verdict of a CLAIM: REFUSE reads dominant where any station pulls it, this one included (R75). -/
def State.wireRefused (m : Message) (others : Bool) (s : State) : Bool :=
  match m with
  | .claim sender e =>
      if s.drives m then others
      else
        others || s.lines.dataDriving
          || (s.engine.verdict.isNone && s.station.state.pullsRefuse && s.ownVerdict sender e == some .refuses)
  | .announce .. | .release .. | .rollcall .. => false

/-- The two cases in which a committed message is not applied and sends the station to HALT (R9, R43, R44). An ANNOUNCE that meets
both, the own address without being own and another digest, halts with ADDRESS_CLASH: the manual does not say which cause HALT then
takes (DESIGN CHOICE; notes/assumptions/21.md). -/
def State.haltCause (m : Message) (own : Bool) (s : State) : Option Cause :=
  if addressOf m.sender = s.cfg.address ∧ own = false then some .addressClash
  else
    match m with
    | .announce _ digest _ _ => if digest = s.cfg.digest then none else some .configMismatch
    | .release .. | .claim .. | .rollcall .. => none

/-- The hand-offs of a commit (R76), by what stands at the commit point. The HALT that step 1 may bring drops the rest. What the
Transmit Scheduler resolves is the attempt that was on the wire. -/
def handOver (m : Message) (own : Bool) (verdict : Option Verdict) (refused : Bool) (s : State) : HandOffs :=
  match s.haltCause m own with
  | some cause => { HandOffs.none with message := enterHalt cause }
  | none =>
      { message := applyMessage m refused
        attempt :=
          match s.sched.composed with
          | some k => if own then reportCommit k refused else id
          | none => id
        station := stationReport m own verdict refused }

/-- The outcome of a message that the station frames: the state as END begins, and the hand-offs that are then to be made. A
message with a fault of R72 is objected by this station, so that it is void (R74); any other commits (R76). -/
def decided (m : Message) (othersRefuse : Bool) (s : State) : State × HandOffs :=
  if m.unacceptable then (readObjected (s.bits m.commitPoint) m m.check s, .objected)
  else
    let s := readback m (advanceToBit m.commitPoint s)
    let t := endFrame (readMessage m m.check true s)
    (t, handOver m (s.drives m) (s.verdictAtCommit m) (s.wireRefused m othersRefuse) t)

/-- A message reaches its commit point (R76). Away from an edge nothing falls between its hand-offs (DESIGN CHOICE;
notes/assumptions/22.md). A station that does not frame it does nothing (R7, R63). -/
def commit (m : Message) (othersRefuse : Bool) (s : State) : State :=
  if s.engine.framing = .frame then
    let outcome := decided m othersRefuse s
    outcome.2.run outcome.1
  else s

/-- The outcome of a message that falls together with a SYNC edge: a commit at the commit point or in END (R76, R77), or an objection
read at OBJECT (R74). -/
def decidedLate (late : LateOutcome) (s : State) : State × HandOffs :=
  match late with
  | .committed m refused => decided m refused s
  | .objected m check => (readObjected (late.instant (s.bits 1)) m check s, .objected)

/-! ## The rows -/

/-- ANNOUNCE_COMMIT (R10). -/
def execAnnounceCommit (sender : BitVec 5) (digest : BitVec 8) (cycleAge : BitVec 16) (entries : List WireEntry)
    (s : State) : Host.Outcome State Fault Refusal :=
  .next (commit (.announce sender digest cycleAge entries) false (ownFall s))

/-- CLAIM_COMMIT (R12). -/
def execClaimCommit (sender : BitVec 5) (e : WireEntry) (refused : Bool) (s : State) : Host.Outcome State Fault Refusal :=
  .next (commit (.claim sender e) refused (ownFall s))

/-- RELEASE_COMMIT (R15). -/
def execReleaseCommit (sender : BitVec 5) (c : BitVec 4) (s : State) : Host.Outcome State Fault Refusal :=
  .next (commit (.release sender c) false (ownFall s))

/-- ROLLCALL_COMMIT (R16). -/
def execRollcallCommit (sender : BitVec 5) (s : State) : Host.Outcome State Fault Refusal :=
  .next (commit (.rollcall sender) false (ownFall s))

end Sys2Proof.Machine
end

