-- ==== Sys2Proof/Machine/Port.lean ====
section
/-! DEFINITION. The local port (Chapter 9): transactions byte by byte (R151, R152), the commands and their statuses (R153 to
R157), and the reading of events (R162). Each command row feeds the bytes of its transaction, command byte first, to the one
byte machine `clockByte`. -/

namespace Sys2Proof.Machine

/-! ## Replies -/

/-- The command has acted: the status byte and the reply bytes are ready to be shifted out (R151, R153). -/
def respond (bytes : List Byte) (s : State) : State :=
  { s with port := { s.port with phase := .reply, reply := bytes, replyPosition := 0 } }

/-- The CHANNEL reply (R167). -/
def Channel.replyBytes (ch : Channel) : List Byte :=
  [ch.state.code] ++ bytes2 ch.rating ++ bytes2 ch.target ++ bytes2 ch.held
    ++ (match ch.span with
        | some span => [BitVec.ofNat 8 (128 + span.start.val), BitVec.ofNat 8 span.length]
        | none => [0, 0])
    ++ [ch.flagByte]

/-- One holding of the HOLDINGS reply (R167). -/
def Holding.replyBytes (h : Holding) : List Byte :=
  [BitVec.ofNat 8 h.channel.val, BitVec.ofNat 8 h.start.val, BitVec.ofNat 8 h.length] ++ bytes2 h.rating

/-- The PEER reply (R167). -/
def Peer.replyBytes (p : Peer) : List Byte :=
  [BitVec.ofNat 8 p.present.toNat, BitVec.ofNat 8 p.age] ++ bytes2 p.cycleAge.toNat

/-- The STATION reply (R157, R167). -/
def stationReply (s : State) : List Byte :=
  [s.station.state.code, s.station.cause.code, stationFlagByte s] ++ bytes2 s.timer.cycleCounter.toNat
    ++ [BitVec.ofNat 8 s.ownAge, BitVec.ofNat 8 s.table.presentCount] ++ bytes2 s.table.plan.length
    ++ [BitVec.ofNat 8 s.sched.queue.length, BitVec.ofNat 8 s.port.events.length]

/-! ## CONFIG -/

/-- The number of the first check of R154 that fails; 0 if every check passes. -/
def configCheck (a : ConfigArgs) : Nat :=
  if 31 < a.address.toNat then 1
  else if 3 < a.rateCode.toNat then 2
  else if a.slotCode.toNat < 1 ∨ 64 < a.slotCode.toNat then 3
  else if a.budget.toNat < 1 ∨ 4095 < a.budget.toNat then 4
  else if a.interval.toNat < 4 ∨ 64 < a.interval.toNat then 5
  else if cycleBits a.rateCode.toNat a.slotCode.toNat < Config.leastCycleBits then 6
  else if a.ratings.toList.any (fun r => decide (1023 < r.toNat) || decide (a.budget.toNat < r.toNat)) then 7
  else if a.ratings.toList.all (fun r => decide (r = 0)) then 8
  else 0

/-- The configuration that valid arguments give (R134, R42). -/
def configurationOf (a : ConfigArgs) : Configuration :=
  { address := Fin.ofNat 32 a.address.toNat, rateCode := Fin.ofNat 4 a.rateCode.toNat, slotCode := a.slotCode.toNat
    budget := a.budget.toNat, interval := a.interval.toNat
    digest := digestOf a.rateCode a.slotCode a.budget a.interval }

/-- A channel record takes its rating: it stays UNUSED with rating 0 and becomes IDLE otherwise (R102). -/
def Channel.configure (rating : Nat) (ch : Channel) : Channel :=
  { ch with rating := rating, state := if rating = 0 then .unused else .idle }

/-- The valid CONFIG (R134): the configuration takes its values, the line measures restart from 0 (R47), the timer starts
(R48) and the station enters LISTEN. -/
def applyConfig (a : ConfigArgs) (s : State) : State :=
  let s :=
    { s with
      cfg := configurationOf a
      channels := Vector.ofFn fun c => s.channels[c].configure a.ratings[c].toNat
      lines := { s.lines with syncHighTime := 0, syncLowTime := 0, dominantTime := 0 }
      port := { s.port with mask := a.mask } }
  enterListen .config (startTimer s)

/-- CONFIG acts (R154). -/
def configAct (a : ConfigArgs) (s : State) : State :=
  if s.station.state ≠ .unconfigured then respond [statusWrongState, 0] s
  else
    let failed := configCheck a
    if failed = 0 then respond [statusOk, 0] (applyConfig a s)
    else respond [statusBadArgument, BitVec.ofNat 8 failed] s

/-! ## The other write commands -/

/-- An accepted DEMAND at its channel (R106). -/
def applyDemand (c : ChannelId) (d : Nat) (s : State) : State :=
  let before := s.channels[c]
  let unrealised := before.state = .waiting || before.state = .queued || before.state = .starved
  let s :=
    s.mapChannel c fun ch =>
      { ch with target := d, superseded := ch.superseded || (unrealised && decide (d ≠ before.target)) }
  if before.state = .inFlight || (before.state = .starved && decide (d = before.target)) then s else settle c s

/-- DEMAND acts (R106, R153, R155). -/
def demandAct (channel : Byte) (value : BitVec 16) (s : State) : State :=
  if s.station.state = .unconfigured ∨ s.station.state = .halt then respond [statusWrongState] s
  else
    match channelByte? channel with
    | none => respond [statusBadArgument] s
    | some c =>
        if Config.greatestDemand < value.toNat ∨ s.channels[c].state = .unused then respond [statusBadArgument] s
        else respond [statusOk] (applyDemand c value.toNat s)

/-- CLEAR acts (R107). -/
def clearAct (channel mask : Byte) (s : State) : State :=
  if s.station.state = .unconfigured then respond [statusWrongState] s
  else
    match channelByte? channel with
    | none => respond [statusBadArgument] s
    | some c => respond [statusOk] (s.mapChannel c (Channel.clearFlags mask))

/-- QUIET acts (R141). -/
def quietAct (s : State) : State :=
  if s.station.state = .joined then respond [statusOk] (enterLeaving s) else respond [statusWrongState] s

/-- LEAVE QUIET acts (R145): the quiet-stale flag decides the state entered. -/
def leaveQuietAct (s : State) : State :=
  if s.station.state = .quiet then
    respond [statusOk] (if s.station.quietStale then enterListen .stale s else enterJoined .returned s)
  else respond [statusWrongState] s

/-! ## The reads -/

/-- CHANNEL acts (R156). -/
def channelAct (channel : Byte) (s : State) : State :=
  match channelByte? channel with
  | none => respond [statusBadArgument] s
  | some c => respond (statusOk :: s.channels[c].replyBytes) s

/-- SLOT acts (R156). -/
def slotAct (slot : Byte) (s : State) : State :=
  match slotByte? slot with
  | none => respond [statusBadArgument] s
  | some k => respond (statusOk :: (bytes2 s.table.sums[k] ++ bytes2 s.table.counts[k])) s

/-- HOLDINGS acts (R156). -/
def holdingsAct (owner : Byte) (s : State) : State :=
  match addressByte? owner with
  | none => respond [statusBadArgument] s
  | some a =>
      let hs := s.table.holdingsOf a
      respond (statusOk :: BitVec.ofNat 8 hs.length :: hs.flatMap Holding.replyBytes) s

/-- PEER acts (R156). -/
def peerAct (address : Byte) (s : State) : State :=
  match addressByte? address with
  | none => respond [statusBadArgument] s
  | some a => respond (statusOk :: s.table.peers[a].replyBytes) s

/-- STATION acts (R157). -/
def stationAct (s : State) : State := respond (statusOk :: stationReply s) s

/-- EVENT acts (R162): the head record is copied into the reply and its removal is pending, or the status is EMPTY. -/
def eventAct (s : State) : State :=
  match s.port.events with
  | [] => respond [statusEmpty] s
  | r :: _ =>
      let s := respond (statusOk :: r.bytes) s
      { s with port := { s.port with pendingRemoval := true } }

/-! ## The byte machine (R151, R152) -/

/-- The command whose bytes have all been received acts. -/
def act (s : State) : State :=
  match s.port.received with
  | [] => s
  | code :: args =>
      if code = 0x01 then configAct (ConfigArgs.ofBytes args) s
      else if code = 0x02 then demandAct (args.getD 0 0) (word2 (args.getD 1 0) (args.getD 2 0)) s
      else if code = 0x03 then clearAct (args.getD 0 0) (args.getD 1 0) s
      else if code = 0x04 then quietAct s
      else if code = 0x05 then leaveQuietAct s
      else if code = 0x10 then channelAct (args.getD 0 0) s
      else if code = 0x11 then slotAct (args.getD 0 0) s
      else if code = 0x12 then holdingsAct (args.getD 0 0) s
      else if code = 0x13 then peerAct (args.getD 0 0) s
      else if code = 0x14 then stationAct s
      else if code = 0x15 then eventAct s
      else respond [statusBadCommand] s

/-- The bit position at which the last bit of an event record has been shifted out: the status byte and four bytes. -/
def recordEnd : Nat := 40

/-- The reply has been shifted out up to a bit position: a pending removal takes place at the end of the record (R162), and
the phase becomes IGNORE after the last reply byte (R151). -/
def shiftTo (position : Nat) (s : State) : State :=
  let p := { s.port with replyPosition := position }
  let p := if p.pendingRemoval && decide (recordEnd ≤ position) then p.removeHead else p
  { s with port := if 8 * p.reply.length ≤ position then { p with phase := .ignore } else p }

/-- One whole byte is clocked in, and one out (R151). -/
def clockByte (s : State) (b : Byte) : State :=
  match s.port.phase with
  | .none => s
  | .ignore => s
  | .command =>
      let s := { s with port := { s.port with received := [b] } }
      match argumentCount b with
      | none => respond [statusBadCommand] s
      | some 0 => act s
      | some (_ + 1) => { s with port := { s.port with phase := .arguments } }
  | .arguments =>
      let s := { s with port := { s.port with received := s.port.received ++ [b] } }
      if s.port.received.length = 1 + ((s.port.received.head?.bind argumentCount).getD 0) then act s else s
  | .reply => shiftTo (s.port.replyPosition + 8) s

/-- A run of whole bytes is clocked in. -/
def clockBytes (bytes : List Byte) (s : State) : State := bytes.foldl clockByte s

/-! ## The rows -/

/-- TRANSACTION_START (R150, R151): a fall of chip select at a ready port opens the COMMAND phase; before that it starts
nothing. -/
def execTransactionStart (s : State) : Host.Outcome State Fault Refusal :=
  .next
    (if s.port.selectLow then s
      else if s.port.ready then
        { s with
          port :=
            { s.port with selectLow := true, phase := .command, received := [], reply := [], replyPosition := 0 } }
      else { s with port := { s.port with selectLow := true } })

/-- The rise of chip select (R151, R162). -/
def riseSelect (s : State) : State :=
  { s with port := { s.port with selectLow := false, phase := .none, pendingRemoval := false } }

/-- TRANSACTION_END (R151): the remaining whole bytes are clocked, and a rise of chip select ends the transaction in any phase;
a command that has not acted is discarded and a pending removal is cancelled. -/
def execTransactionEnd (clocked : List Byte) (s : State) : Host.Outcome State Fault Refusal :=
  .next (riseSelect (clockBytes clocked s))

/-- BAD_COMMAND (R153): a command byte that names no command is refused at that byte. -/
def execBadCommand (code : Byte) (s : State) : Host.Outcome State Fault Refusal := .next (clockBytes [code] s)

/-- CONFIG (R154): the command byte and its 32 argument bytes. -/
def execConfig (a : ConfigArgs) (s : State) : Host.Outcome State Fault Refusal := .next (clockBytes (0x01 :: a.bytes) s)

/-- DEMAND (R106). -/
def execDemand (channel : Byte) (value : BitVec 16) (s : State) : Host.Outcome State Fault Refusal :=
  .next (clockBytes (0x02 :: channel :: argumentBytes value) s)

/-- CLEAR (R107). -/
def execClear (channel mask : Byte) (s : State) : Host.Outcome State Fault Refusal :=
  .next (clockBytes [0x03, channel, mask] s)

/-- QUIET (R141). -/
def execQuiet (s : State) : Host.Outcome State Fault Refusal := .next (clockBytes [0x04] s)

/-- LEAVE QUIET (R145). -/
def execLeaveQuiet (s : State) : Host.Outcome State Fault Refusal := .next (clockBytes [0x05] s)

/-- CHANNEL (R156). -/
def execChannel (channel : Byte) (s : State) : Host.Outcome State Fault Refusal := .next (clockBytes [0x10, channel] s)

/-- SLOT (R156). -/
def execSlot (slot : Byte) (s : State) : Host.Outcome State Fault Refusal := .next (clockBytes [0x11, slot] s)

/-- HOLDINGS (R156). -/
def execHoldings (owner : Byte) (s : State) : Host.Outcome State Fault Refusal := .next (clockBytes [0x12, owner] s)

/-- PEER (R156). -/
def execPeer (address : Byte) (s : State) : Host.Outcome State Fault Refusal := .next (clockBytes [0x13, address] s)

/-- STATION (R157). -/
def execStation (s : State) : Host.Outcome State Fault Refusal := .next (clockBytes [0x14] s)

/-- EVENT (R162). -/
def execEvent (s : State) : Host.Outcome State Fault Refusal := .next (clockBytes [0x15] s)

/-- EVENT_RECORD_REMOVED (R162): the last bit of the record has been shifted out. Where no removal is pending there is no
record to remove. -/
def execEventRecordRemoved (s : State) : Host.Outcome State Fault Refusal :=
  .next (if s.port.phase = .reply ∧ s.port.pendingRemoval = true then shiftTo recordEnd s else s)

/-- The data output is driven: chip select is low (R151, R168) and the port is ready, which it is not in reset (R150). -/
def State.sdoDriven (s : State) : Bool := s.port.ready && s.port.selectLow

/-- The byte that the data output shifts out next: zero before the reply and beyond its end (R151). With no transaction open, where
chip select was low already when the port became ready, it is zero too (DESIGN CHOICE; notes/assumptions/28.md). -/
def State.sdoByte (s : State) : Byte :=
  match s.port.phase with
  | .reply => s.port.reply.getD (s.port.replyPosition / 8) 0
  | .none | .command | .arguments | .ignore => 0

end Sys2Proof.Machine
end

