-- ==== Sys2Proof/Machine/Reset.lean ====
section
/-! DEFINITION. The reset commands (R133, R150). -/

namespace Sys2Proof.Machine

/-- Every item of every block at its reset value, with the pins as they stand: the levels of the two bus lines and of chip
select are inputs, and the waiting commands are not part of the part. -/
def resetKeepingPins (inputs : ResetInputs) (s : State) : State :=
  { State.reset with
    inputs := inputs
    lines :=
      { LineInterface.reset with
        syncLow := s.lines.syncLow, syncHold := s.lines.syncHold
        dataDominant := s.lines.dataDominant, dataHold := s.lines.dataHold }
    port := { LocalPort.reset with selectLow := s.port.selectLow }
    pending := s.pending }

/-- POWER_ON_RESET (R133): the part is held in reset; both drivers are released, every output is off, ATTN is released and a
transaction in progress is discarded, all at once. -/
def execPowerOnReset (s : State) : Host.Outcome State Fault Refusal :=
  .next (resetKeepingPins { s.inputs with supplyLow := true } s)

/-- RESET_PIN (R133): as POWER_ON_RESET, from any state, HALT included. -/
def execResetPin (s : State) : Host.Outcome State Fault Refusal :=
  .next (resetKeepingPins { s.inputs with pinLow := true } s)

/-- RESET_RELEASE (R133): the station starts in UNCONFIGURED with every item at its reset value. A part that is not held in
reset is not released from it. -/
def execResetRelease (s : State) : Host.Outcome State Fault Refusal :=
  .next (if s.heldInReset then resetKeepingPins { supplyLow := false, pinLow := false } s else s)

/-- PORT_READY (R150): the port becomes ready; a chip select that is already low starts no transaction. -/
def execPortReady (s : State) : Host.Outcome State Fault Refusal :=
  .next (if s.heldInReset then s else { s with port := { s.port with ready := true } })

end Sys2Proof.Machine
end

