-- ==== Sys2Proof/Machine/Sync.lean ====
section
/-! DEFINITION. The falls of SYNC that a command brings: SYNC_EDGE and INVALID_SYNC_EDGE (R52, R53). A fall that another station
makes needs a line that is high; where the command comes on a low line, the time passes in which the line rises. -/

namespace Sys2Proof.Machine

/-- Time passes until a fall of SYNC can be valid: at a running timer SYNC has been high for 16 bit times (R52). -/
def advanceToFall (s : State) : State := if s.timer.running then advance s.untilHigh s else advanceToRise s

/-- The outcome can fall together with the fall of SYNC that comes next: the station frames the message, and at the fall of its own
pulse, before which no time passes (R51), the message has come to the outcome's instant. -/
def State.canMeet (s : State) (late : LateOutcome) : Bool :=
  decide (s.engine.framing = .frame)
    && (!s.fallWaits || s.engine.frame.any fun f => decide (late.instant (s.bits 1) ≤ f.elapsed))

/-- The order of the events at the fall of SYNC that comes next: the one asked for, where it is allowed and the outcome that it names
can fall together with the fall. Otherwise no outcome does, and a message on the wire is void (R77). -/
def State.edgeOrder (s : State) (order : List EdgePart) : List EdgePart :=
  let order := EdgePart.taken order
  if (EdgePart.outcomeIn order).all s.canMeet then order else EdgePart.usualOrder

/-- SYNC falls, and a message's outcome may fall together with the edge: the state as its END begins, and its hand-offs among the
events of the edge. -/
def fallWith (hold : Nat) (order : List EdgePart) (s : State) : State :=
  let outcome := match EdgePart.outcomeIn order with
    | some late => decidedLate late s
    | none => (s, .none)
  takeFall hold order outcome.2 outcome.1

/-- SYNC_EDGE (R53): the fall of the own pulse where it waits, and otherwise a fall that another station makes; on a line that the
own pulse holds low there is no fall. Before the timer runs the Cycle Timer does not act on it (R52). -/
def execSyncEdge (hold : Nat) (order : List EdgePart) (s : State) : Host.Outcome State Fault Refusal :=
  let t := if s.fallWaits then s else advanceToFall s
  .next (if t.lines.syncLow then s else fallWith hold (t.edgeOrder order) t)

/-- INVALID_SYNC_EDGE (R52): a fall after less than 16 bit times, or at a stopped timer, where only the measure of low time
restarts, and in FAULT the wait for idle lines. A fall that would be valid is not this one, nor is the own pulse's. -/
def execInvalidSyncEdge (hold : Nat) (s : State) : Host.Outcome State Fault Refusal :=
  let t := advanceToRise s
  .next (if s.fallWaits || t.lines.syncLow || t.fallIsValid then s else fallSync hold t)

end Sys2Proof.Machine
end

