-- ==== Sys2Proof/Machine/Timing.lean ====
section
/-! DEFINITION. The commands that time brings (Chapter 3, R64, R83), and the tick of an idle part.

Each of these rows names an instant. Its command says that the instant has come: the clocks move on together to the row's
threshold, where they stand below it, and the row's event takes place (notes/assumptions/3.md). -/

namespace Sys2Proof.Machine

/-! ## Slots and the guard window -/

/-- The next slot starts (R50, R123). -/
def startSlot (s : State) : State :=
  let k := s.timer.slotIndex + 1
  setOutputs k { s with timer := { s.timer with slotIndex := k } }

/-- A slot boundary lies ahead in this cycle. -/
def State.slotAhead (s : State) : Bool := s.timer.running && decide (s.timer.slotIndex.val < 63)

/-- The local cycle time of the next slot boundary (R49). -/
def State.nextBoundary (s : State) : Nat := (s.timer.slotIndex.val + 1) * slotPeriods s.cfg.slotCode

/-- SLOT_START (R50, R123). -/
def execSlotStart (s : State) : Host.Outcome State Fault Refusal :=
  let s := ownFall s
  .next (if s.slotAhead then startSlot (elapse (s.nextBoundary - s.timer.localTime) s) else s)

/-- GUARD_WINDOW (R58). -/
def execGuardWindow (s : State) : Host.Outcome State Fault Refusal :=
  let s := ownFall s
  .next (if s.timer.running then advanceToLocal s.guardStart s else s)

/-! ## The SYNC pulse and acquisition -/

/-- The station pulls SYNC low (R51): the driver is DRIVING, and the fall that it makes comes before any time passes (`ownFall`, or
the SYNC_EDGE that names the order of its events). -/
def startPulse (s : State) : State := { s with lines := { s.lines with syncDriving := true, pulseTime := 0 } }

/-- The station releases SYNC; the line returns high when no other station holds it (R51). -/
def releasePulse (s : State) : State :=
  advance 0 { s with lines := { s.lines with syncDriving := false, pulseTime := 0 } }

/-- SYNC_PULSE (R51). -/
def execSyncPulse (s : State) : Host.Outcome State Fault Refusal :=
  let s := ownFall s
  let t := advanceToPulse s.cycleLength s
  .next (if t.pulseDue then startPulse t else s)

/-- SYNC_PULSE_RELEASE (R51): 8 bit times after the pulse began. -/
def execSyncPulseRelease (s : State) : Host.Outcome State Fault Refusal :=
  let s := ownFall s
  .next
    (if s.lines.syncDriving then releasePulse (advance (s.bits Config.pulseBits - s.lines.pulseTime) s) else s)

/-- Sync-acquired is set without an edge, and the station drives a pulse at the same instant where R51 lets it (R56). -/
def acquireSync (s : State) : State :=
  let s := { s with timer := { s.timer with syncAcquired := true } }
  if s.pulseDue then startPulse s else s

/-- SYNC_ACQUIRED (R56): local cycle time reaches two cycle lengths without a valid edge. -/
def execSyncAcquired (s : State) : Host.Outcome State Fault Refusal :=
  let s := ownFall s
  .next
    (if s.timer.running && !s.timer.syncAcquired then acquireSync (advanceToLocal (2 * s.cycleLength) s) else s)

/-! ## Stuck lines and recovery -/

/-- SYNC_STUCK (R59, R146): SYNC stays low until its measure exceeds 64 bit times. On a high line, and outside the attached states,
there is no report. -/
def execSyncStuck (s : State) : Host.Outcome State Fault Refusal :=
  let s := ownFall s
  let d := s.bits Config.syncStuckBits + 1 - s.lines.syncLowTime
  .next
    (if s.station.state.attached && s.lines.syncLow then
      enterFault .syncStuck (advance d { s with lines := { s.lines with syncHold := max s.lines.syncHold (d + 1) } })
    else s)

/-- DATA_STUCK (R83, R146): DATA stays dominant until its measure exceeds 128 bit times. On a recessive line, and outside the
attached states, there is no report. -/
def execDataStuck (s : State) : Host.Outcome State Fault Refusal :=
  let s := ownFall s
  let d := s.bits Config.dataStuckBits + 1 - s.lines.dominantTime
  .next
    (if s.station.state.attached && s.lines.dataDominant then
      enterFault .dataStuck (advance d { s with lines := { s.lines with dataHold := max s.lines.dataHold (d + 1) } })
    else s)

/-- Recovery from FAULT (R147): the timer starts, the station enters LISTEN, and FAULT_CLEARED is posted with stamp 0. -/
def recover (s : State) : State :=
  post .faultCleared (.address s.cfg.address) (enterListen .recovery (startTimer s))

/-- LINES_IDLE (R60, R147): both lines have been idle together for one cycle length; outside FAULT the report is discarded. -/
def execLinesIdle (s : State) : Host.Outcome State Fault Refusal :=
  let s := ownFall s
  .next (if s.station.state = .fault then recover (advanceToIdle s) else s)

/-! ## Framing -/

/-- The framing state becomes IDLE (R64); END is over. -/
def becomeIdle (s : State) : State := { s with engine := { s.engine with framing := .idle, ending := none } }

/-- FRAMING_IDLE (R64): DATA has been recessive for 3 bit times in GAP, counted from the end of an END with a dominant bit
(R76). -/
def execFramingIdle (s : State) : Host.Outcome State Fault Refusal :=
  let s := ownFall s
  .next (if s.engine.framing = .gap then becomeIdle (advanceToGap Config.receiverGapBits s) else s)

/-! ## The tick -/

/-- SYNC_STUCK or DATA_STUCK falls due (R59, R83). Where both fall due in one period SYNC_STUCK is the first report and the cause of
FAULT, an order that the manual leaves open (R132, R146; DESIGN CHOICE; notes/assumptions/4.md). -/
def tickStuck (s : State) : State :=
  if s.station.state.attached then
    if s.lines.syncLow && decide (s.bits Config.syncStuckBits < s.lines.syncLowTime) then enterFault .syncStuck s
    else if s.lines.dataDominant && decide (s.bits Config.dataStuckBits < s.lines.dominantTime) then
      enterFault .dataStuck s
    else s
  else s

/-- LINES_IDLE falls due (R60). -/
def tickIdleLines (s : State) : State :=
  if decide (s.station.state = .fault) && decide (s.cycleLength ≤ s.lines.idleTime) then recover s else s

/-- FRAMING_IDLE falls due (R64). -/
def tickFraming (s : State) : State :=
  if decide (s.engine.framing = .gap) && !s.lines.dataDominant
      && decide (s.bits Config.receiverGapBits ≤ s.engine.recessiveTime) then
    becomeIdle s
  else s

/-- SYNC_PULSE_RELEASE falls due (R51). -/
def tickRelease (s : State) : State :=
  if s.lines.syncDriving && decide (s.bits Config.pulseBits ≤ s.lines.pulseTime) then releasePulse s else s

/-- SYNC_ACQUIRED or SYNC_PULSE falls due (R51, R56). -/
def tickPulse (s : State) : State :=
  if s.timer.running && !s.timer.syncAcquired && decide (2 * s.cycleLength ≤ s.timer.localTime) then acquireSync s
  else if s.pulseDue then startPulse s
  else s

/-- START_OF_FRAME falls due (R65). -/
def tickFrame (s : State) : State :=
  if s.opportunity Config.idleGapBits then startFrame s else s

/-- One period of CLKIN passes at a part that no command waits for: the fall of an own pulse that has begun, then the clocks, slots
and bits of one period, and then what falls due, in a fixed order (DESIGN CHOICE; notes/assumptions/4.md). Nothing happens at a part
that is held in reset. -/
def tick (s : State) : State :=
  if s.heldInReset then s
  else
    tickFrame (tickFraming (tickPulse (tickRelease (tickIdleLines (tickStuck (advance 1 (ownFall s)))))))

end Sys2Proof.Machine
end

