-- ==== Sys2Proof/Machine/Dispatch.lean ====
section
/-! DEFINITION. The effect of each command on everything but the queue of waiting commands: one arm for each row of
spec/opcode_table.json. -/

namespace Sys2Proof.Machine

def exec (i : Instr) (s : State) : Host.Outcome State Fault Refusal :=
  match i with
  | .powerOnReset => Sys2Proof.Machine.execPowerOnReset s
  | .resetPin => Sys2Proof.Machine.execResetPin s
  | .resetRelease => Sys2Proof.Machine.execResetRelease s
  | .portReady => Sys2Proof.Machine.execPortReady s
  | .transactionStart => Sys2Proof.Machine.execTransactionStart s
  | .transactionEnd clocked => Sys2Proof.Machine.execTransactionEnd clocked s
  | .badCommand code => Sys2Proof.Machine.execBadCommand code s
  | .config args => Sys2Proof.Machine.execConfig args s
  | .demand channel value => Sys2Proof.Machine.execDemand channel value s
  | .clear channel mask => Sys2Proof.Machine.execClear channel mask s
  | .quiet => Sys2Proof.Machine.execQuiet s
  | .leaveQuiet => Sys2Proof.Machine.execLeaveQuiet s
  | .channel channel => Sys2Proof.Machine.execChannel channel s
  | .slot slot => Sys2Proof.Machine.execSlot slot s
  | .holdings owner => Sys2Proof.Machine.execHoldings owner s
  | .peer address => Sys2Proof.Machine.execPeer address s
  | .station => Sys2Proof.Machine.execStation s
  | .event => Sys2Proof.Machine.execEvent s
  | .eventRecordRemoved => Sys2Proof.Machine.execEventRecordRemoved s
  | .syncEdge hold order => Sys2Proof.Machine.execSyncEdge hold order s
  | .invalidSyncEdge hold => Sys2Proof.Machine.execInvalidSyncEdge hold s
  | .peerExpired address => Sys2Proof.Machine.execPeerExpired address s
  | .selfExpired => Sys2Proof.Machine.execSelfExpired s
  | .announceDue => Sys2Proof.Machine.execAnnounceDue s
  | .joinWindowEnd => Sys2Proof.Machine.execJoinWindowEnd s
  | .slotStart => Sys2Proof.Machine.execSlotStart s
  | .guardWindow => Sys2Proof.Machine.execGuardWindow s
  | .syncPulse => Sys2Proof.Machine.execSyncPulse s
  | .syncPulseRelease => Sys2Proof.Machine.execSyncPulseRelease s
  | .syncAcquired => Sys2Proof.Machine.execSyncAcquired s
  | .syncStuck => Sys2Proof.Machine.execSyncStuck s
  | .dataStuck => Sys2Proof.Machine.execDataStuck s
  | .linesIdle => Sys2Proof.Machine.execLinesIdle s
  | .framingIdle => Sys2Proof.Machine.execFramingIdle s
  | .startOfFrame => Sys2Proof.Machine.execStartOfFrame s
  | .joinStartOfFrame => Sys2Proof.Machine.execJoinStartOfFrame s
  | .attemptLost => Sys2Proof.Machine.execAttemptLost s
  | .messageObjected message check => Sys2Proof.Machine.execMessageObjected message check s
  | .announceCommit sender digest cycleAge entries => Sys2Proof.Machine.execAnnounceCommit sender digest cycleAge entries s
  | .claimCommit sender entry refused => Sys2Proof.Machine.execClaimCommit sender entry refused s
  | .releaseCommit sender channel => Sys2Proof.Machine.execReleaseCommit sender channel s
  | .rollcallCommit sender => Sys2Proof.Machine.execRollcallCommit sender s
  | .dataFall hold => Sys2Proof.Machine.execDataFall hold s
  | .refuseBit sender entry => Sys2Proof.Machine.execRefuseBit sender entry s
  | .mismatchAfterSender => Sys2Proof.Machine.execMismatchAfterSender s

end Sys2Proof.Machine
end

