-- ==== Sys2Proof/Safety.lean ====
section
/-! DEFINITION. The laws of the device, as properties of a state: what a safe state of the part is. Each is a clause that the
manual calls a law, a range that it gives an item, or what it says a station state holds. -/

namespace Sys2Proof.Machine

/-! ## The passing of time -/

/-- Nothing but time passes from `s` to `t`: at a running timer local cycle time goes on, and a slot that it reaches starts, with every
output as the slot has it (R50, R123); levels and measures of the lines move on, and what is read of a message (R67). -/
def State.TimePasses (s t : State) : Prop :=
  s.timer.localTime ≤ t.timer.localTime
    ∧ (s.timer.running = false → t.timer = s.timer)
    ∧ t = { s with
        timer := { s.timer with localTime := t.timer.localTime, slotIndex := t.timer.slotIndex }
        lines := t.lines, engine := t.engine, drive := t.drive }
    ∧ t.lines.syncDriving = s.lines.syncDriving
    ∧ t.engine.framing = s.engine.framing ∧ t.engine.verdict = s.engine.verdict
    ∧ t.engine.transmission = s.engine.transmission ∧ t.engine.request = s.engine.request
    ∧ t.engine.frame.isSome = s.engine.frame.isSome
    ∧ t.drive
        = if t.timer.slotIndex = s.timer.slotIndex then s.drive
          else { s.drive with
            outputs := Vector.ofFn fun c =>
              s.drive.table[c].any fun e => e.conducts (s.timer.cycleCounter.toNat % 8) t.timer.slotIndex }

/-- The slot index of a running timer is the slot that local cycle time stands in (R50). -/
def State.SlotLawful (s : State) : Prop := s.timer.running = true → s.timer.slotIndex = s.slotNow

/-- As time passes from `s`, up to the length of the longest message after the SOF of the one that is framed, this station pulls DATA at
the bits of the message that `pulls` names and at no other, and the line, a wired-AND, is dominant at those bits, for as long as other
stations hold it, and at no other instant. -/
def State.PullsAt (s : State) (pulls : Nat → Prop) : Prop :=
  ∀ f, s.engine.frame = some f → ∀ d : Nat,
    let bit := bitPeriods s.cfg.rateCode.val
    f.elapsed + d < Config.longestFrame * bit →
      ((advance d s).pullsData = true ↔ pulls ((f.elapsed + d) / bit))
        ∧ ((advance d s).lines.dataDominant = true
          ↔ pulls ((f.elapsed + d) / bit) ∨ s.lines.dataDominant = true ∧ d < s.lines.dataHold)

/-! ## The plan and the peer table -/

/-- The total of the ratings of the holdings that cover a slot (R3). -/
def PlanTable.sumAt (t : PlanTable) (k : Slot) : Nat := ((t.plan.filter (·.covers k)).map Holding.rating).sum

/-- The number of the holdings that cover a slot (R3). -/
def PlanTable.countAt (t : PlanTable) (k : Slot) : Nat := (t.plan.filter (·.covers k)).length

/-- At most one holding for each (owner, channel), in the canonical order (R5); every slot sum and covering count is what the
holdings make it (R3). -/
def PlanTable.Lawful (t : PlanTable) : Prop :=
  t.plan.Pairwise (fun g h => g.key < h.key) ∧ ∀ k : Slot, t.sums[k] = t.sumAt k ∧ t.counts[k] = t.countAt k

/-- No slot sum exceeds the budget (R4). -/
def PlanTable.WithinBudget (budget : Nat) (t : PlanTable) : Prop := ∀ k : Slot, t.sums[k] ≤ budget

/-- Every holding lies within the ranges of R1. -/
def PlanTable.InRange (t : PlanTable) : Prop :=
  ∀ h ∈ t.plan, 1 ≤ h.length ∧ h.length ≤ 64 ∧ 1 ≤ h.rating ∧ h.rating ≤ 1023

/-- The plan holds no holding of an owner whose record is ABSENT (R14). -/
def PlanTable.OwnersPresent (t : PlanTable) : Prop := ∀ h ∈ t.plan, t.peers[h.owner].present = true

/-- Every announce age is 0 to E, and a PRESENT record stands below E (R29, R35). -/
def PlanTable.AgesWithin (expiry : Nat) (t : PlanTable) : Prop :=
  ∀ a : Address, t.peers[a].age ≤ expiry ∧ (t.peers[a].present = true → t.peers[a].age < expiry)

/-! ## The configuration and the station state -/

/-- The configuration passed the checks of R154. -/
def Configuration.Valid (c : Configuration) : Prop :=
  1 ≤ c.slotCode ∧ c.slotCode ≤ 64 ∧ 1 ≤ c.budget ∧ c.budget ≤ 4095 ∧ 4 ≤ c.interval ∧ c.interval ≤ 64
    ∧ Config.leastCycleBits ≤ cycleBits c.rateCode.val c.slotCode

/-- Outside UNCONFIGURED the configuration is valid (R134). -/
def State.Configured (s : State) : Prop := s.station.state ≠ .unconfigured → s.cfg.Valid

/-- The causes of each station state (the second table of R131). -/
def StationState.causes : StationState → List Cause
  | .unconfigured => [.reset]
  | .listen => [.config, .recovery, .stale]
  | .joined => [.window, .early, .returned]
  | .resync => [.divergence, .claimRefused]
  | .leaving => [.request]
  | .quiet => [.closed]
  | .fault => [.syncStuck, .dataStuck]
  | .halt => [.addressClash, .configMismatch]

/-- The four window items stand at their reset values (R131). -/
def Station.windowReset (st : Station) : Prop :=
  st.opened = false ∧ st.count = 0 ∧ st.traffic = false ∧ st.rollcall = .none

/-- The cause is one of the station state's; the window items are at their reset values outside LISTEN and RESYNC and until
the window has opened; and the count of an open window is below E (R131, R135, R137). -/
def State.StationLawful (s : State) : Prop :=
  s.station.cause ∈ s.station.state.causes
    ∧ (s.windowOpen = false → s.station.windowReset)
    ∧ (s.windowOpen = true → s.station.count < s.expiry)

/-- In the attached states the timer runs and the engine follows DATA (R48, R63). -/
def State.AttachedRuns (s : State) : Prop :=
  s.station.state.attached = true → s.timer.running = true ∧ s.engine.framing ≠ .off

/-- The engine waits for an edge exactly in LISTEN and RESYNC until the opening edge: until then the station ignores DATA (R63, R64,
R135). -/
def State.IgnoresUntilOpened (s : State) : Prop :=
  s.engine.framing = .awaitSync ↔
    (s.station.state = .listen ∨ s.station.state = .resync) ∧ s.station.opened = false

/-- In UNCONFIGURED, FAULT and HALT plan and peer table are empty (R6, R27, R38), the timer is stopped and both drivers are
released (R48, R55), the engine is OFF with nothing framed or sent (R62, R82), the queue is empty (R85, R88), and the drive
table is empty with every output off (R120, R127). -/
def State.DetachedIdle (s : State) : Prop :=
  s.station.state.attached = false →
    s.table = .reset
      ∧ s.timer.running = false ∧ s.timer.localTime = 0 ∧ s.timer.slotIndex = 0 ∧ s.timer.syncAcquired = false
      ∧ s.lines.syncDriving = false ∧ s.lines.dataDriving = false
      ∧ s.engine.framing = .off ∧ s.engine.ending = none ∧ s.engine.frame = none ∧ s.engine.objection = none
      ∧ s.engine.verdict = none ∧ s.engine.transmission = .none ∧ s.engine.request = none
      ∧ s.sched = .reset ∧ s.drive = .reset

/-- Every item of every block but the pins and the local port's transaction is at its reset value (R6, R29, R47, R62, R85, R102,
R120, R131, R150). -/
def State.AtReset (s : State) : Prop :=
  s.cfg = .reset ∧ s.table = .reset ∧ s.timer = .reset ∧ s.engine = .reset ∧ s.sched = .reset
    ∧ s.channels = Vector.replicate 12 .reset ∧ s.drive = .reset ∧ s.station = .reset
    ∧ s.lines.syncDriving = false ∧ s.lines.dataDriving = false ∧ s.lines.syncHighTime = 0 ∧ s.lines.syncLowTime = 0
    ∧ s.lines.dominantTime = 0
    ∧ s.port.events = [] ∧ s.port.pendingRemoval = false ∧ s.port.mask = 0 ∧ s.port.attn = false

/-- While the station is UNCONFIGURED every item keeps its reset value. -/
def State.UnconfiguredAtReset (s : State) : Prop := s.station.state = .unconfigured → s.AtReset

/-- While the part is held in reset it is UNCONFIGURED (R133). -/
def State.HeldUnconfigured (s : State) : Prop :=
  s.heldInReset = true → s.station.state = .unconfigured ∧ s.port.phase = .none ∧ s.port.ready = false

/-! ## The lines -/

/-- A station drives SYNC, and sends a message, only in an attached state with sync-acquired set (R51, R55, R65), and it pulls
DATA only while it frames a message (R64, R65, R75). -/
def State.DriversLawful (s : State) : Prop :=
  (s.lines.syncDriving = true → s.station.state.attached = true ∧ s.timer.syncAcquired = true)
    ∧ (s.engine.transmission ≠ .none → s.timer.syncAcquired = true ∧ s.engine.framing = .frame)
    ∧ (s.lines.dataDriving = true → s.engine.framing = .frame)

/-- Other stations hold a line for a time only while it is low or dominant. -/
def LineInterface.HoldsLawful (l : LineInterface) : Prop :=
  (l.syncLow = false → l.syncHold = 0) ∧ (l.dataDominant = false → l.dataHold = 0)

/-- The frame record is present exactly in FRAME (R62). -/
def MessageEngine.FrameLawful (e : MessageEngine) : Prop := e.frame.isSome = true ↔ e.framing = .frame

/-- END is framed in GAP for less than its 3 bit times, and the recessive measure counts from its beginning or later (R64, R67,
R76). -/
def State.EndLawful (s : State) : Prop :=
  ∀ r, s.engine.ending = some r →
    s.engine.framing = .gap ∧ s.engine.recessiveTime ≤ r.elapsed ∧ r.elapsed < s.bits Config.endBits

/-! ## The transmit queue -/

/-- A request that a change of the station state or a withdrawal may remove: a CLAIM or a ROLLCALL (R87, R88). -/
def Request.removable : Request → Bool
  | .claim _ | .rollcall => true
  | .announce | .release _ => false

/-- The queue holds no two entries of the same kind and channel, and not both a CLAIM and a RELEASE for one channel (R86); the
cancel mark stands only on an entry on the wire that a removal can reach (R87, R88). -/
def Scheduler.Lawful (q : Scheduler) : Prop :=
  (q.queue.map QueueEntry.request).Nodup
    ∧ (∀ c : ChannelId, ¬(holds q.queue (.claim c) = true ∧ holds q.queue (.release c) = true))
    ∧ ∀ e ∈ q.queue, e.cancel = true → e.onWire = true ∧ e.request.removable = true

/-- While no own message is on the wire no entry carries the on-wire mark and there is no composed record; while one is, its
entry alone carries the mark, and the composed record and the transmitted request are its (R62, R85). -/
def State.WireLawful (s : State) : Prop :=
  if s.engine.transmission = .none then
    s.engine.request = none ∧ s.sched.composed = none ∧ ∀ e ∈ s.sched.queue, e.onWire = false
  else
    ∃ k, s.sched.composed = some k ∧ s.engine.request = some k.request
      ∧ ((s.sched.queue.filter (·.onWire)).map QueueEntry.request) = [k.request]

/-- What each station state leaves in the queue (R88): nothing in QUIET and in the states that are not attached, a ROLLCALL
at most in LISTEN, no CLAIM in RESYNC, and in LEAVING the closing ANNOUNCE and no CLAIM but a cancelled one on the wire. -/
def State.QueueKindsLawful (s : State) : Prop :=
  match s.station.state with
  | .unconfigured | .quiet | .fault | .halt => s.sched.queue = []
  | .listen => ∀ e ∈ s.sched.queue, e.request = .rollcall
  | .joined => True
  | .resync => ∀ e ∈ s.sched.queue, e.request.isClaim = false
  | .leaving =>
      holds s.sched.queue .announce = true
        ∧ ∀ e ∈ s.sched.queue, e.request.isClaim = true → e.onWire = true ∧ e.cancel = true

/-! ## Channels -/

/-- The queue entries of a channel. -/
def State.entriesOf (s : State) (c : ChannelId) : List QueueEntry :=
  s.sched.queue.filter fun e => e.request.channel? = some c

/-- What a channel's record says of its span and its demands: the span's length is ⌈held demand / 8⌉, without a span the held
demand is 0, no demand exceeds 512, no rating 1023, and an UNUSED channel has nothing (R102, R103, R154). -/
def Channel.Lawful (ch : Channel) : Prop :=
  ch.rating ≤ 1023 ∧ ch.target ≤ Config.greatestDemand ∧ ch.held ≤ Config.greatestDemand
    ∧ (match ch.span with
        | some span => span.length = slotsFor ch.held ∧ 1 ≤ ch.held
        | none => ch.held = 0)
    ∧ (ch.state = .unused ↔ ch.rating = 0)
    ∧ (ch.state = .unused → ch = .reset)

/-- The channel needs a CLAIM: its target is above 0 and its span absent or of another length (R104, case 4). -/
def Channel.needsClaim (ch : Channel) : Bool :=
  decide (0 < ch.target) && ch.span.all fun span => decide (span.length ≠ slotsFor ch.target)

/-- The channel needs a RELEASE: its target is 0 and its span present (R104, case 2). -/
def Channel.needsRelease (ch : Channel) : Bool := decide (ch.target = 0) && ch.span.isSome

/-- How a channel's state stands to its record and to its queue entries (R103, R104). -/
def State.ChannelStateLawful (s : State) (c : ChannelId) : Prop :=
  let ch := s.channels[c]
  match ch.state with
  | .unused => s.entriesOf c = []
  | .idle => ch.target = 0 ∧ ch.span = none ∧ s.entriesOf c = []
  | .held => ch.span.isSome = true ∧ ch.held = ch.target ∧ s.entriesOf c = []
  | .queued =>
      s.entriesOf c = [.fresh (.claim c)] ∧ ch.needsClaim = true
        ∨ s.entriesOf c = [.fresh (.release c)] ∧ ch.needsRelease = true
  | .inFlight => ∃ e, s.entriesOf c = [e] ∧ e.onWire = true
  | .waiting => s.entriesOf c = [] ∧ (ch.needsClaim = true ∨ ch.needsRelease = true)
  | .starved => s.entriesOf c = [] ∧ ch.needsClaim = true

/-- Every channel's record and state are lawful. -/
def State.ChannelsLawful (s : State) : Prop :=
  ∀ c : ChannelId, s.channels[c].Lawful ∧ s.ChannelStateLawful c

/-- A channel's span is the span of its holding in the station's own plan (R102). -/
def State.SpansInPlan (s : State) : Prop :=
  ∀ c : ChannelId,
    s.channels[c].span = (s.table.find s.cfg.address c).map fun h => { start := h.start, length := h.length }

/-- The states in which a station holds holdings of its own (R22). -/
def StationState.holdsOwn : StationState → Bool
  | .joined | .resync | .leaving => true
  | .unconfigured | .listen | .quiet | .fault | .halt => false

/-- Outside JOINED, RESYNC and LEAVING no channel has a span (R102, R117, R118). -/
def State.SpansWhereHeld (s : State) : Prop :=
  s.station.state.holdsOwn = false → ∀ c : ChannelId, s.channels[c].span = none

/-- The composed record states what its message carries (R85, R91 to R93): the own address; of a CLAIM a length of ⌈T / 8⌉ for
its T from 1 to 512. A CLAIM goes out behind every ANNOUNCE that is due, so that the own record is PRESENT and does not expire while it
is on the wire (R39, R89, R94). -/
def State.ComposedLawful (s : State) : Prop :=
  ∀ k, s.sched.composed = some k →
    k.message.sender = s.ownSender ∧ k.message.unacceptable = false
      ∧ match k.request, k.message with
        | .announce, .announce _ digest _ entries =>
            digest = s.cfg.digest ∧ (k.station = .leaving → s.station.state = .leaving)
              ∧ entries = if k.station = .leaving then [] else (s.table.holdingsOf s.cfg.address).map entryOf
        | .release c, .release _ channel => channelOf? channel = some c
        | .claim c, .claim _ e =>
            channelOf? e.channel = some c ∧ 1 ≤ k.target ∧ k.target ≤ Config.greatestDemand
              ∧ e.lengthLess1.toNat + 1 = slotsFor k.target
              ∧ s.table.peers[s.cfg.address].present = true ∧ s.table.peers[s.cfg.address].age ≤ s.cfg.interval
              ∧ s.table.fits s.cfg.budget s.cfg.address c (slotOf e.start) (e.lengthLess1.toNat + 1) e.rating.toNat = true
        | .rollcall, .rollcall _ => True
        | _, _ => False

/-- In JOINED an ANNOUNCE is queued while the own record is ABSENT or its age is I or more (R39, R94). -/
def State.AnnounceWaits (s : State) : Prop :=
  s.station.state = .joined →
    s.table.peers[s.cfg.address].present = false ∨ s.cfg.interval ≤ s.table.peers[s.cfg.address].age →
      holds s.sched.queue .announce = true

/-! ## The outputs -/

/-- An output conducts only in a slot covered by its channel's drive-table entry, and in UNCONFIGURED, LISTEN, QUIET, FAULT
and HALT the table is empty and every output is off (R129). -/
def State.OutputsLawful (s : State) : Prop :=
  (∀ c : ChannelId, s.drive.outputs[c] = true →
      ∃ e, s.drive.table[c] = some e ∧ spanCovers e.start e.length s.timer.slotIndex = true)
    ∧ (s.station.state ∈ [.unconfigured, .listen, .quiet, .fault, .halt] → s.drive = .reset)
    ∧ ∀ c : ChannelId, s.channels[c].state = .unused → s.drive.table[c] = none

/-! ## The local port -/

/-- The event queue holds at most 16 records, the sixteenth an OVERFLOW (R159, R160); ATTN is asserted exactly while it holds
one (R163); a transaction is open only under a low chip select at a ready port (R150, R151); and a pending removal stands for the
record at the head, while its reply is shifted out (R162). -/
def LocalPort.Lawful (p : LocalPort) : Prop :=
  p.events.length ≤ Config.eventLimit
    ∧ (p.events.length = Config.eventLimit → p.events.getLast?.map EventRecord.kind = some .overflow)
    ∧ (p.attn = true ↔ p.events ≠ [])
    ∧ (p.phase ≠ .none → p.selectLow = true ∧ p.ready = true)
    ∧ (p.pendingRemoval = true →
        p.phase = .reply ∧ ∃ r rest, p.events = r :: rest ∧ p.reply = statusOk :: r.bytes)

end Sys2Proof.Machine

namespace Sys2Proof

/-- The commands at which time passes: before it does, the fall of an own pulse that has just begun is taken. -/
def Instr.takesTime : Instr → Bool
  | .slotStart | .guardWindow | .syncPulse | .syncPulseRelease | .syncAcquired | .syncStuck | .dataStuck | .linesIdle
  | .framingIdle | .startOfFrame | .joinStartOfFrame | .messageObjected .. | .announceCommit .. | .claimCommit ..
  | .releaseCommit .. | .rollcallCommit .. | .dataFall .. | .refuseBit .. => true
  | .powerOnReset | .resetPin | .resetRelease | .portReady | .transactionStart | .transactionEnd .. | .badCommand ..
  | .config .. | .demand .. | .clear .. | .quiet | .leaveQuiet | .channel .. | .slot .. | .holdings .. | .peer ..
  | .station | .event | .eventRecordRemoved | .syncEdge .. | .invalidSyncEdge .. | .peerExpired .. | .selfExpired
  | .announceDue | .joinWindowEnd | .attemptLost | .mismatchAfterSender => false

/-- The command at which a message commits; `refused` says whether another station pulls REFUSE on a CLAIM. -/
def Message.committing (refused : Bool) : Message → Instr
  | .announce sender digest cycleAge entries => .announceCommit sender digest cycleAge entries
  | .release sender channel => .releaseCommit sender channel
  | .claim sender entry => .claimCommit sender entry refused
  | .rollcall sender => .rollcallCommit sender

end Sys2Proof
end

