-- ==== Sys2Proof/WellFormed.lean ====
section
/-! DEFINITION. Which commands the outside world can really send: the operands that the wire or the port can carry
under the row's own summary. `exec` is total and says what every ill-formed command does as well. -/

namespace Sys2Proof

/-- The fields of an ANNOUNCE entry or a CLAIM raise no objection of R72. -/
def WireEntry.wellFormed (e : WireEntry) : Bool :=
  decide (e.channel.toNat ≤ 11) && decide (e.rating ≠ 0)

/-- No two entries carry the same channel (R72). -/
def distinctChannels : List WireEntry → Bool
  | [] => true
  | e :: es => !es.any (fun d => d.channel == e.channel) && distinctChannels es

/-- The command bytes of R166. -/
def knownCommand (code : Byte) : Bool :=
  [0x01, 0x02, 0x03, 0x04, 0x05, 0x10, 0x11, 0x12, 0x13, 0x14, 0x15].contains code

/-- A message whose fields fit the layout of R164: an ANNOUNCE counts at most 15 entries. -/
def Message.fitsLayout : Message → Bool
  | .announce _ _ _ entries => decide (entries.length ≤ 15)
  | _ => true

/-- A message that can commit: nothing in it is a ground of objection (R72). -/
def Message.acceptable : Message → Bool
  | .announce _ _ _ entries =>
      decide (entries.length ≤ 12) && entries.all WireEntry.wellFormed && distinctChannels entries
  | .release _ c => decide (c.toNat ≤ 11)
  | .claim _ entry => entry.wellFormed
  | .rollcall _ => true

/-- A late outcome of a message that the wire can carry. -/
def LateOutcome.wellFormed : LateOutcome → Bool
  | .committed message _ => message.acceptable
  | .objected message _ => message.fitsLayout

/-- The well-formed commands. -/
def Instr.wellFormed : Instr → Bool
  | .badCommand code => !knownCommand code
  | .syncEdge _ order => EdgePart.orderAllowed order && (EdgePart.outcomeIn order).all LateOutcome.wellFormed
  | .messageObjected message _ => message.fitsLayout
  | .announceCommit sender digest cycleAge entries => (Message.announce sender digest cycleAge entries).acceptable
  | .claimCommit sender entry _ => (Message.claim sender entry).acceptable
  | .releaseCommit sender c => (Message.release sender c).acceptable
  | .refuseBit _ entry => entry.wellFormed
  | _ => true

end Sys2Proof
end

