-- ==== Sys2Proof/Certificates/Slice0/Obligations.lean ====
section
/-! DEFINITION. The statements for the provers. Each says of the model what the rules of spec/ that it names say of the part.

A state under a record update, such as `{ s with port := p }`, says the frame with it: every item of every block that the update does
not name, and the queue of the waiting commands, is as it was. -/

open Sys2Proof Sys2Proof.Machine

/-! ## The step -/

/-- The command at the front of the queue is taken off it and has its effect on the rest. The model's own choices in it:
notes/assumptions/7.md. -/
def Obligations.StepRunsFrontCommand : Prop :=
  ∀ (c : Instr) (rest : List Instr) (s : State), s.pending = c :: rest → step s = exec c { s with pending := rest }

/-! ## Reset and the transaction (R133, R150, R151) -/

/-- While reset is asserted, and when it is released, every item holds its reset value: drivers released, outputs off, ATTN released and a
transaction discarded. A part that is not held is not released. The model's own choices in it: notes/assumptions/1.md,
notes/assumptions/2.md, notes/assumptions/8.md, notes/assumptions/17.md. -/
def Obligations.ResetBringsEveryItemToItsResetValue : Prop :=
  ∀ s : State,
    (∃ t, exec .powerOnReset s = .next t ∧ t.AtReset ∧ t.inputs.supplyLow = true ∧ t.heldInReset = true
        ∧ t.port = { LocalPort.reset with selectLow := s.port.selectLow } ∧ t.pending = s.pending)
      ∧ (∃ t, exec .resetPin s = .next t ∧ t.AtReset ∧ t.inputs.pinLow = true ∧ t.heldInReset = true
        ∧ t.port = { LocalPort.reset with selectLow := s.port.selectLow } ∧ t.pending = s.pending)
      ∧ (s.heldInReset = true →
          ∃ t, exec .resetRelease s = .next t ∧ t.AtReset ∧ t.heldInReset = false
            ∧ t.port = { LocalPort.reset with selectLow := s.port.selectLow } ∧ t.pending = s.pending)
      ∧ (s.heldInReset = false → exec .resetRelease s = .next s)

/-- The port becomes ready outside reset; a fall of chip select at a ready port opens the COMMAND phase with nothing received and nothing
to reply, and at a port that is not ready opens none; a rise ends the transaction in any phase. The data output is driven exactly while chip
select is low at a ready port, and in COMMAND and in ARGUMENTS its bits are zero. That they are zero with no transaction open too is the
model's choice: notes/assumptions/28.md. Its other choices here: notes/assumptions/8.md, notes/assumptions/15.md,
notes/assumptions/16.md. -/
def Obligations.ChipSelectFramesTransactions : Prop :=
  ∀ s : State,
    (s.heldInReset = false → exec .portReady s = .next { s with port := { s.port with ready := true } })
      ∧ (s.heldInReset = true → exec .portReady s = .next s)
      ∧ (s.port.selectLow = false → s.port.ready = true →
          exec .transactionStart s
            = .next { s with
                port := { s.port with
                  selectLow := true, phase := .command, received := [], reply := [], replyPosition := 0 } })
      ∧ (s.port.selectLow = false → s.port.ready = false →
          exec .transactionStart s = .next { s with port := { s.port with selectLow := true } })
      ∧ (s.port.selectLow = true → exec .transactionStart s = .next s)
      ∧ exec (.transactionEnd []) s
          = .next { s with port := { s.port with selectLow := false, phase := .none, pendingRemoval := false } }
      ∧ (s.sdoDriven = true ↔ s.port.selectLow = true ∧ s.port.ready = true)
      ∧ (s.port.phase = .none ∨ s.port.phase = .command ∨ s.port.phase = .arguments → s.sdoByte = 0)

/-- A command of which chip select rises before the last argument byte has no effect: no status is formed and nothing but the transaction
itself changes (R152). A command byte that names no command is refused at that byte with BAD_COMMAND (R153). The model's own choices in
it: notes/assumptions/15.md, notes/assumptions/16.md. -/
def Obligations.UnfinishedAndUnknownCommandsHaveNoEffect : Prop :=
  (∀ (code : Byte) (args : List Byte) (n : Nat) (s : State),
    s.port.phase = .command → argumentCount code = some n → args.length < n →
      exec (.transactionEnd (code :: args)) s
        = .next { s with
            port := { s.port with
              selectLow := false, phase := .none, received := code :: args, pendingRemoval := false } })
    ∧ ∀ (code : Byte) (s : State), s.port.phase = .command → knownCommand code = false →
      exec (.badCommand code) s
        = .next { s with
            port := { s.port with phase := .reply, received := [code], reply := [0x02], replyPosition := 0 } }

/-! ## CONFIG (R134, R154) -/

/-- The eight checks of CONFIG, in the order in which they are made. -/
def Obligations.ConfigChecksInOrder : Prop :=
  ∀ a : ConfigArgs,
    let c1 := a.address.toNat ≤ 31
    let c2 := a.rateCode.toNat ≤ 3
    let c3 := 1 ≤ a.slotCode.toNat ∧ a.slotCode.toNat ≤ 64
    let c4 := 1 ≤ a.budget.toNat ∧ a.budget.toNat ≤ 4095
    let c5 := 4 ≤ a.interval.toNat ∧ a.interval.toNat ≤ 64
    let c6 := 1600 ≤ a.slotCode.toNat * (500 * 2 ^ a.rateCode.toNat)
    let c7 := ∀ c : ChannelId, a.ratings[c].toNat ≤ 1023 ∧ a.ratings[c].toNat ≤ a.budget.toNat
    let c8 := ∃ c : ChannelId, a.ratings[c].toNat ≠ 0
    (¬c1 → configCheck a = 1)
      ∧ (c1 → ¬c2 → configCheck a = 2)
      ∧ (c1 → c2 → ¬c3 → configCheck a = 3)
      ∧ (c1 → c2 → c3 → ¬c4 → configCheck a = 4)
      ∧ (c1 → c2 → c3 → c4 → ¬c5 → configCheck a = 5)
      ∧ (c1 → c2 → c3 → c4 → c5 → ¬c6 → configCheck a = 6)
      ∧ (c1 → c2 → c3 → c4 → c5 → c6 → ¬c7 → configCheck a = 7)
      ∧ (c1 → c2 → c3 → c4 → c5 → c6 → c7 → ¬c8 → configCheck a = 8)
      ∧ (c1 → c2 → c3 → c4 → c5 → c6 → c7 → c8 → configCheck a = 0)

/-- A CONFIG that passes every check, in UNCONFIGURED: the configuration and the digest take their values, the timer starts, plan
and peer table are empty, the engine waits for an edge, a ROLLCALL is queued, each channel takes its rating, and the station enters
LISTEN with cause CONFIG. No event is posted, and the outputs and the bus drivers are as they were but for a released DATA. -/
def Obligations.ValidConfigEntersListen : Prop :=
  ∀ (a : ConfigArgs) (s : State),
    s.port.phase = .command → s.station.state = .unconfigured → configCheck a = 0 → s.sched.queue = [] →
      ∃ t, exec (.config a) s = .next t
        ∧ t.station
            = { state := .listen, cause := .config, opened := false, count := 0, traffic := false, rollcall := .none
                quietStale := s.station.quietStale }
        ∧ t.cfg.address.val = a.address.toNat ∧ t.cfg.rateCode.val = a.rateCode.toNat
        ∧ t.cfg.slotCode = a.slotCode.toNat ∧ t.cfg.budget = a.budget.toNat ∧ t.cfg.interval = a.interval.toNat
        ∧ t.cfg.digest = digestOf a.rateCode a.slotCode a.budget a.interval
        ∧ t.timer = { running := true, localTime := 0, slotIndex := 0, cycleCounter := 0, syncAcquired := false }
        ∧ t.table = .reset
        ∧ t.engine
            = { s.engine with framing := .awaitSync, ending := none, frame := none, objection := none, verdict := none }
        ∧ t.sched = { s.sched with queue := [{ request := .rollcall, onWire := false, cancel := false }] }
        ∧ (∀ c : ChannelId, t.channels[c]
            = { s.channels[c] with
                rating := a.ratings[c].toNat, state := if a.ratings[c] = 0 then .unused else .idle })
        ∧ t.lines
            = { s.lines with syncHighTime := 0, syncLowTime := 0, dominantTime := 0, dataDriving := false }
        ∧ t.drive = s.drive ∧ t.inputs = s.inputs ∧ t.pending = s.pending
        ∧ t.port
            = { s.port with
                phase := .reply, received := 0x01 :: a.bytes, reply := [0x00, 0x00], replyPosition := 0, mask := a.mask }

/-- The 32 argument bytes of CONFIG, as they are laid out on the port, are read back as the arguments that they were laid out
from. -/
def Obligations.ConfigBytesReadBack : Prop := ∀ a : ConfigArgs, a.bytes.length = 32 ∧ ConfigArgs.ofBytes a.bytes = a

/-! ## Demand (R104 to R107) -/

/-- An accepted DEMAND: the target is written, SUPERSEDED is set where an unrealised target is replaced, and the channel is settled
unless it is IN_FLIGHT, or STARVED at an unchanged target. Nothing but the channel's record, the queue and the transaction
changes. -/
def Obligations.DemandSettlesItsChannel : Prop :=
  ∀ (c : ChannelId) (d : BitVec 16) (s : State),
    s.port.phase = .command → s.station.state ≠ .unconfigured → s.station.state ≠ .halt →
    d.toNat ≤ 512 → s.channels[c].state ≠ .unused →
      let ch := s.channels[c]
      let unrealised := ch.state = .waiting ∨ ch.state = .queued ∨ ch.state = .starved
      let stays := ch.state = .inFlight ∨ (ch.state = .starved ∧ d.toNat = ch.target)
      let withdrawn := s.sched.queue.filter fun e => e.onWire || e.request.channel? != some c
      let may (r : Request) : Prop := (∃ e ∈ s.sched.queue, e.request = r) ∨ s.station.state = .joined
        ∨ (s.station.state = .resync ∧ r = .release c)
      ∃ t ch', exec (.demand (BitVec.ofNat 8 c.val) d) s = .next t
        ∧ t = { s with
            channels := s.channels.set c ch'
            sched := { s.sched with queue := t.sched.queue }
            port := { s.port with
              phase := .reply, received := [0x02, BitVec.ofNat 8 c.val] ++ argumentBytes d, reply := [0x00]
              replyPosition := 0 } }
        ∧ ch' = { ch with
            target := d.toNat, superseded := ch'.superseded, state := ch'.state, held := ch'.held }
        ∧ (ch'.superseded = true ↔ ch.superseded = true ∨ (unrealised ∧ d.toNat ≠ ch.target))
        ∧ (stays → ch'.state = ch.state ∧ ch'.held = ch.held ∧ t.sched.queue = s.sched.queue)
        ∧ (¬stays → d.toNat = 0 → ch.span = none →
            ch'.state = .idle ∧ ch'.held = 0 ∧ t.sched.queue = withdrawn)
        ∧ (∀ span, ¬stays → ch.span = some span → d.toNat = 0 → ch'.held = ch.held
            ∧ (may (.release c) → ch'.state = .queued ∧ t.sched.queue = offerTo s.sched.queue (.release c))
            ∧ (¬may (.release c) → ch'.state = .waiting ∧ t.sched.queue = withdrawn))
        ∧ (∀ span, ¬stays → ch.span = some span → 0 < d.toNat → span.length = (d.toNat + 7) / 8 →
            ch'.state = .held ∧ ch'.held = d.toNat ∧ t.sched.queue = withdrawn)
        ∧ (¬stays → 0 < d.toNat → (∀ span, ch.span = some span → span.length ≠ (d.toNat + 7) / 8) →
            ch'.held = ch.held
              ∧ (may (.claim c) → ch'.state = .queued ∧ t.sched.queue = offerTo s.sched.queue (.claim c))
              ∧ (¬may (.claim c) → ch'.state = .waiting ∧ t.sched.queue = withdrawn))

/-- A CONFIG is refused outside UNCONFIGURED and where a check fails, a DEMAND in UNCONFIGURED and HALT, for a channel above 11, for
a value above 512 and for an UNUSED channel, and a CLEAR in UNCONFIGURED and for a channel above 11. A refusal answers its status, for
CONFIG with the number of the first failed check, and changes nothing but the transaction. -/
def Obligations.RefusedWriteCommandsChangeNothing : Prop :=
  ∀ (a : ConfigArgs) (c : Byte) (d : BitVec 16) (mask : Byte) (s : State), s.port.phase = .command →
    let answered (received reply : List Byte) : State :=
      { s with port := { s.port with phase := .reply, received := received, reply := reply, replyPosition := 0 } }
    let refusedConfig (reply : List Byte) : State := answered (0x01 :: a.bytes) reply
    let refusedDemand (status : Byte) : State := answered ([0x02, c] ++ argumentBytes d) [status]
    let refusedClear (status : Byte) : State := answered [0x03, c, mask] [status]
    (s.station.state ≠ .unconfigured → exec (.config a) s = .next (refusedConfig [0x04, 0x00]))
      ∧ (s.station.state = .unconfigured → configCheck a ≠ 0 →
        exec (.config a) s = .next (refusedConfig [0x03, BitVec.ofNat 8 (configCheck a)]))
      ∧ (s.station.state = .unconfigured ∨ s.station.state = .halt →
        exec (.demand c d) s = .next (refusedDemand 0x04))
      ∧ (s.station.state ≠ .unconfigured → s.station.state ≠ .halt → 11 < c.toNat ∨ 512 < d.toNat →
        exec (.demand c d) s = .next (refusedDemand 0x03))
      ∧ (∀ h : c.toNat < 12, s.station.state ≠ .unconfigured → s.station.state ≠ .halt →
        s.channels[c.toNat].state = .unused → exec (.demand c d) s = .next (refusedDemand 0x03))
      ∧ (s.station.state = .unconfigured → exec (.clear c mask) s = .next (refusedClear 0x04))
      ∧ (s.station.state ≠ .unconfigured → 11 < c.toNat → exec (.clear c mask) s = .next (refusedClear 0x03))

/-- An accepted CLEAR clears the flags that its mask selects, and nothing else of the record (R107). -/
def Obligations.ClearClearsSelectedFlags : Prop :=
  ∀ (c : ChannelId) (mask : Byte) (s : State), s.port.phase = .command → s.station.state ≠ .unconfigured →
    exec (.clear (BitVec.ofNat 8 c.val) mask) s
      = .next { s with
          channels := s.channels.set c { s.channels[c] with
            superseded := if mask.getLsbD 0 then false else s.channels[c].superseded
            starved := if mask.getLsbD 1 then false else s.channels[c].starved
            evicted := if mask.getLsbD 2 then false else s.channels[c].evicted }
          port := { s.port with
            phase := .reply, received := [0x03, BitVec.ofNat 8 c.val, mask], reply := [0x00], replyPosition := 0 } }

/-! ## QUIET and LEAVE QUIET (R141, R145) -/

/-- QUIET in JOINED enters LEAVING with cause REQUEST: queued CLAIMs leave, the closing ANNOUNCE is offered, and each channel that was
QUEUED with a CLAIM waits. Plan, peer table, timer, lines, engine and drive table are unchanged and no event is posted. In every other
state it is refused with WRONG_STATE. -/
def Obligations.QuietStartsLeaving : Prop :=
  ∀ s : State, s.port.phase = .command →
    (s.station.state = .joined →
        ∃ chs, exec .quiet s
            = .next { s with
                station := { s.station with
                  state := .leaving, cause := .request, opened := false, count := 0, traffic := false, rollcall := .none }
                sched := { s.sched with
                  queue := offerTo (removeEntries Request.isClaim s.sched.queue) .announce }
                channels := chs
                port := { s.port with
                  phase := .reply, received := [0x04], reply := [0x00], replyPosition := 0 } }
          ∧ ∀ c : ChannelId, chs[c]
              = if s.channels[c].state = .queued ∧ holds s.sched.queue (.claim c) = true then
                  { s.channels[c] with state := .waiting }
                else s.channels[c])
      ∧ (s.station.state ≠ .joined →
        exec .quiet s
          = .next { s with
              port := { s.port with phase := .reply, received := [0x04], reply := [0x04], replyPosition := 0 } })

/-- LEAVE QUIET in QUIET with the quiet-stale flag clear and an empty queue enters JOINED with cause RETURN: plan, peer table, timer,
lines, engine and drive table run on, the ANNOUNCE joins the queue ahead of every CLAIM, and JOINED is posted. With the flag set it
enters LISTEN with cause STALE: plan and peer table are emptied, the engine waits for an edge, and a ROLLCALL joins the queue. In every
other state it is refused with WRONG_STATE. -/
def Obligations.LeaveQuietReturnsOrListens : Prop :=
  ∀ s : State, s.port.phase = .command →
    (s.station.state = .quiet → s.station.quietStale = false → s.sched.queue = [] →
        ∃ t rest, exec .leaveQuiet s = .next t
          ∧ t = { s with
              station := { s.station with
                state := .joined, cause := .returned, opened := false, count := 0, traffic := false, rollcall := .none }
              sched := { s.sched with queue := .fresh .announce :: rest }
              channels := t.channels
              port := { s.port.post ⟨.joined, .cause .returned, s.timer.cycleCounter⟩ with
                phase := .reply, received := [0x05], reply := [0x00], replyPosition := 0 } }
          ∧ ∀ c : ChannelId, s.channels[c].state = .waiting → 0 < s.channels[c].target → s.channels[c].span = none →
              t.channels[c] = { s.channels[c] with state := .queued } ∧ .fresh (.claim c) ∈ rest)
      ∧ (s.station.state = .quiet → s.station.quietStale = true → s.sched.queue = [] →
        exec .leaveQuiet s
          = .next { s with
              station := { s.station with
                state := .listen, cause := .stale, opened := false, count := 0, traffic := false, rollcall := .none }
              table := .reset
              lines := { s.lines with dataDriving := false }
              engine := { s.engine with
                framing := .awaitSync, ending := none, frame := none, objection := none, verdict := none }
              sched := { s.sched with queue := [.fresh .rollcall] }
              port := { s.port with
                phase := .reply, received := [0x05], reply := [0x00], replyPosition := 0 } })
      ∧ (s.station.state ≠ .quiet →
        exec .leaveQuiet s
          = .next { s with
              port := { s.port with phase := .reply, received := [0x05], reply := [0x04], replyPosition := 0 } })

/-! ## Reads (R156, R157, R162) -/

/-- CHANNEL, SLOT, HOLDINGS and PEER reply with a snapshot of the record asked for, and STATION with the ten items of the station view, of
which the present-peer count is the number of PRESENT records; none changes anything but the transaction. An argument out of its range
answers BAD_ARGUMENT. Channel states, station states and causes have the codes of the manual's table. The model's own choices in it:
notes/assumptions/16.md. -/
def Obligations.ReadsReplyWithSnapshots : Prop :=
  ∀ s : State, s.port.phase = .command →
    let replied (code arg : Byte) (reply : List Byte) : State :=
      { s with
        port := { s.port with phase := .reply, received := [code, arg], reply := reply, replyPosition := 0 } }
    let two (n : Nat) : List Byte := [BitVec.ofNat 8 (n / 256), BitVec.ofNat 8 n]
    (∀ c : ChannelId,
        let ch := s.channels[c]
        exec (.channel (BitVec.ofNat 8 c.val)) s
          = .next (replied 0x10 (BitVec.ofNat 8 c.val)
              ([0x00, ch.state.code] ++ two ch.rating ++ two ch.target ++ two ch.held
                ++ (match ch.span with
                    | some span => [BitVec.ofNat 8 (128 + span.start.val), BitVec.ofNat 8 span.length]
                    | none => [0, 0])
                ++ [BitVec.ofNat 8 ((if ch.superseded then 1 else 0) + (if ch.starved then 2 else 0)
                      + (if ch.evicted then 4 else 0))])))
      ∧ (∀ k : Slot,
        exec (.slot (BitVec.ofNat 8 k.val)) s
          = .next (replied 0x11 (BitVec.ofNat 8 k.val) ([0x00] ++ two s.table.sums[k] ++ two s.table.counts[k])))
      ∧ (∀ a : Address,
        exec (.holdings (BitVec.ofNat 8 a.val)) s
          = .next (replied 0x12 (BitVec.ofNat 8 a.val)
              ([0x00, BitVec.ofNat 8 (s.table.holdingsOf a).length]
                ++ (s.table.holdingsOf a).flatMap fun h =>
                    [BitVec.ofNat 8 h.channel.val, BitVec.ofNat 8 h.start.val, BitVec.ofNat 8 h.length]
                      ++ two h.rating)))
      ∧ (∀ a : Address,
        exec (.peer (BitVec.ofNat 8 a.val)) s
          = .next (replied 0x13 (BitVec.ofNat 8 a.val)
              ([0x00, if s.table.peers[a].present then 1 else 0, BitVec.ofNat 8 s.table.peers[a].age]
                ++ two s.table.peers[a].cycleAge.toNat)))
      ∧ (exec .station s
        = .next { s with
          port := { s.port with
            phase := .reply, received := [0x14], replyPosition := 0
            reply :=
              [0x00, s.station.state.code, s.station.cause.code,
                BitVec.ofNat 8 ((if s.timer.syncAcquired then 1 else 0) + (if s.station.quietStale then 2 else 0))]
                ++ two s.timer.cycleCounter.toNat
                ++ [BitVec.ofNat 8 s.table.peers[s.cfg.address].age,
                    BitVec.ofNat 8 ((List.finRange 32).countP fun a => s.table.peers[a].present)]
                ++ two s.table.plan.length
                ++ [BitVec.ofNat 8 s.sched.queue.length, BitVec.ofNat 8 s.port.events.length] } })
      ∧ [ChannelState.unused, .idle, .waiting, .queued, .inFlight, .held, .starved].map ChannelState.code
          = [0, 1, 2, 3, 4, 5, 6]
      ∧ [StationState.unconfigured, .listen, .joined, .resync, .leaving, .quiet, .fault, .halt].map StationState.code
          = [0, 1, 2, 3, 4, 5, 6, 7]
      ∧ [Cause.reset, .config, .recovery, .stale, .window, .early, .returned, .divergence, .claimRefused, .request,
            .closed, .syncStuck, .dataStuck, .addressClash, .configMismatch, .objected, .sync].map Cause.code
          = [0, 1, 2, 3, 4, 5, 6, 7, 8, 9, 10, 11, 12, 13, 14, 15, 16]
      ∧ ∀ b : Byte,
        (11 < b.toNat → exec (.channel b) s = .next (replied 0x10 b [0x03]))
          ∧ (63 < b.toNat → exec (.slot b) s = .next (replied 0x11 b [0x03]))
          ∧ (31 < b.toNat → exec (.holdings b) s = .next (replied 0x12 b [0x03]))
          ∧ (31 < b.toNat → exec (.peer b) s = .next (replied 0x13 b [0x03]))

/-- EVENT copies the head record into the reply and marks its removal pending, the queue and ATTN unchanged; with an empty queue it
answers EMPTY. The record leaves at its last bit, and ATTN is released if the queue is then empty. An event that is posted is dropped
where its kind is masked; it joins the tail of a queue of at most 14 records; as the sixteenth it is stored as OVERFLOW, with its kind as
the subject and its stamp; and a full queue discards it. Kinds have the codes of the manual's table, and a subject is an address, a channel,
the code of a cause or that of a kind. The model's own choices in it: notes/assumptions/8.md,
notes/assumptions/15.md, notes/assumptions/16.md. -/
def Obligations.EventReadsAndRemovesTheHead : Prop :=
  ∀ s : State,
    (s.port.phase = .command → s.port.events = [] →
        exec .event s
          = .next { s with
              port := { s.port with phase := .reply, received := [0x15], reply := [0x01], replyPosition := 0 } })
      ∧ (∀ r rest, s.port.phase = .command → s.port.events = r :: rest →
        exec .event s
          = .next { s with
              port := { s.port with
                phase := .reply, received := [0x15], replyPosition := 0, pendingRemoval := true
                reply := [0x00, BitVec.ofNat 8 r.kind.code, r.subject.code, BitVec.ofNat 8 (r.stamp.toNat / 256),
                  BitVec.ofNat 8 r.stamp.toNat] } })
      ∧ (∀ r rest, s.port.phase = .reply → s.port.pendingRemoval = true → s.port.events = r :: rest →
        s.port.reply.length = 5 →
        exec .eventRecordRemoved s
          = .next { s with
              port := { s.port with
                phase := .ignore, replyPosition := 40, pendingRemoval := false, events := rest
                attn := if rest = [] then false else s.port.attn } })
      ∧ (¬(s.port.phase = .reply ∧ s.port.pendingRemoval = true) → exec .eventRecordRemoved s = .next s)
      ∧ [EventKind.joined, .resync, .fault, .faultCleared, .halt, .quietEntered, .channelHeld, .channelStarved,
            .channelEvicted, .selfExpired, .peerArrived, .peerExpired, .txObjected, .overflow].map EventKind.code
          = List.range 14
      ∧ (∀ a : Address, (Subject.address a).code = BitVec.ofNat 8 a.val)
      ∧ (∀ c : ChannelId, (Subject.channel c).code = BitVec.ofNat 8 c.val)
      ∧ (∀ cause : Cause, (Subject.cause cause).code = cause.code)
      ∧ (∀ k : EventKind, (Subject.kind k).code = BitVec.ofNat 8 k.code)
      ∧ ∀ r : EventRecord,
        (s.port.mask.getLsbD r.kind.code = false → s.port.post r = s.port)
          ∧ (s.port.mask.getLsbD r.kind.code = true →
              (s.port.events.length ≤ 14 →
                  s.port.post r = { s.port with events := s.port.events ++ [r], attn := true })
                ∧ (s.port.events.length = 15 →
                  s.port.post r
                    = { s.port with
                        events := s.port.events ++ [{ kind := .overflow, subject := .kind r.kind, stamp := r.stamp }]
                        attn := true })
                ∧ (16 ≤ s.port.events.length → s.port.post r = s.port))

/-- After an EVENT the record leaves the queue exactly where all five bytes of the reply are clocked out before chip select rises; a read
cut short loses no record (R162). The model's own choices in it: notes/assumptions/15.md. -/
def Obligations.EventLeavesOnlyWhenShiftedOut : Prop :=
  ∀ (clocked : List Byte) (r : EventRecord) (rest : List EventRecord) (s : State),
    s.port.phase = .reply → s.port.pendingRemoval = true → s.port.replyPosition = 0 → s.port.reply.length = 5 →
    s.port.events = r :: rest →
      ∃ t, exec (.transactionEnd clocked) s = .next t
        ∧ t = { s with port := t.port }
        ∧ t.port.phase = .none ∧ t.port.selectLow = false ∧ t.port.pendingRemoval = false
        ∧ t.port.mask = s.port.mask
        ∧ (t.port.events = if 5 ≤ clocked.length then rest else r :: rest)
        ∧ (t.port.attn = if 5 ≤ clocked.length ∧ rest = [] then false else s.port.attn)

/-! ## The SYNC edge (R34 to R37, R53, R57) -/

/-- A valid edge at a running timer, whatever order the blocks take it in, with no outcome of a message falling together with it; nor does one
fall together with the own pulse's edge that the message has not come to. Local cycle time and slot index return to 0, the counter advances, sync-acquired is set; the line is low with its measures restarted; a message
is void and the engine in GAP with the measure at 0. An own attempt is void with cause SYNC: the void counter advances below 8, TX_OBJECTED is
posted with the new stamp when it reaches 8, no entry keeps the on-wire mark, a cancelled CLAIM is gone and its channel waits, and a CLAIM or
RELEASE still needed stays queued in its place. A join window opens at its first edge; later the count rises, the traffic mark is cleared, a
THIS_CYCLE rollcall mark becomes EARLIER, and the window ends early or at E edges in JOINED, with an ANNOUNCE queued and no ROLLCALL. The
model's own choices in it: notes/assumptions/3.md, notes/assumptions/6.md. -/
def Obligations.SyncEdgeRestartsTheCycle : Prop :=
  ∀ (hold : Nat) (order : List EdgePart) (s : State),
    s.timer.running = true → s.station.state ≠ .unconfigured →
    (s.lines.syncDriving = true →
      s.lines.syncLow = false ∧ 16 * bitPeriods s.cfg.rateCode.val ≤ s.lines.syncHighTime) →
    (s.engine.transmission ≠ .none → s.engine.framing = .frame) →
    (∀ late, EdgePart.outcomeIn (EdgePart.taken order) = some late → s.lines.syncDriving = true
      ∧ ∀ f, s.engine.frame = some f →
          f.elapsed < match late with
            | .committed m _ => m.commitPoint * bitPeriods s.cfg.rateCode.val
            | .objected m _ => m.objectPosition * bitPeriods s.cfg.rateCode.val + bitPeriods s.cfg.rateCode.val / 2) →
    let quietPeers := ∀ a : Address, s.table.peers[a].present = true → s.table.peers[a].age + 1 < 3 * s.cfg.interval
    let window := s.station.state = .listen ∨ s.station.state = .resync
    let joins (cause : Cause) (t : State) : Prop :=
      t.station
          = { s.station with
              state := .joined, cause := cause, opened := false, count := 0, traffic := false, rollcall := .none }
        ∧ (s.sched.Lawful → holds t.sched.queue .announce = true)
        ∧ (s.WireLawful → ∀ e ∈ t.sched.queue, e.request ≠ .rollcall)
    ∃ t, exec (.syncEdge hold order) s = .next t
      ∧ t.timer
          = { running := true, localTime := 0, slotIndex := 0, cycleCounter := s.timer.cycleCounter + 1
              syncAcquired := true }
      ∧ t.lines.syncLow = true ∧ t.lines.syncLowTime = 0 ∧ t.lines.syncHighTime = 0 ∧ t.lines.syncHold = hold
      ∧ t.lines.syncDriving = s.lines.syncDriving
      ∧ (s.engine.framing ≠ .off →
          t.engine.framing = .gap ∧ t.engine.recessiveTime = 0 ∧ t.engine.ending = none ∧ t.engine.frame = none
            ∧ t.engine.objection = none ∧ t.engine.verdict = none ∧ t.engine.transmission = .none ∧ t.lines.dataDriving = false)
      ∧ t.cfg = s.cfg ∧ t.inputs = s.inputs ∧ t.pending = s.pending
      ∧ (¬window → t.station = s.station)
      ∧ (window → s.station.opened = false → t.station = { s.station with opened := true })
      ∧ (window → s.station.opened = true →
          (s.station.traffic = false → s.station.rollcall = .earlier → joins .early t)
            ∧ (s.station.traffic = true ∨ s.station.rollcall ≠ .earlier →
                (3 * s.cfg.interval ≤ s.station.count + 1 → joins .window t)
                  ∧ (s.station.count + 1 < 3 * s.cfg.interval →
                      t.station
                        = { s.station with
                            count := s.station.count + 1, traffic := false
                            rollcall := if s.station.rollcall = .none then .none else .earlier })))
      ∧ (s.engine.transmission ≠ .none →
          t.sched.composed = none ∧ t.sched.voids = (if s.sched.voids < 8 then s.sched.voids + 1 else s.sched.voids)
            ∧ (s.WireLawful → ∀ e ∈ t.sched.queue, e.onWire = false)
            ∧ (¬window → quietPeers → s.table.WithinBudget s.cfg.budget →
                t.port
                  = if s.sched.voids = 7 then
                      s.port.post ⟨.txObjected, .cause .sync, s.timer.cycleCounter + 1⟩
                    else s.port)
            ∧ ∀ (c : ChannelId) (r : Request) (cancelled : Bool) (before after : List QueueEntry),
                ¬window → quietPeers → s.table.WithinBudget s.cfg.budget →
                s.engine.request = some r → s.channels[c].state = .inFlight →
                s.sched.queue = before ++ { request := r, onWire := true, cancel := cancelled } :: after →
                (∀ e ∈ before ++ after, e.onWire = false ∧ e.request.channel? ≠ some c) →
                  (r = .claim c → cancelled = true → s.channels[c].needsClaim = true → s.station.state = .leaving →
                      t.channels = s.channels.set c { s.channels[c] with state := .waiting }
                        ∧ t.sched.queue = before ++ after)
                    ∧ ((r = .claim c ∧ s.channels[c].needsClaim = true
                          ∨ r = .release c ∧ s.channels[c].needsRelease = true) → cancelled = false →
                      t.channels = s.channels.set c { s.channels[c] with state := .queued }
                        ∧ ∃ due, t.sched.queue
                            = before ++ { request := r, onWire := false, cancel := false } :: after ++ due
                          ∧ (due = [] ∨ due = [{ request := .announce, onWire := false, cancel := false }])))

/-- Ages advance at a valid edge: every PRESENT record grows one cycle older, and one that reaches E becomes ABSENT with age E; an ABSENT
record is unchanged, and no record's reported cycle age is. The plan loses exactly the holdings of the owners that expire, where no slot
is over budget. No outcome of a message falls together with the edge here. The model's own choices in it: notes/assumptions/3.md,
notes/assumptions/6.md. -/
def Obligations.SyncEdgeAgesAndExpires : Prop :=
  ∀ (hold : Nat) (order : List EdgePart) (s : State),
    s.timer.running = true → s.station.state ≠ .unconfigured →
    (s.lines.syncDriving = true →
      s.lines.syncLow = false ∧ 16 * bitPeriods s.cfg.rateCode.val ≤ s.lines.syncHighTime) →
    EdgePart.outcomeIn (EdgePart.taken order) = none →
    ∃ t, exec (.syncEdge hold order) s = .next t
      ∧ (∀ a : Address, t.table.peers[a]
          = if s.table.peers[a].present = true then
              if s.table.peers[a].age + 1 < 3 * s.cfg.interval then
                { s.table.peers[a] with age := s.table.peers[a].age + 1 }
              else { s.table.peers[a] with present := false, age := 3 * s.cfg.interval }
            else s.table.peers[a])
      ∧ (s.table.Lawful → s.table.WithinBudget s.cfg.budget →
          t.table.plan
            = s.table.plan.filter fun h =>
                !(s.table.peers[h.owner].present
                    && decide (3 * s.cfg.interval ≤ s.table.peers[h.owner].age + 1)))

/-- A valid edge latches the drive table and then sets every output for slot 0 of the new cycle, in every order of the blocks. At a station in
JOINED, RESYNC or LEAVING each used channel's entry takes the start and length of its holding in the plan after the edge; its fraction is
the held demand modulo 8 where that demand needs this length and 0 where it does not; without a holding the entry is empty. The held demand is
that of the instant: where an own message is void at the edge, or a join window ends, it may be the one before or after. In LISTEN and QUIET
entries are empty and outputs off. Where an own RELEASE or an admitted own CLAIM commits together with the edge, either may be first. With the
latch first the entry is that of the holding before the commit; with the RELEASE first it is empty. A latch between the CLAIM's commit and its
report to the channel takes the new span with the old held demand, and so the whole span where the lengths differ; a latch behind the report
takes the new held demand. The model's own choices in it: notes/assumptions/3.md, notes/assumptions/6.md. -/
def Obligations.SyncEdgeLatchesTheDriveTable : Prop :=
  ∀ (hold : Nat) (order : List EdgePart) (s : State),
    s.timer.running = true → s.station.state ≠ .unconfigured →
    (s.lines.syncDriving = true →
      s.lines.syncLow = false ∧ 16 * bitPeriods s.cfg.rateCode.val ≤ s.lines.syncHighTime) →
    let driving := s.station.state = .joined ∨ s.station.state = .resync ∨ s.station.state = .leaving
    let entry (h : Holding) (held : Nat) : DriveEntry :=
      { start := h.start, length := h.length, fraction := if (held + 7) / 8 = h.length then held % 8 else 0 }
    (EdgePart.outcomeIn (EdgePart.taken order) = none →
      ∃ t, exec (.syncEdge hold order) s = .next t
        ∧ (driving →
            (∀ c : ChannelId, t.drive.outputs[c] = true ↔
              ∃ e, t.drive.table[c] = some e
                ∧ (64 - e.start.val) % 64 < e.length
                ∧ (0 ≠ (e.start.val + e.length - 1) % 64 ∨ e.fraction = 0
                    ∨ (s.timer.cycleCounter.toNat + 1) % 8 ∈ [0, 4, 2, 6, 1, 5, 3, 7].take e.fraction))
              ∧ (s.table.Lawful → s.table.WithinBudget s.cfg.budget →
                ∀ c : ChannelId, ∃ held,
                  t.drive.table[c]
                      = (if s.channels[c].state = .unused then none
                        else (t.table.find s.cfg.address c).map fun h => entry h held)
                    ∧ (held = s.channels[c].held ∨ held = t.channels[c].held)
                    ∧ (s.engine.transmission = .none → s.station.state ≠ .resync →
                        (t.table.find s.cfg.address c).isSome = true → held = s.channels[c].held)))
        ∧ ((s.station.state = .listen ∨ s.station.state = .quiet) →
            (∀ c : ChannelId, s.table.find s.cfg.address c = none) →
            ∀ c : ChannelId, t.drive.table[c] = none ∧ t.drive.outputs[c] = false))
      ∧ ∀ (c : ChannelId) (k : Composed) (refused : Bool),
          driving → s.engine.framing = .frame → s.engine.transmission = .driving → s.sched.composed = some k →
          s.engine.request = some k.request → s.channels[c].state = .inFlight → s.table.Lawful →
          s.table.WithinBudget s.cfg.budget →
          (s.lines.syncDriving = true →
            ∃ f, s.engine.frame = some f ∧ k.message.commitPoint * bitPeriods s.cfg.rateCode.val ≤ f.elapsed) →
          EdgePart.orderAllowed order = true → EdgePart.outcomeIn order = some (.committed k.message refused) →
            let own : BitVec 5 := BitVec.ofNat 5 s.cfg.address.val
            let latched := order.idxOf .driveUnit
            let commit := order.idxOf (.message (.committed k.message refused))
            let old : Option DriveEntry := (s.table.find s.cfg.address c).map fun h => entry h s.channels[c].held
            (k.request = .release c → k.message = .release own (BitVec.ofNat 4 c.val) →
              ∃ t, exec (.syncEdge hold order) s = .next t
                ∧ t.table.find s.cfg.address c = none
                ∧ (commit < latched → t.drive.table[c] = none ∧ t.drive.outputs[c] = false)
                ∧ (latched < commit → t.drive.table[c] = old))
              ∧ ∀ e : WireEntry,
                k.request = .claim c → k.message = .claim own e → e.channel = BitVec.ofNat 4 c.val → e.rating ≠ 0 →
                refused = false → s.station.state = .joined ∨ s.station.state = .leaving →
                s.table.peers[s.cfg.address].present = true →
                s.table.peers[s.cfg.address].age + 1 < 3 * s.cfg.interval →
                s.table.fits s.cfg.budget s.cfg.address c (slotOf e.start) (e.lengthLess1.toNat + 1) e.rating.toNat = true →
                0 < k.target → s.channels[c].target = k.target → (k.target + 7) / 8 = e.lengthLess1.toNat + 1 →
                  let new : Holding :=
                    { owner := s.cfg.address, channel := c, start := slotOf e.start, length := e.lengthLess1.toNat + 1
                      rating := e.rating.toNat }
                  ∃ t, exec (.syncEdge hold order) s = .next t
                    ∧ t.table.find s.cfg.address c = some new
                    ∧ t.channels[c].span = some { start := new.start, length := new.length }
                    ∧ t.channels[c].held = k.target
                    ∧ t.drive.table[c]
                        = if latched < commit then old
                          else if latched < order.idxOf .attemptReport then some (entry new s.channels[c].held)
                          else some (entry new k.target)

/-- A fall of SYNC that is not valid, or that comes while the timer is stopped, changes nothing but the line's level and measures; where
another station still holds the line low, the time passes first in which it rises. A fall that would be valid is no such fall, and on a line
that this station's own pulse holds there is none. The model's own choices in it: notes/assumptions/3.md, notes/assumptions/6.md,
notes/assumptions/8.md. -/
def Obligations.OtherFallsOfSyncRestartNothing : Prop :=
  ∀ (hold : Nat) (order : List EdgePart) (s : State),
    let fallen (u : State) : State :=
      { u with
        lines := { u.lines with
          syncLow := true, syncLowTime := 0, syncHighTime := 0, syncHold := hold, idleTime := 0 } }
    let short := s.lines.syncHighTime < 16 * bitPeriods s.cfg.rateCode.val
    (s.lines.syncDriving = false → s.lines.syncLow = false →
        (s.timer.running = false ∨ short → exec (.invalidSyncEdge hold) s = .next (fallen s))
          ∧ (s.timer.running = true → ¬short → exec (.invalidSyncEdge hold) s = .next s)
          ∧ (s.timer.running = false → s.engine.framing ≠ .frame →
              exec (.syncEdge hold order) s = .next (fallen s)))
      ∧ (s.lines.syncDriving = false → s.lines.syncLow = true →
        ∃ u, s.TimePasses u ∧ u.lines.syncLow = false
          ∧ exec (.invalidSyncEdge hold) s = .next (fallen u)
          ∧ (s.timer.running = false → s.engine.framing ≠ .frame →
              exec (.syncEdge hold order) s = .next (fallen u)))
      ∧ (s.lines.syncDriving = true →
        exec (.invalidSyncEdge hold) s = .next s
          ∧ (s.lines.syncLow = true → exec (.syncEdge hold order) s = .next s))

/-- The record of another station that reaches E becomes ABSENT with age E and keeps its reported cycle age, and every holding of its
owner leaves the plan; no other record and no other holding changes, and the timer, the lines, the engine, the station and the drive
table are as they were. PEER_EXPIRED is posted, where the mask and the queue let it. Channels and queue are as they were where no holding left
or no channel is STARVED; where a holding left, the freeing notice takes each STARVED channel to QUEUED in JOINED, with its CLAIM offered in
ascending channel order, and to WAITING in the other states. The model's own choices in it: notes/assumptions/3.md,
notes/assumptions/18.md. -/
def Obligations.PeerExpiryRemovesItsHoldings : Prop :=
  ∀ (a : Address) (s : State),
    a ≠ s.cfg.address → s.station.state.attached = true → s.table.peers[a].present = true →
    s.table.Lawful → s.table.WithinBudget s.cfg.budget →
      let lost := ∃ h ∈ s.table.plan, h.owner = a
      let starved := (List.finRange 12).filter fun c => s.channels[c].state == .starved
      ∃ t, exec (.peerExpired (BitVec.ofNat 5 a.val)) s = .next t
        ∧ t.table.peers
            = s.table.peers.set a { s.table.peers[a] with present := false, age := 3 * s.cfg.interval }
        ∧ t.table.plan = s.table.plan.filter fun h => decide (h.owner ≠ a)
        ∧ t.port = s.port.post ⟨.peerExpired, .address a, s.timer.cycleCounter⟩
        ∧ t = { s with
            table := t.table, port := t.port, channels := t.channels
            sched := { s.sched with queue := t.sched.queue } }
        ∧ (¬lost ∨ starved = [] → t.channels = s.channels ∧ t.sched = s.sched)
        ∧ (lost →
            (∀ c : ChannelId, t.channels[c]
                = if s.channels[c].state = .starved then
                    { s.channels[c] with state := if s.station.state = .joined then .queued else .waiting }
                  else s.channels[c])
              ∧ t.sched.queue
                  = (if s.station.state = .joined then
                      starved.foldl (fun q c => offerTo q (.claim c)) s.sched.queue
                    else s.sched.queue))

/-- The own record that reaches E becomes ABSENT with age E, and every own holding leaves the plan: with no own message on the wire, each
channel that had one loses its span and its held demand, is marked EVICTED, and its drive entry is empty and its output off at once.
SELF_EXPIRED is posted last, and no CHANNEL_EVICTED. The station state stands. In JOINED and RESYNC the ANNOUNCE is then queued. The
model's own choices in it: notes/assumptions/3.md, notes/assumptions/18.md. -/
def Obligations.SelfExpiryEmptiesOwnChannels : Prop :=
  ∀ s : State,
    s.station.state.attached = true → s.table.peers[s.cfg.address].present = true →
    s.engine.transmission = .none → s.table.Lawful → s.table.WithinBudget s.cfg.budget →
      ∃ t, exec .selfExpired s = .next t
        ∧ t.table.peers
            = s.table.peers.set s.cfg.address
                { s.table.peers[s.cfg.address] with present := false, age := 3 * s.cfg.interval }
        ∧ t.table.plan = s.table.plan.filter fun h => decide (h.owner ≠ s.cfg.address)
        ∧ t.port = s.port.post ⟨.selfExpired, .address s.cfg.address, s.timer.cycleCounter⟩
        ∧ (∀ c : ChannelId, (s.table.find s.cfg.address c).isSome = true →
            t.drive.table[c] = none ∧ t.drive.outputs[c] = false
              ∧ (s.channels[c].state ≠ .unused →
                  t.channels[c].span = none ∧ t.channels[c].held = 0 ∧ t.channels[c].evicted = true))
        ∧ t.station = s.station ∧ t.timer = s.timer ∧ t.cfg = s.cfg ∧ t.lines = s.lines ∧ t.engine = s.engine
        ∧ (s.station.state = .joined ∨ s.station.state = .resync →
            holds t.sched.queue .announce = true)

/-- When the own announce age has reached I in JOINED or RESYNC, an ANNOUNCE is offered: it joins at the tail, or merges with one already
queued. In the other states nothing is offered. The model's own choices in it: notes/assumptions/3.md, notes/assumptions/29.md. -/
def Obligations.AnnounceFallsDue : Prop :=
  ∀ s : State,
    (s.station.state = .joined ∨ s.station.state = .resync →
        s.cfg.interval ≤ s.table.peers[s.cfg.address].age →
        exec .announceDue s
          = .next { s with
              sched := { s.sched with
                queue :=
                  if holds s.sched.queue .announce = true then s.sched.queue
                  else s.sched.queue ++ [{ request := .announce, onWire := false, cancel := false }] } })
      ∧ (s.station.state ≠ .joined → s.station.state ≠ .resync → exec .announceDue s = .next s)

/-- The end of an open join window: the station enters JOINED, with cause EARLY where the cycle was quiet and the own ROLLCALL committed
in an earlier one, and WINDOW otherwise. The window items return to their reset values, a queued ROLLCALL leaves, the ANNOUNCE is offered,
and JOINED is posted; plan, peer table, timer, lines, engine and drive table are unchanged. That the row given by itself brings nothing else of
its SYNC edge, so that the stamp is the cycle counter as it stands, is the model's choice: notes/assumptions/29.md. Its other choices here:
notes/assumptions/3.md. -/
def Obligations.JoinWindowEndEntersJoined : Prop :=
  ∀ s : State, (s.station.state = .listen ∨ s.station.state = .resync) → s.station.opened = true →
    ∃ t cause, exec .joinWindowEnd s = .next t
      ∧ (s.station.traffic = false → s.station.rollcall = .earlier → cause = .early)
      ∧ ((s.station.traffic = true ∨ s.station.rollcall ≠ .earlier) → cause = .window)
      ∧ t = { s with
          station := { s.station with
            state := .joined, cause := cause, opened := false, count := 0, traffic := false, rollcall := .none }
          sched := { s.sched with queue := t.sched.queue }
          channels := t.channels
          port := s.port.post ⟨.joined, .cause cause, s.timer.cycleCounter⟩ }
      ∧ holds t.sched.queue .announce = true
      ∧ (∀ e ∈ t.sched.queue, e.request = .rollcall → e.onWire = true ∧ e.cancel = true)
      ∧ ∀ c : ChannelId, s.channels[c].state ≠ .waiting → t.channels[c] = s.channels[c]

/-! ## Slots, the guard window and the SYNC pulse (R49 to R58, R123) -/

/-- At a slot start every output is set for the new slot: on exactly where its entry covers the slot and, in the last slot of a span with
a fraction, the dither index stands among the first entries of the dither order. The slot index advances by one at the boundary where local
cycle time stands below it, and the drive table, the plan, the queue, the channels, the station and the port are unchanged. After slot 63 no
slot starts before the edge. The model's own choices in it: notes/assumptions/3.md, notes/assumptions/8.md. -/
def Obligations.SlotStartSetsTheOutputs : Prop :=
  ∀ s : State, s.timer.running = true → s.fallWaits = false →
    let boundary := (s.timer.slotIndex.val + 1) * (s.cfg.slotCode * 4000)
    (s.timer.slotIndex.val < 63 →
      ∃ t, exec .slotStart s = .next t
        ∧ t.timer.slotIndex.val = s.timer.slotIndex.val + 1
        ∧ t.timer.localTime = max s.timer.localTime boundary
        ∧ t.timer.cycleCounter = s.timer.cycleCounter ∧ t.timer.syncAcquired = s.timer.syncAcquired
        ∧ t.drive.table = s.drive.table
        ∧ (∀ c : ChannelId, t.drive.outputs[c] = true ↔
            ∃ e, s.drive.table[c] = some e
              ∧ (t.timer.slotIndex.val + 64 - e.start.val) % 64 < e.length
              ∧ (t.timer.slotIndex.val ≠ (e.start.val + e.length - 1) % 64 ∨ e.fraction = 0
                  ∨ s.timer.cycleCounter.toNat % 8 ∈ [0, 4, 2, 6, 1, 5, 3, 7].take e.fraction))
        ∧ t = { s with timer := t.timer, drive := t.drive, lines := t.lines, engine := t.engine })
      ∧ (s.timer.slotIndex.val = 63 → exec .slotStart s = .next s)

/-- From the start of the guard window until the next valid edge the station starts no message: local cycle time stands at the cycle
length less 400 bit times or beyond, and no opportunity exists. Only time passes. The model's own choices in it:
notes/assumptions/3.md. -/
def Obligations.GuardWindowBarsNewMessages : Prop :=
  ∀ s : State, s.timer.running = true → s.fallWaits = false →
    ∃ t, exec .guardWindow s = .next t
      ∧ s.TimePasses t
      ∧ t.timer.localTime = max s.timer.localTime (s.cycleLength - 400 * bitPeriods s.cfg.rateCode.val)
      ∧ (∀ gap, t.opportunity gap = false)
      ∧ exec .startOfFrame t = .next t

/-- A station with sync-acquired set, outside its own pulse, drives SYNC when its cycle has run its length and SYNC has been high for
16 bit times; without sync-acquired, or outside the attached states, it never does. The pulse is 8 bit times long: the driver is released
then, and where no other station holds the line it is high. The fall that the pulse makes is taken before any time passes: each
command at which time passes acts as on the state that the edge leaves. The model's own choices in it: notes/assumptions/3.md,
notes/assumptions/6.md. -/
def Obligations.SyncPulseEndsTheCycle : Prop :=
  ∀ s : State,
    let bit := bitPeriods s.cfg.rateCode.val
    (s.station.state.attached = true → s.timer.running = true → s.timer.syncAcquired = true →
      s.lines.syncDriving = false →
        ∃ u, s.TimePasses u
          ∧ exec .syncPulse s = .next { u with lines := { u.lines with syncDriving := true, pulseTime := 0 } }
          ∧ s.cycleLength ≤ u.timer.localTime ∧ u.lines.syncLow = false ∧ 16 * bit ≤ u.lines.syncHighTime)
      ∧ (s.timer.syncAcquired = false ∨ s.station.state.attached = false →
          s.fallWaits = false → exec .syncPulse s = .next s)
      ∧ (s.lines.syncDriving = true → s.lines.syncLow = true →
        ∃ t, exec .syncPulseRelease s = .next t
          ∧ t.lines.syncDriving = false ∧ t.lines.pulseTime = 0
          ∧ (t.lines.syncLow = true ↔ 8 * bit - s.lines.pulseTime < s.lines.syncHold)
          ∧ (s.timer.running = true →
              t.timer.localTime = s.timer.localTime + (8 * bit - s.lines.pulseTime))
          ∧ s.TimePasses { t with lines := { t.lines with syncDriving := true } })
      ∧ (s.fallWaits = true →
        ∃ u, exec (.syncEdge 0 EdgePart.usualOrder) s = .next u ∧ u.lines.syncLow = true
          ∧ ∀ c : Instr, c.takesTime = true → exec c s = exec c u)

/-- Two cycle lengths without a valid edge: sync-acquired is set, the slot index is 63, and the station drives SYNC at the same instant
where the line has been high for 16 bit times. The model's own choices in it: notes/assumptions/3.md. -/
def Obligations.TwoCyclesWithoutAnEdgeAcquireSync : Prop :=
  ∀ s : State,
    s.station.state.attached = true → s.timer.running = true → s.timer.syncAcquired = false →
    s.lines.syncDriving = false →
      ∃ u t, s.TimePasses u ∧ exec .syncAcquired s = .next t
        ∧ t = { u with timer := { u.timer with syncAcquired := true }, lines := t.lines }
        ∧ u.timer.localTime = max s.timer.localTime (2 * s.cycleLength)
        ∧ (1 ≤ s.cfg.slotCode → u.timer.slotIndex.val = 63)
        ∧ (u.lines.syncLow = false → 16 * bitPeriods s.cfg.rateCode.val ≤ u.lines.syncHighTime →
            t.lines = { u.lines with syncDriving := true, pulseTime := 0 })
        ∧ (u.lines.syncLow = true ∨ u.lines.syncHighTime < 16 * bitPeriods s.cfg.rateCode.val →
            t.lines = u.lines)
        ∧ (s.lines.syncLow = false →
            u.lines.syncHighTime = s.lines.syncHighTime + (2 * s.cycleLength - s.timer.localTime))

/-! ## Fault and recovery (R59, R60, R83, R146, R147) -/

/-- A line that stays low or dominant until its measure exceeds its limit sends a station in an attached state to FAULT: plan and peer
table emptied, the timer stopped with its counter kept, both drivers released, the engine OFF, the queue emptied, every span removed with
targets and flags kept, every output off, and FAULT posted last with the cause. On a line that is high or recessive, and in UNCONFIGURED,
FAULT and HALT, there is no report. The model's own choices in it: notes/assumptions/3.md, notes/assumptions/8.md. -/
def Obligations.StuckLinesEnterFault : Prop :=
  ∀ s : State, s.fallWaits = false →
    let faulted (cause : Cause) (t : State) : Prop :=
      t.station
          = { s.station with
              state := .fault, cause := cause, opened := false, count := 0, traffic := false, rollcall := .none }
        ∧ t.table = .reset
        ∧ t.timer = { s.timer with running := false, localTime := 0, slotIndex := 0, syncAcquired := false }
        ∧ t.lines.syncDriving = false ∧ t.lines.dataDriving = false ∧ t.lines.idleTime = 0
        ∧ t.engine.framing = .off ∧ t.engine.ending = none ∧ t.engine.frame = none ∧ t.engine.transmission = .none
        ∧ t.engine.request = none
        ∧ t.sched = .reset ∧ t.drive = .reset
        ∧ (∀ c : ChannelId, t.channels[c]
            = if s.channels[c].state = .unused then s.channels[c]
              else { s.channels[c] with
                span := none, held := 0, state := if s.channels[c].target = 0 then .idle else .waiting })
        ∧ t.port = s.port.post ⟨.fault, .cause cause, s.timer.cycleCounter⟩
        ∧ t.cfg = s.cfg ∧ t.inputs = s.inputs ∧ t.pending = s.pending
    let bit := bitPeriods s.cfg.rateCode.val
    (s.station.state.attached = true →
        (s.lines.syncLow = true →
            ∃ t, exec .syncStuck s = .next t ∧ faulted .syncStuck t
              ∧ t.lines.syncLow = true ∧ 64 * bit < t.lines.syncLowTime)
          ∧ (s.lines.dataDominant = true →
            ∃ t, exec .dataStuck s = .next t ∧ faulted .dataStuck t
              ∧ t.lines.dataDominant = true ∧ 128 * bit < t.lines.dominantTime))
      ∧ (s.station.state.attached = false ∨ s.lines.syncLow = false → exec .syncStuck s = .next s)
      ∧ (s.station.state.attached = false ∨ s.lines.dataDominant = false → exec .dataStuck s = .next s)

/-- Idle lines end FAULT: the station enters LISTEN with cause RECOVERY, the timer starts from 0 with the counter at 0, the engine waits
for an edge, a ROLLCALL is queued, channels and targets stand, and FAULT_CLEARED is posted with stamp 0. Outside FAULT the report is
discarded. The model's own choices in it: notes/assumptions/3.md, notes/assumptions/8.md. -/
def Obligations.IdleLinesRecoverFromFault : Prop :=
  ∀ s : State, s.fallWaits = false →
    (s.station.state = .fault → s.DetachedIdle →
        ∃ t, exec .linesIdle s = .next t
          ∧ t.station
              = { s.station with
                  state := .listen, cause := .recovery, opened := false, count := 0, traffic := false, rollcall := .none }
          ∧ t.timer
              = { running := true, localTime := 0, slotIndex := 0, cycleCounter := 0, syncAcquired := false }
          ∧ t.table = .reset
          ∧ t.engine.framing = .awaitSync ∧ t.engine.ending = none ∧ t.engine.frame = none
          ∧ t.sched = { s.sched with queue := [{ request := .rollcall, onWire := false, cancel := false }] }
          ∧ t.lines.syncLow = false ∧ t.lines.dataDominant = false
          ∧ t.port = s.port.post ⟨.faultCleared, .address s.cfg.address, 0⟩
          ∧ t.channels = s.channels ∧ t.drive = s.drive ∧ t.cfg = s.cfg ∧ t.inputs = s.inputs
          ∧ t.pending = s.pending)
      ∧ (s.station.state ≠ .fault → exec .linesIdle s = .next s)

/-! ## Framing, selection and composition (R64 to R66, R89 to R95) -/

/-- A fall of DATA is a start of frame in IDLE, restarts the recessive measure in GAP, sets the alignment of the bit times in a message and in
its END, and is ignored by the framing in the other states; it restarts the dominant measure and the lines-idle measure in all of them. Where
the line is still dominant, the time passes first in which other stations release it; within this station's own pull there is no fall, and the
line is held for longer. In GAP the state becomes IDLE once the measure has reached 3 bit times: of a measure that goes on from where it stands,
or from the rise of a dominant line, and, where a bit of END reads dominant, from the end of END if DATA is recessive then. A station that may
join the start of frame is not meant here. The model's own choices in it: notes/assumptions/3.md, notes/assumptions/6.md,
notes/assumptions/8.md, and, in that END's bits read dominant at their middles and are aligned to a fall, notes/assumptions/25.md. -/
def Obligations.FramingFollowsData : Prop :=
  ∀ (hold : Nat) (s : State), s.fallWaits = false →
    let lines := { s.lines with dataDominant := true, dominantTime := 0, dataHold := hold, idleTime := 0 }
    let bit := bitPeriods s.cfg.rateCode.val
    (s.lines.dataDominant = false →
        (s.engine.framing = .idle → s.opportunity Config.joinGapBits = false →
            exec (.dataFall hold) s
              = .next { s with
                  lines := lines
                  engine := { s.engine with
                    framing := .frame, frame := some { read := [], elapsed := 0 }, accumulator := 0xFF
                    objection := none, verdict := none } })
          ∧ (s.engine.framing = .gap →
            exec (.dataFall hold) s
              = .next { s with
                  lines := lines
                  engine := { s.engine with
                    recessiveTime := 0
                    ending := s.engine.ending.bind fun r =>
                      if 3 ≤ (r.elapsed + bit / 2) / bit then none
                      else some { r with elapsed := (r.elapsed + bit / 2) / bit * bit } } })
          ∧ (s.engine.framing = .frame →
            exec (.dataFall hold) s
              = .next { s with
                  lines := lines
                  engine := { s.engine with
                    frame := s.engine.frame.map fun f =>
                      { f with elapsed := (f.elapsed + bit / 2) / bit * bit } } })
          ∧ (s.engine.framing = .off ∨ s.engine.framing = .awaitSync →
            exec (.dataFall hold) s = .next { s with lines := lines }))
      ∧ (s.lines.dataDominant = true →
        ∃ u, s.TimePasses u
          ∧ (u.lines.dataDominant = false → exec (.dataFall hold) s = exec (.dataFall hold) u)
          ∧ (u.lines.dataDominant = true →
              exec (.dataFall hold) s
                = .next { u with lines := { u.lines with dataHold := max u.lines.dataHold hold } })
          ∧ (s.engine.frame = none → u.lines.dataDominant = false))
      ∧ (s.engine.framing = .gap → s.engine.frame = none →
        ∃ u, s.TimePasses u ∧ 3 * bit ≤ u.engine.recessiveTime
          ∧ exec .framingIdle s = .next { u with engine := { u.engine with framing := .idle, ending := none } }
          ∧ (s.timer.running = true →
              let passes (d : Nat) : Prop := u.timer.localTime = s.timer.localTime + d
              let held := if s.lines.dataDominant then s.lines.dataHold else 0
              let counted := passes
                (if s.lines.dataDominant then s.lines.dataHold + 3 * bit else 3 * bit - s.engine.recessiveTime)
              (s.engine.ending = none → counted)
                ∧ ∀ r, s.engine.ending = some r → r.elapsed < 3 * bit →
                  let readsDominant := r.dominant = true
                    ∨ ∃ i < 3, r.elapsed < i * bit + bit / 2 ∧ i * bit + bit / 2 < r.elapsed + held
                  (readsDominant → passes (max (3 * bit - r.elapsed) held + 3 * bit))
                    ∧ (¬readsDominant → counted)))
      ∧ (s.engine.framing ≠ .gap → exec .framingIdle s = .next s)

/-- At an opportunity the queued ANNOUNCE goes first, with the own holdings of the plan in ascending channel order, and with none in
LEAVING; with no ANNOUNCE the RELEASE nearest the head goes, and in LISTEN the ROLLCALL. The entry on the wire is marked, the composed
record states the message, DATA is driven and a frame opens: as time passes the station pulls DATA at the dominant bits of the message, from
its SOF on, and at no other. Plan, drive table, station, port and every channel but the one concerned are unchanged. The model's own choices in it: notes/assumptions/3.md and, in the clause that dataHold is 0, so that at an own SOF no other station
pulls, notes/assumptions/6.md. -/
def Obligations.SelectionSendsTheMostUrgentRequest : Prop :=
  ∀ s : State, s.opportunity Config.idleGapBits = true → s.lines.dataDominant = false → s.fallWaits = false →
    let own : BitVec 5 := BitVec.ofNat 5 s.cfg.address.val
    let sends (r : Request) (m : Message) (channels : Vector Channel 12) : Prop :=
      ∃ t, exec .startOfFrame s = .next t
        ∧ t.sched
            = { s.sched with
                queue := s.sched.queue.map fun e => if e.request = r then { e with onWire := true } else e
                composed := some { request := r, message := m, target := 0, station := s.station.state } }
        ∧ t.engine.transmission = .driving ∧ t.engine.request = some r ∧ t.engine.framing = .frame
        ∧ t.engine.frame = some { read := [], elapsed := 0 } ∧ t.engine.accumulator = 0xFF
        ∧ t.lines = { s.lines with
            dataDriving := true, dataDominant := true, dominantTime := 0, dataHold := 0, idleTime := 0 }
        ∧ t = { s with lines := t.lines, engine := t.engine, sched := t.sched, channels := channels }
        ∧ t.PullsAt fun i => m.wire[i]? = some false
    (holds s.sched.queue .announce = true →
        s.station.state = .joined ∨ s.station.state = .resync ∨ s.station.state = .leaving →
        sends .announce
          (.announce own s.cfg.digest s.timer.cycleCounter
            (if s.station.state = .leaving then []
              else (s.table.holdingsOf s.cfg.address).map fun h =>
                { channel := BitVec.ofNat 4 h.channel.val, start := BitVec.ofNat 6 h.start.val
                  lengthLess1 := BitVec.ofNat 6 (h.length - 1), rating := BitVec.ofNat 10 h.rating }))
          s.channels)
      ∧ (∀ (c : ChannelId) (before after : List QueueEntry) (e : QueueEntry),
        holds s.sched.queue .announce = false → s.station.state = .joined ∨ s.station.state = .resync →
        s.sched.queue = before ++ e :: after → e.request = .release c →
        (∀ d ∈ before, ∀ b : ChannelId, d.request ≠ .release b) →
        sends (.release c) (.release own (BitVec.ofNat 4 c.val))
          (s.channels.set c { s.channels[c] with state := .inFlight }))
      ∧ (s.station.state = .listen → holds s.sched.queue .rollcall = true →
        sends .rollcall (.rollcall own) s.channels)

/-- At an opportunity in JOINED or RESYNC with neither an ANNOUNCE nor a RELEASE queued. In JOINED the CLAIMs are tried from the head: each for
which the Placement Engine finds no start is withdrawn, and its channel is STARVED with its holding kept, its flag set and CHANNEL_STARVED
posted, one after the other; the first for which it finds one goes out, with the span of ⌈target / 8⌉ slots there and the channel's rating,
and its channel is IN_FLIGHT. In RESYNC none is tried. Where no CLAIM goes out a queued ROLLCALL does, and without one nothing starts. The
entries behind keep their places. As time passes the station pulls DATA at the dominant bits of the message that goes out and at no other. The
model's own choices in it: notes/assumptions/3.md and, in the clause that dataHold is 0, notes/assumptions/6.md. -/
def Obligations.ClaimsArePlacedOrStarve : Prop :=
  ∀ s : State,
    s.opportunity Config.idleGapBits = true → s.lines.dataDominant = false → s.fallWaits = false →
    s.station.state = .joined ∨ s.station.state = .resync →
    holds s.sched.queue .announce = false → (∀ e ∈ s.sched.queue, ∀ b : ChannelId, e.request ≠ .release b) →
    (∀ e ∈ s.sched.queue, e.onWire = false) →
      let own : BitVec 5 := BitVec.ofNat 5 s.cfg.address.val
      let tried : List ChannelId :=
        if s.station.state = .joined then
          s.sched.queue.filterMap fun e => match e.request with
            | .claim d => some d
            | .announce | .release _ | .rollcall => none
        else []
      let placed (d : ChannelId) : Option Slot :=
        s.table.place s.cfg.budget s.cfg.address d ((s.channels[d].target + 7) / 8) s.channels[d].rating
      let left (starved : List ChannelId) : List QueueEntry :=
        s.sched.queue.filter fun e => starved.all fun d => e.request != .claim d
      let runs (starved : List ChannelId) (sent : Option ChannelId) (t : State) : Prop :=
        exec .startOfFrame s = .next t
          ∧ (∀ d : ChannelId, t.channels[d]
              = if d ∈ starved then { s.channels[d] with state := .starved, starved := true }
                else if sent = some d then { s.channels[d] with state := .inFlight }
                else s.channels[d])
          ∧ t.port
              = starved.foldl (fun p d => p.post ⟨.channelStarved, .channel d, s.timer.cycleCounter⟩) s.port
          ∧ t = { s with
              lines := t.lines, engine := t.engine, sched := t.sched, channels := t.channels, port := t.port }
      let sends (starved : List ChannelId) (k : Composed) (t : State) : Prop :=
        t.sched
            = { s.sched with
                queue := (left starved).map fun e => if e.request = k.request then { e with onWire := true } else e
                composed := some k }
          ∧ t.engine.transmission = .driving ∧ t.engine.request = some k.request ∧ t.engine.framing = .frame
          ∧ t.engine.frame = some { read := [], elapsed := 0 }
          ∧ t.lines = { s.lines with
              dataDriving := true, dataDominant := true, dominantTime := 0, dataHold := 0, idleTime := 0 }
          ∧ t.PullsAt fun i => k.message.wire[i]? = some false
      (∀ (starved : List ChannelId) (c : ChannelId) (after : List ChannelId) (start : Slot),
          tried = starved ++ c :: after → (∀ d ∈ starved, placed d = none) → placed c = some start →
          ∃ t, runs starved (some c) t
            ∧ sends starved
                { request := .claim c, target := s.channels[c].target, station := s.station.state
                  message := .claim own
                    { channel := BitVec.ofNat 4 c.val, start := BitVec.ofNat 6 start.val
                      lengthLess1 := BitVec.ofNat 6 ((s.channels[c].target + 7) / 8 - 1)
                      rating := BitVec.ofNat 10 s.channels[c].rating } }
                t)
        ∧ ((∀ d ∈ tried, placed d = none) →
          (holds s.sched.queue .rollcall = true →
            ∃ t, runs tried none t
              ∧ sends tried { request := .rollcall, message := .rollcall own, target := 0, station := s.station.state } t)
          ∧ (holds s.sched.queue .rollcall = false →
            ∃ t, runs tried none t ∧ t.sched = { s.sched with queue := left tried } ∧ t.engine = s.engine
              ∧ t.lines = s.lines))

/-- A fall of DATA by another station, at 9 bit times of the recessive measure and with the other conditions of an opportunity: the station
takes it as its own SOF and drives the message that selection gives, from the first KIND bit onward and not before, so that it pulls DATA at
that message's dominant bits behind the SOF and at no other; with nothing to send it
receives, and a CLAIM that finds no fit starves as selection has it. The two rows differ in how long other stations pull alone: for one bit
time, or as the fall's operand says. A station without these conditions at 9 bit times receives the fall. The model's own choices in it:
notes/assumptions/3.md, notes/assumptions/6.md and, of a fall at 10 bit times or more, which it joins too, notes/assumptions/26.md. -/
def Obligations.StationsJoinAStartOfFrame : Prop :=
  ∀ (hold : Nat) (s : State), s.engine.framing = .idle → s.lines.dataDominant = false → s.fallWaits = false →
    let lines (hold : Nat) := { s.lines with dataDominant := true, dominantTime := 0, dataHold := hold, idleTime := 0 }
    let engine := { s.engine with
      framing := .frame, frame := some { read := [], elapsed := 0 }, accumulator := 0xFF, objection := none
      verdict := none }
    let joined (k : Composed) (hold : Nat) (t : State) : Prop :=
      t.engine = { engine with transmission := .driving, request := some k.request }
        ∧ t.lines = { lines hold with dataDriving := false }
        ∧ t.sched.composed = some k
        ∧ t = { s with
            engine := t.engine, lines := t.lines, sched := t.sched, channels := t.channels, port := t.port }
        ∧ (∀ d : Nat, (advance d t).lines.dataDriving = true ↔ bitPeriods s.cfg.rateCode.val ≤ d)
        ∧ t.PullsAt fun i => 1 ≤ i ∧ k.message.wire[i]? = some false
    (∀ k, s.opportunity Config.joinGapBits = true → (selectMessage s).2 = some k →
        (∃ t, exec .joinStartOfFrame s = .next t ∧ joined k (bitPeriods s.cfg.rateCode.val) t)
          ∧ ∃ t, exec (.dataFall hold) s = .next t ∧ joined k hold t)
      ∧ (s.opportunity Config.joinGapBits = true → (selectMessage s).2 = none →
        exec .joinStartOfFrame s
            = .next { (selectMessage s).1 with lines := lines (bitPeriods s.cfg.rateCode.val), engine := engine }
          ∧ exec (.dataFall hold) s = .next { (selectMessage s).1 with lines := lines hold, engine := engine })
      ∧ (s.engine.frame = none → (advanceToGap Config.joinGapBits s).opportunity Config.joinGapBits = true →
        exec .joinStartOfFrame s = exec .joinStartOfFrame (advanceToGap Config.joinGapBits s))
      ∧ (s.timer.syncAcquired = false ∨ s.inGuard = true ∨ s.engine.transmission ≠ .none →
        s.inGuard = (advanceToGap Config.joinGapBits s).inGuard →
        exec .joinStartOfFrame s
          = .next { s with lines := lines (bitPeriods s.cfg.rateCode.val), engine := engine })

/-! ## The outcomes of an attempt (R68, R70, R74, R96, R97) -/

/-- A lost attempt: DATA is released, no own message is on the wire, and the station frames on as a receiver. The void counter, the port,
the plan, the drive table and the station are unchanged; the request stays in its place with its mark cleared, and a channel whose CLAIM or
RELEASE is still needed is QUEUED again. A mismatch after SENDER releases DATA and leaves the outcome open. After either the station pulls
DATA for its own objection alone. The model's own choices in it:
notes/assumptions/9.md. -/
def Obligations.LostAttemptsStayQueued : Prop :=
  ∀ s : State, s.engine.transmission = .driving →
    (∃ t, exec .attemptLost s = .next t
        ∧ t.engine = { s.engine with transmission := .none, request := none }
        ∧ t.lines = { s.lines with dataDriving := false }
        ∧ t.sched = { s.sched with queue := t.sched.queue, composed := none }
        ∧ t = { s with engine := t.engine, lines := t.lines, sched := t.sched, channels := t.channels }
        ∧ (t.pullsData = true → s.engine.objection = some .object)
        ∧ (s.engine.request = some .announce ∨ s.engine.request = some .rollcall →
            t.channels = s.channels
              ∧ t.sched.queue
                  = s.sched.queue.filterMap fun e =>
                      if e.onWire && e.cancel then none else some { e with onWire := false })
        ∧ ∀ (c : ChannelId) (r : Request) (before after : List QueueEntry),
            s.engine.request = some r → s.channels[c].state = .inFlight →
            (r = .claim c ∧ s.channels[c].needsClaim = true ∨ r = .release c ∧ s.channels[c].needsRelease = true) →
            s.sched.queue = before ++ { request := r, onWire := true, cancel := false } :: after →
            (∀ e ∈ before ++ after, e.onWire = false) →
              t.channels = s.channels.set c { s.channels[c] with state := .queued }
                ∧ t.sched.queue = before ++ { request := r, onWire := false, cancel := false } :: after)
      ∧ ∃ t, exec .mismatchAfterSender s = .next t
        ∧ t = { s with
            lines := { s.lines with dataDriving := false }
            engine := { s.engine with transmission := .stopped } }
        ∧ (t.pullsData = true → s.engine.objection = some .object)

/-- An objected message is void: the frame ends in GAP with the measure at 0 and its verdicts gone, and plan, peer table and drive table
are unchanged. A receiver's queue, channels and port are unchanged, and the cycle is marked where a join window is open. The void counter of
the message's transmitter, stopped or not, advances by one below 8, and TX_OBJECTED with cause OBJECTED is posted when it reaches 8; a CLAIM or
RELEASE that is still needed stays queued in its place. Where a SYNC edge ends the frame after OBJECT, the report is made at the edge, before or
after any block's part of it: the stamp is that of the new cycle, and the mark that of the cycle in which it is taken. The model's own choices in it: notes/assumptions/3.md,
notes/assumptions/6.md, notes/assumptions/9.md, notes/assumptions/14.md. -/
def Obligations.ObjectedMessagesAreVoid : Prop :=
  ∀ (m : Message) (check : BitVec 8) (s : State), s.engine.framing = .frame →
    let bit := bitPeriods s.cfg.rateCode.val
    let own := ∃ k, s.sched.composed = some k ∧ s.engine.transmission ≠ .none
      ∧ k.message.kindBits = m.kindBits ∧ k.message.sender = m.sender
    let voids := if s.sched.voids < 8 then s.sched.voids + 1 else s.sched.voids
    let told (stamp : BitVec 16) := if s.sched.voids = 7 then
        s.port.post ⟨.txObjected, .cause .objected, stamp⟩
      else s.port
    (s.fallWaits = false →
      ∃ u t, exec (.messageObjected m check) s = .next t
        ∧ s.TimePasses u
        ∧ t = { u with
            engine := t.engine, lines := t.lines, station := t.station, sched := t.sched, channels := t.channels
            port := t.port }
        ∧ t.engine.framing = .gap ∧ t.engine.recessiveTime = 0 ∧ t.engine.ending = some { elapsed := 0, dominant := false }
        ∧ t.engine.frame = none ∧ t.engine.verdict = none ∧ t.engine.objection = none ∧ t.engine.transmission = .none ∧ t.lines.dataDriving = false
        ∧ t.station = { s.station with traffic := s.station.traffic || s.windowOpen }
        ∧ (s.engine.transmission = .none →
            t.sched = s.sched ∧ t.channels = s.channels ∧ t.port = s.port)
        ∧ (own → t.sched.voids = voids ∧ t.sched.composed = none ∧ t.port = told s.timer.cycleCounter
            ∧ (s.engine.request = some .announce ∨ s.engine.request = some .rollcall →
                t.channels = s.channels
                  ∧ t.sched.queue
                      = s.sched.queue.filterMap fun e =>
                          if e.onWire && e.cancel then none else some { e with onWire := false })
            ∧ ∀ (c : ChannelId) (r : Request) (before after : List QueueEntry),
                s.engine.request = some r → s.channels[c].state = .inFlight →
                (r = .claim c ∧ s.channels[c].needsClaim = true
                  ∨ r = .release c ∧ s.channels[c].needsRelease = true) →
                s.sched.queue = before ++ { request := r, onWire := true, cancel := false } :: after →
                (∀ e ∈ before ++ after, e.onWire = false) →
                  t.channels = s.channels.set c { s.channels[c] with state := .queued }
                    ∧ t.sched.queue = before ++ { request := r, onWire := false, cancel := false } :: after))
      ∧ ∀ (hold : Nat) (order : List EdgePart),
        s.timer.running = true → s.station.state ≠ .unconfigured →
        (s.lines.syncDriving = true → s.lines.syncLow = false ∧ 16 * bit ≤ s.lines.syncHighTime
          ∧ ∃ f, s.engine.frame = some f ∧ m.objectPosition * bit + bit / 2 ≤ f.elapsed) →
        EdgePart.orderAllowed order = true → EdgePart.outcomeIn order = some (.objected m check) →
          ∃ t, exec (.syncEdge hold order) s = .next t
            ∧ t.timer.cycleCounter = s.timer.cycleCounter + 1 ∧ t.timer.localTime = 0
            ∧ t.engine.framing = .gap ∧ t.engine.ending = none ∧ t.engine.frame = none ∧ t.engine.transmission = .none
            ∧ (own → s.station.state = .joined ∨ s.station.state = .leaving →
                (∀ a : Address, s.table.peers[a].present = true →
                  s.table.peers[a].age + 1 < 3 * s.cfg.interval) →
                s.table.WithinBudget s.cfg.budget →
                t.sched.voids = voids ∧ t.sched.composed = none ∧ t.port = told (s.timer.cycleCounter + 1))
            ∧ (s.windowOpen = true → s.station.count + 1 < 3 * s.cfg.interval → s.station.rollcall ≠ .earlier →
                t.station.state = s.station.state
                  ∧ (t.station.traffic = true
                    ↔ order.idxOf .stationController < order.idxOf .stationReport))

/-- At the REFUSE bit of another station's acceptable CLAIM a receiver in JOINED, LEAVING or QUIET forms its verdict: it refuses where the
sender is ABSENT or where, in some slot of the span, the sum less the sender's old holding for the channel plus the rating exceeds the
budget, and admits otherwise. On refuse it pulls DATA in JOINED and LEAVING, at the REFUSE bit and at no other; in LISTEN and RESYNC it forms no
verdict and does not pull. That the DATA driver item (lines.dataDriving) is DRIVING from a refuse on, where the station pulls, is the model's
choice: notes/assumptions/27.md. Its other choices in it: notes/assumptions/3.md, notes/assumptions/9.md. -/
def Obligations.ReceiversJudgeClaims : Prop :=
  ∀ (sender : BitVec 5) (c : ChannelId) (e : WireEntry) (s : State),
    s.engine.framing = .frame → s.engine.transmission = .none → s.fallWaits = false →
    sender ≠ BitVec.ofNat 5 s.cfg.address.val → e.channel = BitVec.ofNat 4 c.val → e.rating ≠ 0 →
      let exceeds : Prop := ∃ k : Slot,
        (k.val + 64 - e.start.toNat) % 64 < e.lengthLess1.toNat + 1
          ∧ s.cfg.budget
              < s.table.sums[k]
                  - (match s.table.find (addressOf sender) c with
                      | some h => if h.covers k then h.rating else 0
                      | none => 0)
                  + e.rating.toNat
      let refuses : Prop := s.table.peers[addressOf sender].present = false ∨ exceeds
      ∃ u t, exec (.refuseBit sender e) s = .next t
        ∧ s.TimePasses u
        ∧ t = { u with
            lines := { u.lines with dataDriving := t.lines.dataDriving }
            engine := { u.engine with
              frame := t.engine.frame, accumulator := (Message.claim sender e).check, objection := some .pass
              verdict := t.engine.verdict } }
        ∧ t.engine.frame = s.engine.frame.map (fun f =>
            { read := (Message.claim sender e).read (Message.claim sender e).check ++ [true]
              elapsed := max f.elapsed (43 * bitPeriods s.cfg.rateCode.val) })
        ∧ t.PullsAt (fun i => i = 43 ∧ t.lines.dataDriving = true)
        ∧ (s.station.state = .joined ∨ s.station.state = .leaving →
            (refuses → t.engine.verdict = some .refuses ∧ t.lines.dataDriving = true)
              ∧ (¬refuses → t.engine.verdict = some .admits ∧ t.lines.dataDriving = s.lines.dataDriving))
        ∧ (s.station.state = .quiet →
            (refuses → t.engine.verdict = some .refuses) ∧ (¬refuses → t.engine.verdict = some .admits)
              ∧ t.lines.dataDriving = s.lines.dataDriving)
        ∧ (s.station.state = .listen ∨ s.station.state = .resync →
            t.engine.verdict = none ∧ t.lines.dataDriving = s.lines.dataDriving)

/-! ## Objection and commits (R9 to R16, R31, R40, R43, R44, R72, R76 to R80, R98, R99, R110, R111) -/

/-- The own objection to a message is object exactly on the grounds of R72: CHECK differs from the accumulator, COUNT is above 12, a CHANNEL
is above 11, a RATING is 0, or two entries carry the same channel. It is formed as the message is read, level by level from the SOF to the
end of CHECK: the levels make up the frame record, the bits of KIND, SENDER and payload the accumulator, and no objection is formed before
the last bit of CHECK. The accumulator starts at all ones and takes each bit by the generator x⁸ + x² + x + 1. A station that is not DRIVING
the message pulls OBJECT, and no other bit as time passes, exactly where its own objection is object. That the DATA driver item stays
RELEASED through that pull is the model's choice: notes/assumptions/27.md. -/
def Obligations.ObjectionHasFiveGrounds : Prop :=
  ∀ (m : Message) (check : BitVec 8),
    (m.objection check = .object ↔
      check ≠ crc m.checkedBits
        ∨ match m with
          | .announce _ _ _ entries =>
              12 < entries.length ∨ (∃ e ∈ entries, 11 < e.channel.toNat) ∨ (∃ e ∈ entries, e.rating = 0)
                ∨ ¬(entries.map WireEntry.channel).Nodup
          | .release _ channel => 11 < channel.toNat
          | .claim _ e => 11 < e.channel.toNat ∨ e.rating = 0
          | .rollcall _ => False)
      ∧ (crc [] = 0xFF ∧ ∀ (bits : List Bool) (bit : Bool),
          crc (bits ++ [bit])
            = if bit = (crc bits).getLsbD 7 then crc bits <<< 1 else (crc bits <<< 1) ^^^ 0x07)
      ∧ (m.fitsLayout = true → ∀ e : MessageEngine,
          e.frame = some { read := [], elapsed := 0 } → e.accumulator = 0xFF → e.objection = none →
            let read (n : Nat) := ((m.read check).take n).foldl MessageEngine.readLevel e
            (read (m.read check).length
                = { e with
                    frame := some { read := m.read check, elapsed := 0 }, accumulator := crc m.checkedBits
                    objection := some (m.objection check) })
              ∧ ∀ n, n < (m.read check).length → (read n).objection = none)
      ∧ (m.fitsLayout = true → ∀ s : State,
          s.engine.frame.map FrameRecord.read = some (m.read check) → s.engine.objection = some (m.objection check) →
          s.engine.transmission ≠ .driving → s.lines.dataDriving = false → s.lines.HoldsLawful →
            s.PullsAt (fun i => i = m.objectPosition ∧ m.objection check = .object)
              ∧ ∀ d : Nat, (advance d s).lines.dataDriving = false)

/-- A committed ANNOUNCE of another station, with the own digest: the sender's holdings become those of its entries and no other key
changes, where no slot is then over budget; its record becomes PRESENT with age 0 and the reported cycle age; PEER_ARRIVED is posted where
it was ABSENT; an open join window is marked. The frame ends in GAP. Where the sender lost coverage the freeing notice takes each STARVED
channel to QUEUED in JOINED, its CLAIM offered in ascending channel order, and to WAITING elsewhere; otherwise channels and queue stand. With a
slot over budget the plan, the drive table and the channels are what eviction leaves of the overwritten plan, with the notice after it. The
model's own choices in it: notes/assumptions/3.md, notes/assumptions/9.md. -/
def Obligations.CommittedAnnouncesReplaceTheSendersHoldings : Prop :=
  ∀ (sender : BitVec 5) (cycleAge : BitVec 16) (entries : List WireEntry) (s : State),
    s.engine.framing = .frame → s.engine.transmission = .none → s.fallWaits = false →
    sender ≠ BitVec.ofNat 5 s.cfg.address.val →
    entries.length ≤ 12 → (∀ e ∈ entries, e.channel.toNat ≤ 11 ∧ e.rating ≠ 0) →
    (entries.map WireEntry.channel).Nodup → s.table.Lawful →
      let covers (e : WireEntry) (k : Slot) : Prop := (k.val + 64 - e.start.toNat) % 64 < e.lengthLess1.toNat + 1
      let fits := ∀ k : Slot,
        ((s.table.plan.filter fun h => decide (h.owner ≠ addressOf sender) && h.covers k).map Holding.rating).sum
            + ((entries.filter fun e => decide (covers e k)).map fun e => e.rating.toNat).sum
          ≤ s.cfg.budget
      let lost := ∃ h ∈ s.table.plan, h.owner = addressOf sender
        ∧ ∀ e ∈ entries, e.channel.toNat = h.channel.val → ∃ k : Slot, h.covers k = true ∧ ¬covers e k
      let applied : State :=
        { s with
          table := (s.table.overwrite (addressOf sender) entries).setPeer (addressOf sender)
            { present := true, age := 0, cycleAge := cycleAge } }
      let freed (v t : State) : Prop :=
        (∀ c : ChannelId, t.channels[c]
            = if v.channels[c].state = .starved then
                { v.channels[c] with state := if s.station.state = .joined then .queued else .waiting }
              else v.channels[c])
          ∧ t.sched
              = { v.sched with
                  queue := if s.station.state = .joined then
                      ((List.finRange 12).filter fun c => v.channels[c].state == .starved).foldl
                        (fun q c => offerTo q (.claim c)) v.sched.queue
                    else v.sched.queue }
      ∃ u t, exec (.announceCommit sender s.cfg.digest cycleAge entries) s = .next t
        ∧ s.TimePasses u
        ∧ t = { u with
            table := t.table, port := t.port, station := t.station, engine := t.engine, channels := t.channels
            lines := { u.lines with dataDriving := false }, sched := t.sched, drive := t.drive }
        ∧ t.engine.framing = .gap ∧ t.engine.recessiveTime = 0 ∧ t.engine.ending = some { elapsed := 0, dominant := false }
        ∧ t.engine.frame = none ∧ t.engine.transmission = .none
        ∧ t.station = { s.station with traffic := s.station.traffic || s.windowOpen }
        ∧ t.table.peers
            = s.table.peers.set (addressOf sender) { present := true, age := 0, cycleAge := cycleAge }
        ∧ t.table = (evict applied).table ∧ t.drive.table = (evict applied).drive.table
        ∧ (lost ∨ (evict applied).table.plan.length < applied.table.plan.length → freed (evict applied) t)
        ∧ (fits →
            (∀ (owner : Address) (c : ChannelId), t.table.find owner c
                = if owner = addressOf sender then
                    (entries.find? fun e => e.channel == BitVec.ofNat 4 c.val).map fun e =>
                      { owner := owner, channel := c, start := slotOf e.start, length := e.lengthLess1.toNat + 1
                        rating := e.rating.toNat }
                  else s.table.find owner c)
              ∧ t.drive = u.drive
              ∧ (t.port
                  = if s.table.peers[addressOf sender].present then s.port
                    else s.port.post ⟨.peerArrived, .address (addressOf sender), s.timer.cycleCounter⟩)
              ∧ (lost → freed s t)
              ∧ (¬lost → t.channels = s.channels ∧ t.sched = s.sched))

/-- A CLAIM of another station that commits with no difference of verdicts. Refused, by another station or by this one's own pull, it leaves
the plan; admitted, with its sender PRESENT and its span fitting, it replaces the holding of its key and no other key changes; admitted with
its sender ABSENT, in LISTEN and RESYNC, it is ignored. No peer record, no event, no output and no station state changes with it. So it is
both with the verdict that the REFUSE bit has left and where no REFUSE bit was framed: in JOINED, LEAVING and QUIET the verdict formed at the
commit then stands for it, and in JOINED and LEAVING a refuse is its own pull. Where the replaced holding covered a slot that the new
one does not, the freeing notice takes each STARVED channel to QUEUED in JOINED, its CLAIM offered in ascending channel order, and to WAITING
elsewhere; otherwise channels and queue stand. The model's own choices in it: notes/assumptions/3.md, notes/assumptions/10.md,
notes/assumptions/11.md and, in that the driver item tells of the own pull, notes/assumptions/27.md. -/
def Obligations.CommittedClaimsReplaceTheirKey : Prop :=
  ∀ (sender : BitVec 5) (c : ChannelId) (e : WireEntry) (refused : Bool) (s : State),
    s.engine.framing = .frame → s.engine.transmission = .none → s.fallWaits = false →
    sender ≠ BitVec.ofNat 5 s.cfg.address.val → e.channel = BitVec.ofNat 4 c.val → e.rating ≠ 0 →
      let a := addressOf sender
      let unheard := s.station.state = .listen ∨ s.station.state = .resync
      let unchanged (t : State) : Prop := t.table = s.table ∧ t.channels = s.channels ∧ t.sched = s.sched
      let runs (t : State) : Prop :=
        ∃ u, s.TimePasses u
          ∧ t = { u with
              lines := { u.lines with dataDriving := false }, engine := t.engine, table := t.table
              channels := t.channels, sched := t.sched }
          ∧ t.engine.framing = .gap ∧ t.engine.recessiveTime = 0 ∧ t.engine.frame = none
          ∧ t.engine.ending = some { elapsed := 0, dominant := false }
          ∧ t.engine.verdict = none ∧ t.table.peers = s.table.peers
      let lost := ∃ h, s.table.find a c = some h
        ∧ ∃ k : Slot, h.covers k = true ∧ ¬(k.val + 64 - e.start.toNat) % 64 < e.lengthLess1.toNat + 1
      let pulling := s.station.state = .joined ∨ s.station.state = .leaving
      let refuses : Prop := s.table.peers[a].present = false
        ∨ ∃ k : Slot,
            (k.val + 64 - e.start.toNat) % 64 < e.lengthLess1.toNat + 1
              ∧ s.cfg.budget
                  < s.table.sums[k]
                      - (match s.table.find a c with
                          | some h => if h.covers k then h.rating else 0
                          | none => 0)
                      + e.rating.toNat
      (refused = true ∨ s.lines.dataDriving = true → unheard ∧ s.engine.verdict = none ∨ s.engine.verdict = some .refuses →
          ∃ t, exec (.claimCommit sender e refused) s = .next t ∧ runs t ∧ unchanged t)
        ∧ (s.engine.verdict = none → refuses →
          pulling ∨ s.station.state = .quiet ∧ (refused = true ∨ s.lines.dataDriving = true) →
          ∃ t, exec (.claimCommit sender e refused) s = .next t ∧ runs t ∧ unchanged t)
        ∧ (unheard → s.engine.verdict = none → refused = false → s.lines.dataDriving = false →
          s.table.peers[a].present = false →
          ∃ t, exec (.claimCommit sender e refused) s = .next t ∧ runs t ∧ unchanged t)
        ∧ (s.station.state.attached = true → s.engine.verdict = none ∨ s.engine.verdict = some .admits →
          refused = false → s.lines.dataDriving = false →
          s.table.Lawful → s.table.WithinBudget s.cfg.budget → s.table.peers[a].present = true →
          s.table.fits s.cfg.budget a c (slotOf e.start) (e.lengthLess1.toNat + 1) e.rating.toNat = true →
          ∃ t, exec (.claimCommit sender e refused) s = .next t ∧ runs t
            ∧ (∀ (owner : Address) (d : ChannelId), t.table.find owner d
                = if owner = a ∧ d = c then
                    some { owner := owner, channel := d, start := slotOf e.start, length := e.lengthLess1.toNat + 1
                           rating := e.rating.toNat }
                  else s.table.find owner d)
            ∧ (¬lost → t.channels = s.channels ∧ t.sched = s.sched)
            ∧ (lost →
                (∀ d : ChannelId, t.channels[d]
                    = if s.channels[d].state = .starved then
                        { s.channels[d] with state := if s.station.state = .joined then .queued else .waiting }
                      else s.channels[d])
                  ∧ t.sched
                      = { s.sched with
                          queue := if s.station.state = .joined then
                              ((List.finRange 12).filter fun d => s.channels[d].state == .starved).foldl
                                (fun q d => offerTo q (.claim d)) s.sched.queue
                            else s.sched.queue }))

/-- A RELEASE of another station that commits removes the holding of its key, and a ROLLCALL no holding at all; neither changes a peer record,
an event or the station. Where the RELEASE removed a holding, the freeing notice takes each STARVED channel to QUEUED in JOINED, its CLAIM
offered in ascending channel order, and to WAITING elsewhere. A ROLLCALL has an ANNOUNCE offered in JOINED, RESYNC and LEAVING, and nothing in
LISTEN and QUIET. The own ROLLCALL that commits does the same, and besides its entry leaves the queue, the void counter is 0, nothing is
composed or on the wire, and the rollcall mark of an open join window is THIS_CYCLE. The model's own choices in it:
notes/assumptions/3.md. -/
def Obligations.CommittedReleasesAndRollcalls : Prop :=
  ∀ (sender : BitVec 5) (s : State), s.engine.framing = .frame → s.fallWaits = false →
      let own : BitVec 5 := BitVec.ofNat 5 s.cfg.address.val
      let foreign := s.engine.transmission = .none ∧ sender ≠ own
      let runs (t : State) : Prop :=
        ∃ u, s.TimePasses u
          ∧ t = { u with
              lines := { u.lines with dataDriving := false }, engine := t.engine, table := t.table
              channels := t.channels, sched := t.sched, station := t.station }
          ∧ t.engine.framing = .gap ∧ t.engine.recessiveTime = 0 ∧ t.engine.frame = none
          ∧ t.engine.ending = some { elapsed := 0, dominant := false }
          ∧ t.engine.transmission = .none ∧ t.engine.request = s.engine.request
          ∧ t.table.peers = s.table.peers
      let answered :=
        if (s.station.state = .joined ∨ s.station.state = .resync ∨ s.station.state = .leaving)
            ∧ holds s.sched.queue .announce = false then
          s.sched.queue ++ [.fresh .announce]
        else s.sched.queue
      (∀ c : ChannelId, foreign → s.table.Lawful → s.table.WithinBudget s.cfg.budget →
          ∃ t, exec (.releaseCommit sender (BitVec.ofNat 4 c.val)) s = .next t
            ∧ runs t ∧ t.station = s.station
            ∧ t.table.plan = s.table.plan.filter (fun h => !decide (h.owner = addressOf sender ∧ h.channel = c))
            ∧ ((∀ h ∈ s.table.plan, ¬(h.owner = addressOf sender ∧ h.channel = c)) →
                t.channels = s.channels ∧ t.sched = s.sched)
            ∧ ((∃ h ∈ s.table.plan, h.owner = addressOf sender ∧ h.channel = c) →
                (∀ d : ChannelId, t.channels[d]
                    = if s.channels[d].state = .starved then
                        { s.channels[d] with state := if s.station.state = .joined then .queued else .waiting }
                      else s.channels[d])
                  ∧ t.sched
                      = { s.sched with
                          queue := if s.station.state = .joined then
                              ((List.finRange 12).filter fun d => s.channels[d].state == .starved).foldl
                                (fun q d => offerTo q (.claim d)) s.sched.queue
                            else s.sched.queue }))
        ∧ (foreign →
          ∃ t, exec (.rollcallCommit sender) s = .next t
            ∧ runs t ∧ t.station = s.station ∧ t.table = s.table ∧ t.channels = s.channels
            ∧ t.sched = { s.sched with queue := answered })
        ∧ ∀ k, s.engine.transmission = .driving → s.sched.composed = some k → k.message = .rollcall own →
          k.request = .rollcall → s.engine.request = some .rollcall →
          ∃ t, exec (.rollcallCommit own) s = .next t
            ∧ runs { t with engine := { t.engine with request := s.engine.request } } ∧ t.engine.request = none
            ∧ t.table = s.table ∧ t.channels = s.channels
            ∧ t.sched = { queue := answered.filter (fun e => !e.onWire), composed := none, voids := 0 }
            ∧ t.station
                = { s.station with rollcall := if s.windowOpen then .thisCycle else s.station.rollcall }

/-- A station in JOINED or LEAVING whose own verdict differs from the wire's on a CLAIM of another station enters RESYNC with cause
DIVERGENCE: with an own admit against a wire refuse, and, where it was QUIET at the REFUSE bit and did not pull, with an own refuse against a
wire admit. A station whose own CLAIM is refused enters it with cause CLAIM_REFUSED. The own holdings and record are kept and every other
removed, the engine waits for an edge, no CLAIM stays queued, a ROLLCALL is offered, and RESYNC is posted. In QUIET a difference in either
direction sets the quiet-stale flag, and the station stays QUIET. The model's own choices in it: notes/assumptions/3.md,
notes/assumptions/10.md, notes/assumptions/13.md. -/
def Obligations.VerdictDifferencesLeadToResync : Prop :=
  ∀ (sender : BitVec 5) (c : ChannelId) (e : WireEntry) (s : State),
    s.engine.framing = .frame → s.fallWaits = false → e.channel = BitVec.ofNat 4 c.val → e.rating ≠ 0 →
      let diverted (cause : Cause) (t : State) : Prop :=
        t.station
            = { s.station with
                state := .resync, cause := cause, opened := false, count := 0, traffic := false, rollcall := .none }
          ∧ (∀ a : Address, t.table.peers[a] = if a = s.cfg.address then s.table.peers[a] else .reset)
          ∧ (∀ h ∈ t.table.plan, h.owner = s.cfg.address)
          ∧ t.engine.framing = .awaitSync ∧ t.engine.ending = none ∧ t.engine.frame = none ∧ t.engine.transmission = .none
          ∧ t.lines.dataDriving = false
          ∧ (∀ d ∈ t.sched.queue, d.request.isClaim = false)
          ∧ holds t.sched.queue .rollcall = true
          ∧ t.cfg = s.cfg ∧ t.inputs = s.inputs ∧ t.pending = s.pending
      let resynced (cause : Cause) (t : State) : Prop :=
        diverted cause t
          ∧ t.table.plan = s.table.plan.filter (fun h => decide (h.owner = s.cfg.address))
          ∧ t.port = s.port.post ⟨.resync, .cause cause, s.timer.cycleCounter⟩
          ∧ ∃ u, s.TimePasses u ∧ t.timer = u.timer ∧ t.drive = u.drive
      let foreign := s.engine.transmission = .none ∧ sender ≠ BitVec.ofNat 5 s.cfg.address.val
      let judging := s.station.state = .joined ∨ s.station.state = .leaving
      (foreign → s.engine.verdict = some .admits → s.table.Lawful → s.sched.Lawful →
          (∀ d ∈ s.sched.queue, d.onWire = false) → judging →
          ∃ t, exec (.claimCommit sender e true) s = .next t ∧ resynced .divergence t)
        ∧ (foreign → s.engine.verdict = some .refuses → s.lines.dataDriving = false → s.table.Lawful → s.sched.Lawful →
          (∀ d ∈ s.sched.queue, d.onWire = false) → judging →
          ∃ t, exec (.claimCommit sender e false) s = .next t ∧ diverted .divergence t
            ∧ (s.table.peers[addressOf sender].present = false → resynced .divergence t))
        ∧ (∀ k, s.engine.transmission = .driving → s.sched.composed = some k → k.message = .claim sender e →
          k.request = .claim c → s.engine.request = some (.claim c) → sender = BitVec.ofNat 5 s.cfg.address.val →
          s.table.Lawful → s.sched.Lawful → (∀ d ∈ s.sched.queue, d.onWire = true → d.request = .claim c) → judging →
          ∃ t, exec (.claimCommit sender e true) s = .next t ∧ resynced .claimRefused t)
        ∧ (∀ refused : Bool, foreign → s.engine.verdict = some (if refused then .admits else .refuses) →
          s.station.state = .quiet → s.lines.dataDriving = false →
          ∃ t, exec (.claimCommit sender e refused) s = .next t ∧ t.station = { s.station with quietStale := true }
            ∧ t.engine.framing = .gap ∧ t.engine.frame = none ∧ t.engine.ending = some { elapsed := 0, dominant := false })

/-- The own CLAIM that commits admitted: its holding is in the plan, the channel records the span and the target of the composed record as its
held demand, and is HELD where its target still stands; CHANNEL_HELD is posted. The own RELEASE that commits: its holding is gone, the channel
has no span, and with target 0 it is IDLE. After either the void counter is 0, nothing is composed or on the wire, and the station stands.
The model's own choices in it: notes/assumptions/3.md, notes/assumptions/22.md. -/
def Obligations.OwnClaimsAndReleasesReachTheirChannel : Prop :=
  ∀ (c : ChannelId) (k : Composed) (s : State),
    s.engine.framing = .frame → s.engine.transmission = .driving → s.sched.composed = some k →
    s.engine.request = some k.request → s.channels[c].state = .inFlight → s.fallWaits = false →
    s.table.Lawful → s.table.WithinBudget s.cfg.budget →
      let own : BitVec 5 := BitVec.ofNat 5 s.cfg.address.val
      let resolved (t : State) : Prop :=
        t.sched.voids = 0 ∧ t.sched.composed = none ∧ (∀ d ∈ t.sched.queue, d.onWire = false)
          ∧ t.engine.transmission = .none ∧ t.engine.request = none ∧ t.engine.framing = .gap
          ∧ t.engine.ending = some { elapsed := 0, dominant := false }
          ∧ t.lines.dataDriving = false ∧ t.table.peers = s.table.peers
          ∧ ∃ u, s.TimePasses u
            ∧ t = { u with
                engine := t.engine, lines := t.lines, table := t.table, sched := t.sched, channels := t.channels
                port := t.port }
      (∀ e : WireEntry, k.request = .claim c → k.message = .claim own e → e.channel = BitVec.ofNat 4 c.val →
          e.rating ≠ 0 → s.station.state = .joined ∨ s.station.state = .leaving →
          s.table.peers[s.cfg.address].present = true →
          s.table.fits s.cfg.budget s.cfg.address c (slotOf e.start) (e.lengthLess1.toNat + 1) e.rating.toNat = true →
          ∃ t, exec (.claimCommit own e false) s = .next t ∧ resolved t
            ∧ t.table.find s.cfg.address c
                = some { owner := s.cfg.address, channel := c, start := slotOf e.start
                         length := e.lengthLess1.toNat + 1, rating := e.rating.toNat }
            ∧ t.channels[c].span = some { start := slotOf e.start, length := e.lengthLess1.toNat + 1 }
            ∧ (0 < k.target → s.channels[c].target = k.target → (k.target + 7) / 8 = e.lengthLess1.toNat + 1 →
                t.channels[c].state = .held ∧ t.channels[c].held = k.target)
            ∧ t.port = s.port.post ⟨.channelHeld, .channel c, s.timer.cycleCounter⟩)
        ∧ (k.request = .release c → k.message = .release own (BitVec.ofNat 4 c.val) →
          s.station.state = .joined ∨ s.station.state = .resync ∨ s.station.state = .leaving →
          ∃ t, exec (.releaseCommit own (BitVec.ofNat 4 c.val)) s = .next t ∧ resolved t
            ∧ t.table.find s.cfg.address c = none
            ∧ t.channels[c].span = none ∧ t.channels[c].held = 0
            ∧ (s.channels[c].target = 0 → t.channels[c].state = .idle)
            ∧ t.port = s.port)

/-- The own ANNOUNCE that commits makes the own record PRESENT with age 0, posts nothing of its own and returns the void counter to 0. Composed
and committed in JOINED or RESYNC, its entry leaves the queue. Composed there and committed in LEAVING, its entry stays, unmarked. Composed in
LEAVING it is the closing announce: no own holding is left, the station enters QUIET with cause CLOSED, the queue is emptied, the outputs are off,
every used channel loses its span, and QUIET_ENTERED is posted. The model's own choices in it: notes/assumptions/3.md,
notes/assumptions/22.md. -/
def Obligations.OwnAnnouncesResolve : Prop :=
  ∀ (cycleAge : BitVec 16) (entries : List WireEntry) (k : Composed) (s : State),
    let own : BitVec 5 := BitVec.ofNat 5 s.cfg.address.val
    s.engine.framing = .frame → s.engine.transmission = .driving → s.sched.composed = some k →
    s.engine.request = some .announce → k.request = .announce →
    k.message = .announce own s.cfg.digest cycleAge entries → k.message.unacceptable = false → s.fallWaits = false →
    s.table.Lawful → s.table.WithinBudget s.cfg.budget →
    (s.sched.queue.filter (·.onWire)) = [{ request := .announce, onWire := true, cancel := false }] →
      let refreshed (t : State) : Prop :=
        t.table.peers = s.table.peers.set s.cfg.address { present := true, age := 0, cycleAge := cycleAge }
          ∧ t.sched.voids = 0 ∧ t.sched.composed = none ∧ t.engine.transmission = .none ∧ t.engine.request = none
          ∧ t.engine.framing = .gap ∧ t.engine.ending = some { elapsed := 0, dominant := false }
          ∧ t.lines.dataDriving = false ∧ t.cfg = s.cfg ∧ t.pending = s.pending
      let outputsRunOn (t : State) : Prop := ∃ u, s.TimePasses u ∧ t.timer = u.timer ∧ t.drive = u.drive
      (entries = (s.table.holdingsOf s.cfg.address).map entryOf → s.table.InRange →
          (s.station.state = .joined ∨ s.station.state = .resync) → k.station ≠ .leaving →
          ∃ t, exec (.announceCommit own s.cfg.digest cycleAge entries) s = .next t ∧ refreshed t
            ∧ t.table.plan = s.table.plan ∧ t.channels = s.channels ∧ t.port = s.port ∧ outputsRunOn t
            ∧ t.sched.queue = s.sched.queue.filter (fun e => !e.onWire)
            ∧ t.station = { s.station with traffic := s.station.traffic || s.windowOpen })
        ∧ (entries = (s.table.holdingsOf s.cfg.address).map entryOf → s.table.InRange →
          s.station.state = .leaving → k.station ≠ .leaving →
          ∃ t, exec (.announceCommit own s.cfg.digest cycleAge entries) s = .next t ∧ refreshed t
            ∧ t.table.plan = s.table.plan ∧ t.channels = s.channels ∧ t.port = s.port ∧ outputsRunOn t
            ∧ t.sched.queue = s.sched.queue.map (fun e => { e with onWire := false })
            ∧ t.station = s.station)
        ∧ (entries = [] → s.station.state = .leaving → k.station = .leaving →
          ∃ t, exec (.announceCommit own s.cfg.digest cycleAge entries) s = .next t ∧ refreshed t
            ∧ t.table.plan = s.table.plan.filter (fun h => decide (h.owner ≠ s.cfg.address))
            ∧ t.station
                = { state := .quiet, cause := .closed, opened := false, count := 0, traffic := false, rollcall := .none
                    quietStale := false }
            ∧ t.sched.queue = [] ∧ t.drive = .reset
            ∧ (∀ c : ChannelId, t.channels[c]
                = if s.channels[c].state = .unused then s.channels[c]
                  else { s.channels[c] with
                    span := none, held := 0, state := if s.channels[c].target = 0 then .idle else .waiting })
            ∧ t.port = s.port.post ⟨.quietEntered, .address s.cfg.address, s.timer.cycleCounter⟩)

/-- A committed message that bears the own address without being the own transmission sends the station to HALT with cause ADDRESS_CLASH,
and a committed ANNOUNCE of another station with another digest with cause CONFIG_MISMATCH. The message is not applied; plan and peer
table are emptied, the timer stopped with its counter kept, the drivers released, the engine OFF, the queue emptied, the spans removed,
the outputs off, and HALT is posted. An ANNOUNCE that meets both cases halts with ADDRESS_CLASH. The model's own choices in it:
notes/assumptions/3.md, notes/assumptions/9.md, notes/assumptions/21.md. -/
def Obligations.ClashesAndMismatchesHalt : Prop :=
  ∀ (m : Message) (refused : Bool) (s : State),
    s.engine.framing = .frame → m.unacceptable = false → s.fallWaits = false →
    let own : BitVec 5 := BitVec.ofNat 5 s.cfg.address.val
    let halted (cause : Cause) : Prop :=
      ∃ t, exec (m.committing refused) s = .next t
        ∧ t.station
            = { s.station with
                state := .halt, cause := cause, opened := false, count := 0, traffic := false, rollcall := .none }
        ∧ t.table = .reset
        ∧ t.timer = { s.timer with running := false, localTime := 0, slotIndex := 0, syncAcquired := false }
        ∧ t.lines.syncDriving = false ∧ t.lines.dataDriving = false
        ∧ t.engine.framing = .off ∧ t.engine.ending = none ∧ t.engine.frame = none ∧ t.engine.transmission = .none
        ∧ t.engine.request = none
        ∧ t.sched = .reset ∧ t.drive = .reset
        ∧ (∀ c : ChannelId, t.channels[c]
            = if s.channels[c].state = .unused then s.channels[c]
              else { s.channels[c] with
                span := none, held := 0, state := if s.channels[c].target = 0 then .idle else .waiting })
        ∧ t.port = s.port.post ⟨.halt, .cause cause, s.timer.cycleCounter⟩
        ∧ t.cfg = s.cfg ∧ t.inputs = s.inputs ∧ t.pending = s.pending
    (m.sender = own → ¬(s.engine.transmission = .driving ∧ s.sched.composed.map Composed.message = some m) →
        halted .addressClash)
      ∧ ∀ sender digest cycleAge entries, m = .announce sender digest cycleAge entries → sender ≠ own →
        digest ≠ s.cfg.digest → halted .configMismatch

/-! ## Eviction, placement and replicas (R18, R21, R94, R95) -/

/-- Eviction removes one holding at a time, each time the one with the highest owner, and of that owner's the one with the highest channel, among
those that cover a slot whose sum exceeds the budget as the sums then stand. It takes at most 384 steps, it stops only when no slot is over
budget, and then no slot is. Each own holding that it removes is reported at its step: the channel's span is absent and its held demand 0, it
is marked EVICTED, CHANNEL_EVICTED is posted, its drive entry is empty and its output off at once; it stays IN_FLIGHT if it was, is IDLE with
target 0, and otherwise has its CLAIM queued, in JOINED, or waits. No other channel, entry or output changes. -/
def Obligations.EvictionRemovesTheHighestUntilWithinBudget : Prop :=
  ∀ s : State, s.table.Lawful →
    ∃ removed : List Holding,
      (evict s).table = removed.foldl PlanTable.remove s.table
        ∧ removed.length ≤ 384
        ∧ (∀ k : Slot, (evict s).table.sumAt k ≤ s.cfg.budget ∧ (evict s).table.sums[k] ≤ s.cfg.budget)
        ∧ (evict s).table.Lawful
        ∧ (∀ before h after, removed = before ++ h :: after →
            let t := before.foldl PlanTable.remove s.table
            let among (g : Holding) : Prop := g ∈ t.plan ∧ ∃ k : Slot, g.covers k = true ∧ s.cfg.budget < t.sumAt k
            among h ∧ (∀ g, among g → g.owner < h.owner ∨ (g.owner = h.owner ∧ g.channel ≤ h.channel))
              ∧ (t.remove h).plan = t.plan.filter (fun g => decide (g ≠ h)))
        ∧ ((evict s).port
            = (removed.filter fun h => decide (h.owner = s.cfg.address) && s.channels[h.channel].state != .unused).foldl
                (fun p h => p.post ⟨.channelEvicted, .channel h.channel, s.timer.cycleCounter⟩) s.port)
        ∧ ∀ c : ChannelId,
            if ∃ h ∈ removed, h.owner = s.cfg.address ∧ h.channel = c then
              (evict s).drive.table[c] = none ∧ (evict s).drive.outputs[c] = false
                ∧ (s.channels[c].state ≠ .unused →
                  (evict s).channels[c]
                    = { s.channels[c] with
                        span := none, held := 0, evicted := true
                        state :=
                          if s.channels[c].state = .inFlight then .inFlight
                          else if s.channels[c].target = 0 then .idle
                          else if holds s.sched.queue (.claim c) = true ∨ s.station.state = .joined then .queued
                          else .waiting })
            else (evict s).drive.table[c] = s.drive.table[c] ∧ (evict s).drive.outputs[c] = s.drive.outputs[c]
              ∧ (evict s).channels[c] = s.channels[c]

/-- The Placement Engine tries the old start, where the channel has an old holding, and then the 64 starts from the origin (2 × own address
+ 5 × c) modulo 64, and returns the first that fits: in every slot of the span the sum, less the old holding's rating where it covers the slot,
plus the rating, is at most the budget. It returns none only where no start fits. -/
def Obligations.PlacementTakesTheFirstFit : Prop :=
  ∀ (t : PlanTable) (budget : Nat) (own : Address) (c : ChannelId) (length rating : Nat),
    let fit (start : Slot) : Prop := ∀ k : Slot, (k.val + 64 - start.val) % 64 < length →
      t.sums[k] - (match t.find own c with
        | some h => if h.covers k then h.rating else 0
        | none => 0) + rating ≤ budget
    let scanned : List Slot := (List.range 64).map fun i => Fin.ofNat 64 (2 * own.val + 5 * c.val + i)
    let tried : List Slot := match t.find own c with
      | some h => h.start :: scanned
      | none => scanned
    (∀ start, t.place budget own c length rating = some start →
        ∃ before after, tried = before ++ start :: after ∧ fit start ∧ ∀ x ∈ before, ¬fit x)
      ∧ (t.place budget own c length rating = none ↔ ∀ start, ¬fit start)
      ∧ (∀ start, t.place budget own c length rating = some start → t.peers[own].present = true →
          t.admission budget own c start length rating = .admits)

/-- Two stations with equal plans and peer tables, the same budget and the same digest, at which a message of a third station commits,
have equal plans and peer tables after it: for an ANNOUNCE with that digest, a RELEASE and a ROLLCALL in every attached state, and for a
CLAIM in the states in which no verdict difference sends a station to RESYNC, a station in JOINED or LEAVING having formed the wire's verdict.
The model's own choices in it: notes/assumptions/3.md, notes/assumptions/10.md, notes/assumptions/11.md. -/
def Obligations.EqualReplicasStayEqual : Prop :=
  ∀ (m : Message) (refused : Bool) (s u : State), m.unacceptable = false →
    let receives (s : State) : Prop :=
      s.engine.framing = .frame ∧ s.engine.transmission = .none ∧ s.station.state.attached = true
        ∧ m.sender ≠ BitVec.ofNat 5 s.cfg.address.val
        ∧ (∀ sender digest cycleAge entries, m = .announce sender digest cycleAge entries → digest = s.cfg.digest)
        ∧ s.fallWaits = false
        ∧ (∀ sender e, m = .claim sender e →
            (s.lines.dataDriving = true → refused = true)
              ∧ (s.station.state = .joined ∨ s.station.state = .leaving →
                s.engine.verdict = some (if refused then .refuses else .admits)))
    receives s → receives u → s.table = u.table → s.cfg.budget = u.cfg.budget →
      ∃ t v, exec (m.committing refused) s = .next t ∧ exec (m.committing refused) u = .next v ∧ t.table = v.table

/-! ## Dithering (R123 to R125) -/

/-- Over the eight cycles of a dither round a channel latched with held demand D, and so with a span of ⌈D / 8⌉ slots and the fraction D modulo
8, conducts in exactly D slot-cycles, wherever its span begins. -/
def Obligations.ADitherRoundConductsTheDemand : Prop :=
  ∀ (d : Nat) (start : Slot) (index : Nat), 1 ≤ d → d ≤ 512 →
    let e : DriveEntry := { start := start, length := (d + 7) / 8, fraction := d % 8 }
    (((List.range 8).map fun i =>
        (List.finRange 64).countP fun k : Slot => e.conducts ((index + i) % 8) k).sum) = d

/-! ## The wire (R67, R164, R165) -/

/-- A receiver that frames the bits of a message, SOF taken off, reads the message that was sent, its CHECK, and then the verdict bits and END, all
recessive. -/
def Obligations.FramingReadsWhatWasSent : Prop :=
  ∀ m : Message, m.fitsLayout = true →
    ∃ bits, m.wire = false :: bits
      ∧ frameBits bits
          = some (m, m.check, [true] ++ (if m.hasRefuse then [true] else []) ++ [true, true, true])

/-- The layout of R164: the two bits of each KIND, the message lengths, OBJECT's position and the commit point of each kind, and each field's run of bits counted from the SOF
at 0, most significant bit first. CHECK is the check of KIND, SENDER and payload; a run of bits with its check after it has the check 0. The
digest is the check of the bit-rate code, the slot code, the two budget bytes, high byte first, and the interval. -/
def Obligations.MessagesAreLaidOutByPosition : Prop :=
  (∀ m : Message,
      (m.wire.drop 1).take 2 = bitsOf m.kindBits ∧ (m.wire.drop 3).take 5 = bitsOf m.sender
        ∧ (m.wire.drop (m.objectPosition - 8)).take 8 = bitsOf (crc m.checkedBits)
        ∧ m.checkedBits = (m.wire.drop 1).take (m.objectPosition - 9)
        ∧ m.wire.drop m.objectPosition = List.replicate (m.commitPoint - m.objectPosition + 3) true
        ∧ m.wire.length = m.commitPoint + 3)
    ∧ (∀ bits : List Bool, crc (bits ++ bitsOf (crc bits)) = 0)
    ∧ (∀ (rateCode slotCode interval : Byte) (budget : BitVec 16),
        digestOf rateCode slotCode budget interval
          = crc ([rateCode, slotCode, budget.extractLsb' 8 8, budget.extractLsb' 0 8, interval].flatMap
              fun b : Byte => (List.range 8).map fun i => b.getLsbD (7 - i)))
    ∧ (∀ sender digest cycleAge entries,
        let m := Message.announce sender digest cycleAge entries
        (m.wire.drop 1).take 2 = [false, false] ∧ m.objectPosition = 44 + 26 * entries.length ∧ m.commitPoint = 45 + 26 * entries.length
          ∧ (m.wire.drop 8).take 8 = bitsOf digest ∧ (m.wire.drop 16).take 16 = bitsOf cycleAge
          ∧ (m.wire.drop 32).take 4 = bitsOf (BitVec.ofNat 4 entries.length)
          ∧ ∀ (i : Nat) (h : i < entries.length),
              (m.wire.drop (36 + 26 * i)).take 26
                = bitsOf entries[i].channel ++ bitsOf entries[i].start ++ bitsOf entries[i].lengthLess1
                    ++ bitsOf entries[i].rating)
    ∧ (∀ sender channel,
        let m := Message.release sender channel
        (m.wire.drop 1).take 2 = [false, true] ∧ m.objectPosition = 20 ∧ m.commitPoint = 21 ∧ (m.wire.drop 8).take 4 = bitsOf channel)
    ∧ (∀ sender e,
        let m := Message.claim sender e
        (m.wire.drop 1).take 2 = [true, false] ∧ m.objectPosition = 42 ∧ m.commitPoint = 44
          ∧ (m.wire.drop 8).take 4 = bitsOf e.channel ∧ (m.wire.drop 12).take 6 = bitsOf e.start
          ∧ (m.wire.drop 18).take 6 = bitsOf e.lengthLess1 ∧ (m.wire.drop 24).take 10 = bitsOf e.rating)
    ∧ ∀ sender,
        let m := Message.rollcall sender
        (m.wire.drop 1).take 2 = [true, true] ∧ m.objectPosition = 16 ∧ m.commitPoint = 17

/-! ## The laws of the device, kept by every step -/

/-- The state after reset satisfies every law. The model's own choices in it: notes/assumptions/1.md, notes/assumptions/2.md. -/
def Obligations.ResetSatisfiesEveryLaw : Prop :=
  let s := State.reset
  s.AtReset ∧ s.table.Lawful ∧ s.table.WithinBudget s.cfg.budget ∧ s.table.InRange ∧ s.table.OwnersPresent
    ∧ s.table.AgesWithin s.expiry ∧ s.Configured ∧ s.StationLawful ∧ s.AttachedRuns ∧ s.DetachedIdle
    ∧ s.IgnoresUntilOpened ∧ s.UnconfiguredAtReset ∧ s.HeldUnconfigured ∧ s.DriversLawful ∧ s.lines.HoldsLawful
    ∧ s.engine.FrameLawful ∧ s.EndLawful ∧ s.sched.Lawful ∧ s.WireLawful ∧ s.QueueKindsLawful ∧ s.ChannelsLawful ∧ s.SpansInPlan ∧ s.SpansWhereHeld ∧ s.ComposedLawful
    ∧ s.AnnounceWaits ∧ s.OutputsLawful ∧ s.SlotLawful ∧ s.port.Lawful

/-- At most one holding for each key, every slot sum and covering count what the holdings make it, and no slot over budget: every step keeps it,
and with it at most 384 holdings in all and 12 for each owner. -/
def Obligations.ThePlanStaysLawfulAndWithinBudget : Prop :=
  (∀ s t : State, s.table.Lawful → step s = .next t → t.table.Lawful)
    ∧ (∀ s t : State, s.table.Lawful → s.table.WithinBudget s.cfg.budget → step s = .next t →
        t.table.WithinBudget t.cfg.budget)
    ∧ ∀ p : PlanTable, p.Lawful →
        p.plan.length ≤ 384 ∧ ∀ a : Address, (p.plan.filter fun h => decide (h.owner = a)).length ≤ 12

/-- No holding of an owner whose record is ABSENT: every step keeps it. -/
def Obligations.NoHoldingOfAnAbsentOwner : Prop :=
  ∀ s t : State, s.table.OwnersPresent → step s = .next t → t.table.OwnersPresent

/-- Every holding stays within the ranges of its fields, every announce age from 0 to E with a PRESENT record below E, and outside UNCONFIGURED the
configuration passes the checks of CONFIG. -/
def Obligations.HoldingsAndAgesStayInRange : Prop :=
  (∀ s t : State, s.table.InRange → step s = .next t → t.table.InRange)
    ∧ ∀ s t : State, s.table.AgesWithin s.expiry → s.Configured → s.DetachedIdle → step s = .next t →
        t.table.AgesWithin t.expiry ∧ t.Configured

/-- The cause is always one of the station state's, the window items stand at their reset values outside an open window, and the count of an open
window is below E; and outside UNCONFIGURED the configuration passes the checks of CONFIG. -/
def Obligations.CausesAndWindowItemsStayLawful : Prop :=
  ∀ s t : State, s.StationLawful → s.Configured → s.DetachedIdle → step s = .next t → t.StationLawful ∧ t.Configured

/-- In the attached states the timer runs and the engine follows DATA, but in LISTEN and RESYNC only from the opening edge on; in the others
plan, peer table, queue and drive table are empty, the drivers released and the timer stopped; in UNCONFIGURED every item is at its reset
value, and a part held in reset is UNCONFIGURED; a frame record is present exactly in FRAME, an END lasts at most its 3 bit times, in GAP, and
no time of other stations' pull is left on a high or recessive line. Every step keeps it. The model's own choices in it: notes/assumptions/1.md, notes/assumptions/4.md, notes/assumptions/17.md,
notes/assumptions/25.md. -/
def Obligations.StationStatesHoldWhatTheyHold : Prop :=
  (∀ s t : State, s.AttachedRuns → s.DetachedIdle → step s = .next t → t.AttachedRuns ∧ t.DetachedIdle)
    ∧ (∀ s t : State, s.AttachedRuns → s.DetachedIdle → s.DriversLawful → s.IgnoresUntilOpened → step s = .next t →
        t.IgnoresUntilOpened)
    ∧ (∀ s t : State, s.UnconfiguredAtReset → s.HeldUnconfigured → step s = .next t →
        t.UnconfiguredAtReset ∧ t.HeldUnconfigured)
    ∧ (∀ s t : State, s.engine.FrameLawful → step s = .next t → t.engine.FrameLawful)
    ∧ (∀ s t : State, s.EndLawful → step s = .next t → t.EndLawful)
    ∧ ∀ s t : State, s.lines.HoldsLawful → step s = .next t → t.lines.HoldsLawful

/-- No two entries of one kind and channel, never a CLAIM and a RELEASE for one channel, and the cancel mark on entries on the wire alone: every step
keeps it, and the queue never holds more than 14 entries. -/
def Obligations.TheTransmitQueueStaysLawful : Prop :=
  (∀ s t : State, s.sched.Lawful → step s = .next t → t.sched.Lawful)
    ∧ ∀ q : Scheduler, q.Lawful → q.queue.length ≤ 14

/-- Every step keeps the channels and the queue in agreement: each channel's state stands to its target, span and queue entries as the manual says,
the queue holds only the kinds of the station state, the on-wire mark, the composed record and the transmitted request are one attempt's, the
channel spans are the own holdings of the plan, an ANNOUNCE that is due is queued, and a composed message is acceptable and, a CLAIM, still fits.
That the spans are the own holdings in every state, with no state between a commit and its report to the channel, is the model's choice:
notes/assumptions/22.md. -/
def Obligations.ChannelsQueueAndPlanStayInAgreement : Prop :=
  ∀ s t : State,
    let agreed (s : State) : Prop :=
      s.table.Lawful ∧ s.table.WithinBudget s.cfg.budget ∧ s.table.InRange ∧ s.table.OwnersPresent
        ∧ s.table.AgesWithin s.expiry ∧ s.Configured ∧ s.AttachedRuns ∧ s.DetachedIdle ∧ s.DriversLawful
        ∧ s.sched.Lawful ∧ s.WireLawful ∧ s.QueueKindsLawful ∧ s.ChannelsLawful ∧ s.SpansInPlan ∧ s.SpansWhereHeld
        ∧ s.ComposedLawful ∧ s.AnnounceWaits ∧ s.UnconfiguredAtReset ∧ s.HeldUnconfigured
    agreed s → step s = .next t → agreed t

/-- An output conducts only in a slot that its channel's entry covers, and every output is off in the states that drive none (R129); the slot
index of a running timer is the slot that local cycle time stands in (R50); the event queue, ATTN and a pending removal stay lawful (R159, R160,
R162, R163). Every step keeps it. -/
def Obligations.OutputsAndThePortStayLawful : Prop :=
  (∀ s t : State, s.OutputsLawful → step s = .next t → t.OutputsLawful)
    ∧ (∀ s t : State, s.SlotLawful → s.Configured → s.DetachedIdle → step s = .next t → t.SlotLawful)
    ∧ ∀ s t : State, s.port.Lawful → step s = .next t → t.port.Lawful

/-- HALT is left through reset alone, and outside UNCONFIGURED the configuration, the event mask and the ratings change through reset
alone (R134, R148). The model's own choices in it: notes/assumptions/4.md. -/
def Obligations.OnlyResetLeavesHaltOrChangesTheConfiguration : Prop :=
  ∀ s t : State, step s = .next t →
    (∀ c ∈ s.pending.head?, c ≠ .powerOnReset ∧ c ≠ .resetPin ∧ c ≠ .resetRelease) →
      (s.DetachedIdle → s.station.state = .halt → t.station.state = .halt)
        ∧ (s.station.state ≠ .unconfigured →
            t.cfg = s.cfg ∧ t.port.mask = s.port.mask ∧ t.station.state ≠ .unconfigured
              ∧ ∀ c : ChannelId, t.channels[c].rating = s.channels[c].rating)
end

