-- ==== Sys2Proof/Laws/State.lean ====
section
/-! SUPPORT. One lemma for each field of `State` and each named update of it, true by `rfl`: no later proof unfolds a record
update. -/

namespace Sys2Proof.Machine

/-! ### `mapQueue` -/

@[simp] theorem mapQueue_inputs (f : List QueueEntry → List QueueEntry) (s : State) :
    (s.mapQueue f).inputs = s.inputs := rfl
@[simp] theorem mapQueue_cfg (f : List QueueEntry → List QueueEntry) (s : State) :
    (s.mapQueue f).cfg = s.cfg := rfl
@[simp] theorem mapQueue_table (f : List QueueEntry → List QueueEntry) (s : State) :
    (s.mapQueue f).table = s.table := rfl
@[simp] theorem mapQueue_timer (f : List QueueEntry → List QueueEntry) (s : State) :
    (s.mapQueue f).timer = s.timer := rfl
@[simp] theorem mapQueue_lines (f : List QueueEntry → List QueueEntry) (s : State) :
    (s.mapQueue f).lines = s.lines := rfl
@[simp] theorem mapQueue_engine (f : List QueueEntry → List QueueEntry) (s : State) :
    (s.mapQueue f).engine = s.engine := rfl
@[simp] theorem mapQueue_sched (f : List QueueEntry → List QueueEntry) (s : State) :
    (s.mapQueue f).sched = { s.sched with queue := f s.sched.queue } := rfl
@[simp] theorem mapQueue_channels (f : List QueueEntry → List QueueEntry) (s : State) :
    (s.mapQueue f).channels = s.channels := rfl
@[simp] theorem mapQueue_drive (f : List QueueEntry → List QueueEntry) (s : State) :
    (s.mapQueue f).drive = s.drive := rfl
@[simp] theorem mapQueue_station (f : List QueueEntry → List QueueEntry) (s : State) :
    (s.mapQueue f).station = s.station := rfl
@[simp] theorem mapQueue_port (f : List QueueEntry → List QueueEntry) (s : State) :
    (s.mapQueue f).port = s.port := rfl
@[simp] theorem mapQueue_pending (f : List QueueEntry → List QueueEntry) (s : State) :
    (s.mapQueue f).pending = s.pending := rfl

/-! ### `offer` -/

@[simp] theorem offer_inputs (r : Request) (s : State) :
    (offer r s).inputs = s.inputs := rfl
@[simp] theorem offer_cfg (r : Request) (s : State) :
    (offer r s).cfg = s.cfg := rfl
@[simp] theorem offer_table (r : Request) (s : State) :
    (offer r s).table = s.table := rfl
@[simp] theorem offer_timer (r : Request) (s : State) :
    (offer r s).timer = s.timer := rfl
@[simp] theorem offer_lines (r : Request) (s : State) :
    (offer r s).lines = s.lines := rfl
@[simp] theorem offer_engine (r : Request) (s : State) :
    (offer r s).engine = s.engine := rfl
@[simp] theorem offer_sched (r : Request) (s : State) :
    (offer r s).sched = { s.sched with queue := offerTo s.sched.queue r } := rfl
@[simp] theorem offer_channels (r : Request) (s : State) :
    (offer r s).channels = s.channels := rfl
@[simp] theorem offer_drive (r : Request) (s : State) :
    (offer r s).drive = s.drive := rfl
@[simp] theorem offer_station (r : Request) (s : State) :
    (offer r s).station = s.station := rfl
@[simp] theorem offer_port (r : Request) (s : State) :
    (offer r s).port = s.port := rfl
@[simp] theorem offer_pending (r : Request) (s : State) :
    (offer r s).pending = s.pending := rfl

/-! ### `mapChannel` -/

@[simp] theorem mapChannel_inputs (c : ChannelId) (f : Channel → Channel) (s : State) :
    (s.mapChannel c f).inputs = s.inputs := rfl
@[simp] theorem mapChannel_cfg (c : ChannelId) (f : Channel → Channel) (s : State) :
    (s.mapChannel c f).cfg = s.cfg := rfl
@[simp] theorem mapChannel_table (c : ChannelId) (f : Channel → Channel) (s : State) :
    (s.mapChannel c f).table = s.table := rfl
@[simp] theorem mapChannel_timer (c : ChannelId) (f : Channel → Channel) (s : State) :
    (s.mapChannel c f).timer = s.timer := rfl
@[simp] theorem mapChannel_lines (c : ChannelId) (f : Channel → Channel) (s : State) :
    (s.mapChannel c f).lines = s.lines := rfl
@[simp] theorem mapChannel_engine (c : ChannelId) (f : Channel → Channel) (s : State) :
    (s.mapChannel c f).engine = s.engine := rfl
@[simp] theorem mapChannel_sched (c : ChannelId) (f : Channel → Channel) (s : State) :
    (s.mapChannel c f).sched = s.sched := rfl
@[simp] theorem mapChannel_channels (c : ChannelId) (f : Channel → Channel) (s : State) :
    (s.mapChannel c f).channels = s.channels.set c (f s.channels[c]) := rfl
@[simp] theorem mapChannel_drive (c : ChannelId) (f : Channel → Channel) (s : State) :
    (s.mapChannel c f).drive = s.drive := rfl
@[simp] theorem mapChannel_station (c : ChannelId) (f : Channel → Channel) (s : State) :
    (s.mapChannel c f).station = s.station := rfl
@[simp] theorem mapChannel_port (c : ChannelId) (f : Channel → Channel) (s : State) :
    (s.mapChannel c f).port = s.port := rfl
@[simp] theorem mapChannel_pending (c : ChannelId) (f : Channel → Channel) (s : State) :
    (s.mapChannel c f).pending = s.pending := rfl

/-! ### `withdrawAll` -/

@[simp] theorem withdrawAll_inputs (c : ChannelId) (s : State) :
    (withdrawAll c s).inputs = s.inputs := rfl
@[simp] theorem withdrawAll_cfg (c : ChannelId) (s : State) :
    (withdrawAll c s).cfg = s.cfg := rfl
@[simp] theorem withdrawAll_table (c : ChannelId) (s : State) :
    (withdrawAll c s).table = s.table := rfl
@[simp] theorem withdrawAll_timer (c : ChannelId) (s : State) :
    (withdrawAll c s).timer = s.timer := rfl
@[simp] theorem withdrawAll_lines (c : ChannelId) (s : State) :
    (withdrawAll c s).lines = s.lines := rfl
@[simp] theorem withdrawAll_engine (c : ChannelId) (s : State) :
    (withdrawAll c s).engine = s.engine := rfl
@[simp] theorem withdrawAll_sched (c : ChannelId) (s : State) :
    (withdrawAll c s).sched = { s.sched with queue := s.sched.queue.filter fun e => e.onWire || e.request.channel? != some c } := rfl
@[simp] theorem withdrawAll_channels (c : ChannelId) (s : State) :
    (withdrawAll c s).channels = s.channels := rfl
@[simp] theorem withdrawAll_drive (c : ChannelId) (s : State) :
    (withdrawAll c s).drive = s.drive := rfl
@[simp] theorem withdrawAll_station (c : ChannelId) (s : State) :
    (withdrawAll c s).station = s.station := rfl
@[simp] theorem withdrawAll_port (c : ChannelId) (s : State) :
    (withdrawAll c s).port = s.port := rfl
@[simp] theorem withdrawAll_pending (c : ChannelId) (s : State) :
    (withdrawAll c s).pending = s.pending := rfl

/-! ### `parkClaims` -/

@[simp] theorem parkClaims_inputs (s : State) :
    (parkClaims s).inputs = s.inputs := rfl
@[simp] theorem parkClaims_cfg (s : State) :
    (parkClaims s).cfg = s.cfg := rfl
@[simp] theorem parkClaims_table (s : State) :
    (parkClaims s).table = s.table := rfl
@[simp] theorem parkClaims_timer (s : State) :
    (parkClaims s).timer = s.timer := rfl
@[simp] theorem parkClaims_lines (s : State) :
    (parkClaims s).lines = s.lines := rfl
@[simp] theorem parkClaims_engine (s : State) :
    (parkClaims s).engine = s.engine := rfl
@[simp] theorem parkClaims_sched (s : State) :
    (parkClaims s).sched = s.sched := rfl
@[simp] theorem parkClaims_drive (s : State) :
    (parkClaims s).drive = s.drive := rfl
@[simp] theorem parkClaims_station (s : State) :
    (parkClaims s).station = s.station := rfl
@[simp] theorem parkClaims_port (s : State) :
    (parkClaims s).port = s.port := rfl
@[simp] theorem parkClaims_pending (s : State) :
    (parkClaims s).pending = s.pending := rfl

/-! ### `post` -/

@[simp] theorem post_inputs (kind : EventKind) (subject : Subject) (s : State) :
    (post kind subject s).inputs = s.inputs := rfl
@[simp] theorem post_cfg (kind : EventKind) (subject : Subject) (s : State) :
    (post kind subject s).cfg = s.cfg := rfl
@[simp] theorem post_table (kind : EventKind) (subject : Subject) (s : State) :
    (post kind subject s).table = s.table := rfl
@[simp] theorem post_timer (kind : EventKind) (subject : Subject) (s : State) :
    (post kind subject s).timer = s.timer := rfl
@[simp] theorem post_lines (kind : EventKind) (subject : Subject) (s : State) :
    (post kind subject s).lines = s.lines := rfl
@[simp] theorem post_engine (kind : EventKind) (subject : Subject) (s : State) :
    (post kind subject s).engine = s.engine := rfl
@[simp] theorem post_sched (kind : EventKind) (subject : Subject) (s : State) :
    (post kind subject s).sched = s.sched := rfl
@[simp] theorem post_channels (kind : EventKind) (subject : Subject) (s : State) :
    (post kind subject s).channels = s.channels := rfl
@[simp] theorem post_drive (kind : EventKind) (subject : Subject) (s : State) :
    (post kind subject s).drive = s.drive := rfl
@[simp] theorem post_station (kind : EventKind) (subject : Subject) (s : State) :
    (post kind subject s).station = s.station := rfl
@[simp] theorem post_port (kind : EventKind) (subject : Subject) (s : State) :
    (post kind subject s).port = s.port.post ⟨kind, subject, s.timer.cycleCounter⟩ := rfl
@[simp] theorem post_pending (kind : EventKind) (subject : Subject) (s : State) :
    (post kind subject s).pending = s.pending := rfl

/-! ### `setOutputs` -/

@[simp] theorem setOutputs_inputs (k : Slot) (s : State) :
    (setOutputs k s).inputs = s.inputs := rfl
@[simp] theorem setOutputs_cfg (k : Slot) (s : State) :
    (setOutputs k s).cfg = s.cfg := rfl
@[simp] theorem setOutputs_table (k : Slot) (s : State) :
    (setOutputs k s).table = s.table := rfl
@[simp] theorem setOutputs_timer (k : Slot) (s : State) :
    (setOutputs k s).timer = s.timer := rfl
@[simp] theorem setOutputs_lines (k : Slot) (s : State) :
    (setOutputs k s).lines = s.lines := rfl
@[simp] theorem setOutputs_engine (k : Slot) (s : State) :
    (setOutputs k s).engine = s.engine := rfl
@[simp] theorem setOutputs_sched (k : Slot) (s : State) :
    (setOutputs k s).sched = s.sched := rfl
@[simp] theorem setOutputs_channels (k : Slot) (s : State) :
    (setOutputs k s).channels = s.channels := rfl
@[simp] theorem setOutputs_station (k : Slot) (s : State) :
    (setOutputs k s).station = s.station := rfl
@[simp] theorem setOutputs_port (k : Slot) (s : State) :
    (setOutputs k s).port = s.port := rfl
@[simp] theorem setOutputs_pending (k : Slot) (s : State) :
    (setOutputs k s).pending = s.pending := rfl

/-! ### `clearDrive` -/

@[simp] theorem clearDrive_inputs (c : ChannelId) (s : State) :
    (clearDrive c s).inputs = s.inputs := rfl
@[simp] theorem clearDrive_cfg (c : ChannelId) (s : State) :
    (clearDrive c s).cfg = s.cfg := rfl
@[simp] theorem clearDrive_table (c : ChannelId) (s : State) :
    (clearDrive c s).table = s.table := rfl
@[simp] theorem clearDrive_timer (c : ChannelId) (s : State) :
    (clearDrive c s).timer = s.timer := rfl
@[simp] theorem clearDrive_lines (c : ChannelId) (s : State) :
    (clearDrive c s).lines = s.lines := rfl
@[simp] theorem clearDrive_engine (c : ChannelId) (s : State) :
    (clearDrive c s).engine = s.engine := rfl
@[simp] theorem clearDrive_sched (c : ChannelId) (s : State) :
    (clearDrive c s).sched = s.sched := rfl
@[simp] theorem clearDrive_channels (c : ChannelId) (s : State) :
    (clearDrive c s).channels = s.channels := rfl
@[simp] theorem clearDrive_drive (c : ChannelId) (s : State) :
    (clearDrive c s).drive = { table := s.drive.table.set c none, outputs := s.drive.outputs.set c false } := rfl
@[simp] theorem clearDrive_station (c : ChannelId) (s : State) :
    (clearDrive c s).station = s.station := rfl
@[simp] theorem clearDrive_port (c : ChannelId) (s : State) :
    (clearDrive c s).port = s.port := rfl
@[simp] theorem clearDrive_pending (c : ChannelId) (s : State) :
    (clearDrive c s).pending = s.pending := rfl

/-! ### `clearAllDrive` -/

@[simp] theorem clearAllDrive_inputs (s : State) :
    (clearAllDrive s).inputs = s.inputs := rfl
@[simp] theorem clearAllDrive_cfg (s : State) :
    (clearAllDrive s).cfg = s.cfg := rfl
@[simp] theorem clearAllDrive_table (s : State) :
    (clearAllDrive s).table = s.table := rfl
@[simp] theorem clearAllDrive_timer (s : State) :
    (clearAllDrive s).timer = s.timer := rfl
@[simp] theorem clearAllDrive_lines (s : State) :
    (clearAllDrive s).lines = s.lines := rfl
@[simp] theorem clearAllDrive_engine (s : State) :
    (clearAllDrive s).engine = s.engine := rfl
@[simp] theorem clearAllDrive_sched (s : State) :
    (clearAllDrive s).sched = s.sched := rfl
@[simp] theorem clearAllDrive_channels (s : State) :
    (clearAllDrive s).channels = s.channels := rfl
@[simp] theorem clearAllDrive_drive (s : State) :
    (clearAllDrive s).drive = .reset := rfl
@[simp] theorem clearAllDrive_station (s : State) :
    (clearAllDrive s).station = s.station := rfl
@[simp] theorem clearAllDrive_port (s : State) :
    (clearAllDrive s).port = s.port := rfl
@[simp] theorem clearAllDrive_pending (s : State) :
    (clearAllDrive s).pending = s.pending := rfl

/-! ### `setStation` -/

@[simp] theorem setStation_inputs (st : StationState) (cause : Cause) (s : State) :
    (setStation st cause s).inputs = s.inputs := rfl
@[simp] theorem setStation_cfg (st : StationState) (cause : Cause) (s : State) :
    (setStation st cause s).cfg = s.cfg := rfl
@[simp] theorem setStation_table (st : StationState) (cause : Cause) (s : State) :
    (setStation st cause s).table = s.table := rfl
@[simp] theorem setStation_timer (st : StationState) (cause : Cause) (s : State) :
    (setStation st cause s).timer = s.timer := rfl
@[simp] theorem setStation_lines (st : StationState) (cause : Cause) (s : State) :
    (setStation st cause s).lines = s.lines := rfl
@[simp] theorem setStation_engine (st : StationState) (cause : Cause) (s : State) :
    (setStation st cause s).engine = s.engine := rfl
@[simp] theorem setStation_sched (st : StationState) (cause : Cause) (s : State) :
    (setStation st cause s).sched = s.sched := rfl
@[simp] theorem setStation_channels (st : StationState) (cause : Cause) (s : State) :
    (setStation st cause s).channels = s.channels := rfl
@[simp] theorem setStation_drive (st : StationState) (cause : Cause) (s : State) :
    (setStation st cause s).drive = s.drive := rfl
@[simp] theorem setStation_station (st : StationState) (cause : Cause) (s : State) :
    (setStation st cause s).station = { s.station with state := st, cause := cause, opened := false, count := 0, traffic := false, rollcall := .none } := rfl
@[simp] theorem setStation_port (st : StationState) (cause : Cause) (s : State) :
    (setStation st cause s).port = s.port := rfl
@[simp] theorem setStation_pending (st : StationState) (cause : Cause) (s : State) :
    (setStation st cause s).pending = s.pending := rfl

/-! ### `startTimer` -/

@[simp] theorem startTimer_inputs (s : State) :
    (startTimer s).inputs = s.inputs := rfl
@[simp] theorem startTimer_cfg (s : State) :
    (startTimer s).cfg = s.cfg := rfl
@[simp] theorem startTimer_table (s : State) :
    (startTimer s).table = s.table := rfl
@[simp] theorem startTimer_timer (s : State) :
    (startTimer s).timer = { running := true, localTime := 0, slotIndex := 0, cycleCounter := 0, syncAcquired := false } := rfl
@[simp] theorem startTimer_lines (s : State) :
    (startTimer s).lines = s.lines := rfl
@[simp] theorem startTimer_engine (s : State) :
    (startTimer s).engine = s.engine := rfl
@[simp] theorem startTimer_sched (s : State) :
    (startTimer s).sched = s.sched := rfl
@[simp] theorem startTimer_channels (s : State) :
    (startTimer s).channels = s.channels := rfl
@[simp] theorem startTimer_drive (s : State) :
    (startTimer s).drive = s.drive := rfl
@[simp] theorem startTimer_station (s : State) :
    (startTimer s).station = s.station := rfl
@[simp] theorem startTimer_port (s : State) :
    (startTimer s).port = s.port := rfl
@[simp] theorem startTimer_pending (s : State) :
    (startTimer s).pending = s.pending := rfl

/-! ### `awaitSync` -/

@[simp] theorem awaitSync_inputs (s : State) :
    (awaitSync s).inputs = s.inputs := rfl
@[simp] theorem awaitSync_cfg (s : State) :
    (awaitSync s).cfg = s.cfg := rfl
@[simp] theorem awaitSync_table (s : State) :
    (awaitSync s).table = s.table := rfl
@[simp] theorem awaitSync_timer (s : State) :
    (awaitSync s).timer = s.timer := rfl
@[simp] theorem awaitSync_lines (s : State) :
    (awaitSync s).lines = { s.lines with dataDriving := false } := rfl
@[simp] theorem awaitSync_engine (s : State) :
    (awaitSync s).engine = { s.engine with framing := .awaitSync, ending := none, frame := none, objection := none, verdict := none } := rfl
@[simp] theorem awaitSync_sched (s : State) :
    (awaitSync s).sched = s.sched := rfl
@[simp] theorem awaitSync_channels (s : State) :
    (awaitSync s).channels = s.channels := rfl
@[simp] theorem awaitSync_drive (s : State) :
    (awaitSync s).drive = s.drive := rfl
@[simp] theorem awaitSync_station (s : State) :
    (awaitSync s).station = s.station := rfl
@[simp] theorem awaitSync_port (s : State) :
    (awaitSync s).port = s.port := rfl
@[simp] theorem awaitSync_pending (s : State) :
    (awaitSync s).pending = s.pending := rfl

/-! ### `enterListen` -/

@[simp] theorem enterListen_inputs (cause : Cause) (s : State) :
    (enterListen cause s).inputs = s.inputs := rfl
@[simp] theorem enterListen_cfg (cause : Cause) (s : State) :
    (enterListen cause s).cfg = s.cfg := rfl
@[simp] theorem enterListen_table (cause : Cause) (s : State) :
    (enterListen cause s).table = .reset := rfl
@[simp] theorem enterListen_timer (cause : Cause) (s : State) :
    (enterListen cause s).timer = s.timer := rfl
@[simp] theorem enterListen_lines (cause : Cause) (s : State) :
    (enterListen cause s).lines = { s.lines with dataDriving := false } := rfl
@[simp] theorem enterListen_engine (cause : Cause) (s : State) :
    (enterListen cause s).engine = { s.engine with framing := .awaitSync, ending := none, frame := none, objection := none, verdict := none } := rfl
@[simp] theorem enterListen_sched (cause : Cause) (s : State) :
    (enterListen cause s).sched = { s.sched with queue := offerTo s.sched.queue .rollcall } := rfl
@[simp] theorem enterListen_channels (cause : Cause) (s : State) :
    (enterListen cause s).channels = s.channels := rfl
@[simp] theorem enterListen_drive (cause : Cause) (s : State) :
    (enterListen cause s).drive = s.drive := rfl
@[simp] theorem enterListen_station (cause : Cause) (s : State) :
    (enterListen cause s).station = { s.station with state := .listen, cause := cause, opened := false, count := 0, traffic := false, rollcall := .none } := rfl
@[simp] theorem enterListen_port (cause : Cause) (s : State) :
    (enterListen cause s).port = s.port := rfl
@[simp] theorem enterListen_pending (cause : Cause) (s : State) :
    (enterListen cause s).pending = s.pending := rfl

/-! ### `enterLeaving` -/

@[simp] theorem enterLeaving_inputs (s : State) :
    (enterLeaving s).inputs = s.inputs := rfl
@[simp] theorem enterLeaving_cfg (s : State) :
    (enterLeaving s).cfg = s.cfg := rfl
@[simp] theorem enterLeaving_table (s : State) :
    (enterLeaving s).table = s.table := rfl
@[simp] theorem enterLeaving_timer (s : State) :
    (enterLeaving s).timer = s.timer := rfl
@[simp] theorem enterLeaving_lines (s : State) :
    (enterLeaving s).lines = s.lines := rfl
@[simp] theorem enterLeaving_engine (s : State) :
    (enterLeaving s).engine = s.engine := rfl
@[simp] theorem enterLeaving_sched (s : State) :
    (enterLeaving s).sched = { s.sched with queue := offerTo (removeEntries Request.isClaim s.sched.queue) .announce } := rfl
@[simp] theorem enterLeaving_drive (s : State) :
    (enterLeaving s).drive = s.drive := rfl
@[simp] theorem enterLeaving_station (s : State) :
    (enterLeaving s).station = { s.station with state := .leaving, cause := .request, opened := false, count := 0, traffic := false, rollcall := .none } := rfl
@[simp] theorem enterLeaving_port (s : State) :
    (enterLeaving s).port = s.port := rfl
@[simp] theorem enterLeaving_pending (s : State) :
    (enterLeaving s).pending = s.pending := rfl

/-! ### `enterQuiet` -/

@[simp] theorem enterQuiet_inputs (s : State) :
    (enterQuiet s).inputs = s.inputs := rfl
@[simp] theorem enterQuiet_cfg (s : State) :
    (enterQuiet s).cfg = s.cfg := rfl
@[simp] theorem enterQuiet_table (s : State) :
    (enterQuiet s).table = s.table := rfl
@[simp] theorem enterQuiet_timer (s : State) :
    (enterQuiet s).timer = s.timer := rfl
@[simp] theorem enterQuiet_lines (s : State) :
    (enterQuiet s).lines = s.lines := rfl
@[simp] theorem enterQuiet_engine (s : State) :
    (enterQuiet s).engine = s.engine := rfl
@[simp] theorem enterQuiet_sched (s : State) :
    (enterQuiet s).sched = { s.sched with queue := [] } := rfl
@[simp] theorem enterQuiet_channels (s : State) :
    (enterQuiet s).channels = s.channels.map Channel.unspan := rfl
@[simp] theorem enterQuiet_drive (s : State) :
    (enterQuiet s).drive = .reset := rfl
@[simp] theorem enterQuiet_station (s : State) :
    (enterQuiet s).station = { s.station with state := .quiet, cause := .closed, opened := false, count := 0, traffic := false, rollcall := .none, quietStale := false } := rfl
@[simp] theorem enterQuiet_port (s : State) :
    (enterQuiet s).port = s.port.post ⟨.quietEntered, .address s.cfg.address, s.timer.cycleCounter⟩ := rfl
@[simp] theorem enterQuiet_pending (s : State) :
    (enterQuiet s).pending = s.pending := rfl

/-! ### `shutDown` -/

@[simp] theorem shutDown_inputs (st : StationState) (cause : Cause) (s : State) :
    (shutDown st cause s).inputs = s.inputs := rfl
@[simp] theorem shutDown_cfg (st : StationState) (cause : Cause) (s : State) :
    (shutDown st cause s).cfg = s.cfg := rfl
@[simp] theorem shutDown_table (st : StationState) (cause : Cause) (s : State) :
    (shutDown st cause s).table = .reset := rfl
@[simp] theorem shutDown_timer (st : StationState) (cause : Cause) (s : State) :
    (shutDown st cause s).timer = { s.timer with running := false, localTime := 0, slotIndex := 0, syncAcquired := false } := rfl
@[simp] theorem shutDown_lines (st : StationState) (cause : Cause) (s : State) :
    (shutDown st cause s).lines = { s.lines with syncDriving := false, pulseTime := 0, dataDriving := false, idleTime := 0 } := rfl
@[simp] theorem shutDown_engine (st : StationState) (cause : Cause) (s : State) :
    (shutDown st cause s).engine = { s.engine with framing := .off, ending := none, frame := none, objection := none, verdict := none, transmission := .none, request := none } := rfl
@[simp] theorem shutDown_sched (st : StationState) (cause : Cause) (s : State) :
    (shutDown st cause s).sched = .reset := rfl
@[simp] theorem shutDown_channels (st : StationState) (cause : Cause) (s : State) :
    (shutDown st cause s).channels = s.channels.map Channel.unspan := rfl
@[simp] theorem shutDown_drive (st : StationState) (cause : Cause) (s : State) :
    (shutDown st cause s).drive = .reset := rfl
@[simp] theorem shutDown_station (st : StationState) (cause : Cause) (s : State) :
    (shutDown st cause s).station = { s.station with state := st, cause := cause, opened := false, count := 0, traffic := false, rollcall := .none } := rfl
@[simp] theorem shutDown_port (st : StationState) (cause : Cause) (s : State) :
    (shutDown st cause s).port = s.port := rfl
@[simp] theorem shutDown_pending (st : StationState) (cause : Cause) (s : State) :
    (shutDown st cause s).pending = s.pending := rfl

/-! ### `endTransmission` -/

@[simp] theorem endTransmission_inputs (s : State) :
    (endTransmission s).inputs = s.inputs := rfl
@[simp] theorem endTransmission_cfg (s : State) :
    (endTransmission s).cfg = s.cfg := rfl
@[simp] theorem endTransmission_table (s : State) :
    (endTransmission s).table = s.table := rfl
@[simp] theorem endTransmission_timer (s : State) :
    (endTransmission s).timer = s.timer := rfl
@[simp] theorem endTransmission_lines (s : State) :
    (endTransmission s).lines = { s.lines with dataDriving := false } := rfl
@[simp] theorem endTransmission_engine (s : State) :
    (endTransmission s).engine = { s.engine with transmission := .none, request := none } := rfl
@[simp] theorem endTransmission_sched (s : State) :
    (endTransmission s).sched = s.sched := rfl
@[simp] theorem endTransmission_channels (s : State) :
    (endTransmission s).channels = s.channels := rfl
@[simp] theorem endTransmission_drive (s : State) :
    (endTransmission s).drive = s.drive := rfl
@[simp] theorem endTransmission_station (s : State) :
    (endTransmission s).station = s.station := rfl
@[simp] theorem endTransmission_port (s : State) :
    (endTransmission s).port = s.port := rfl
@[simp] theorem endTransmission_pending (s : State) :
    (endTransmission s).pending = s.pending := rfl

/-! ### `ownCommitted` -/

@[simp] theorem ownCommitted_inputs (f : List QueueEntry → List QueueEntry) (s : State) :
    (ownCommitted f s).inputs = s.inputs := rfl
@[simp] theorem ownCommitted_cfg (f : List QueueEntry → List QueueEntry) (s : State) :
    (ownCommitted f s).cfg = s.cfg := rfl
@[simp] theorem ownCommitted_table (f : List QueueEntry → List QueueEntry) (s : State) :
    (ownCommitted f s).table = s.table := rfl
@[simp] theorem ownCommitted_timer (f : List QueueEntry → List QueueEntry) (s : State) :
    (ownCommitted f s).timer = s.timer := rfl
@[simp] theorem ownCommitted_lines (f : List QueueEntry → List QueueEntry) (s : State) :
    (ownCommitted f s).lines = s.lines := rfl
@[simp] theorem ownCommitted_engine (f : List QueueEntry → List QueueEntry) (s : State) :
    (ownCommitted f s).engine = s.engine := rfl
@[simp] theorem ownCommitted_sched (f : List QueueEntry → List QueueEntry) (s : State) :
    (ownCommitted f s).sched = { queue := f s.sched.queue, composed := none, voids := 0 } := rfl
@[simp] theorem ownCommitted_channels (f : List QueueEntry → List QueueEntry) (s : State) :
    (ownCommitted f s).channels = s.channels := rfl
@[simp] theorem ownCommitted_drive (f : List QueueEntry → List QueueEntry) (s : State) :
    (ownCommitted f s).drive = s.drive := rfl
@[simp] theorem ownCommitted_station (f : List QueueEntry → List QueueEntry) (s : State) :
    (ownCommitted f s).station = s.station := rfl
@[simp] theorem ownCommitted_port (f : List QueueEntry → List QueueEntry) (s : State) :
    (ownCommitted f s).port = s.port := rfl
@[simp] theorem ownCommitted_pending (f : List QueueEntry → List QueueEntry) (s : State) :
    (ownCommitted f s).pending = s.pending := rfl

/-! ### `fallSync` -/

@[simp] theorem fallSync_inputs (hold : Nat) (s : State) :
    (fallSync hold s).inputs = s.inputs := rfl
@[simp] theorem fallSync_cfg (hold : Nat) (s : State) :
    (fallSync hold s).cfg = s.cfg := rfl
@[simp] theorem fallSync_table (hold : Nat) (s : State) :
    (fallSync hold s).table = s.table := rfl
@[simp] theorem fallSync_timer (hold : Nat) (s : State) :
    (fallSync hold s).timer = s.timer := rfl
@[simp] theorem fallSync_lines (hold : Nat) (s : State) :
    (fallSync hold s).lines = { s.lines with syncLow := true, syncLowTime := 0, syncHighTime := 0, syncHold := hold, idleTime := 0 } := rfl
@[simp] theorem fallSync_engine (hold : Nat) (s : State) :
    (fallSync hold s).engine = s.engine := rfl
@[simp] theorem fallSync_sched (hold : Nat) (s : State) :
    (fallSync hold s).sched = s.sched := rfl
@[simp] theorem fallSync_channels (hold : Nat) (s : State) :
    (fallSync hold s).channels = s.channels := rfl
@[simp] theorem fallSync_drive (hold : Nat) (s : State) :
    (fallSync hold s).drive = s.drive := rfl
@[simp] theorem fallSync_station (hold : Nat) (s : State) :
    (fallSync hold s).station = s.station := rfl
@[simp] theorem fallSync_port (hold : Nat) (s : State) :
    (fallSync hold s).port = s.port := rfl
@[simp] theorem fallSync_pending (hold : Nat) (s : State) :
    (fallSync hold s).pending = s.pending := rfl

/-! ### `fallData` -/

@[simp] theorem fallData_inputs (hold : Nat) (s : State) :
    (fallData hold s).inputs = s.inputs := rfl
@[simp] theorem fallData_cfg (hold : Nat) (s : State) :
    (fallData hold s).cfg = s.cfg := rfl
@[simp] theorem fallData_table (hold : Nat) (s : State) :
    (fallData hold s).table = s.table := rfl
@[simp] theorem fallData_timer (hold : Nat) (s : State) :
    (fallData hold s).timer = s.timer := rfl
@[simp] theorem fallData_lines (hold : Nat) (s : State) :
    (fallData hold s).lines = { s.lines with dataDominant := true, dominantTime := 0, dataHold := hold, idleTime := 0 } := rfl
@[simp] theorem fallData_engine (hold : Nat) (s : State) :
    (fallData hold s).engine = s.engine := rfl
@[simp] theorem fallData_sched (hold : Nat) (s : State) :
    (fallData hold s).sched = s.sched := rfl
@[simp] theorem fallData_channels (hold : Nat) (s : State) :
    (fallData hold s).channels = s.channels := rfl
@[simp] theorem fallData_drive (hold : Nat) (s : State) :
    (fallData hold s).drive = s.drive := rfl
@[simp] theorem fallData_station (hold : Nat) (s : State) :
    (fallData hold s).station = s.station := rfl
@[simp] theorem fallData_port (hold : Nat) (s : State) :
    (fallData hold s).port = s.port := rfl
@[simp] theorem fallData_pending (hold : Nat) (s : State) :
    (fallData hold s).pending = s.pending := rfl

/-! ### `openFrame` -/

@[simp] theorem openFrame_inputs (s : State) :
    (openFrame s).inputs = s.inputs := rfl
@[simp] theorem openFrame_cfg (s : State) :
    (openFrame s).cfg = s.cfg := rfl
@[simp] theorem openFrame_table (s : State) :
    (openFrame s).table = s.table := rfl
@[simp] theorem openFrame_timer (s : State) :
    (openFrame s).timer = s.timer := rfl
@[simp] theorem openFrame_lines (s : State) :
    (openFrame s).lines = s.lines := rfl
@[simp] theorem openFrame_engine (s : State) :
    (openFrame s).engine = { s.engine with framing := .frame, frame := some { read := [], elapsed := 0 }, accumulator := 0xFF, objection := none, verdict := none } := rfl
@[simp] theorem openFrame_sched (s : State) :
    (openFrame s).sched = s.sched := rfl
@[simp] theorem openFrame_channels (s : State) :
    (openFrame s).channels = s.channels := rfl
@[simp] theorem openFrame_drive (s : State) :
    (openFrame s).drive = s.drive := rfl
@[simp] theorem openFrame_station (s : State) :
    (openFrame s).station = s.station := rfl
@[simp] theorem openFrame_port (s : State) :
    (openFrame s).port = s.port := rfl
@[simp] theorem openFrame_pending (s : State) :
    (openFrame s).pending = s.pending := rfl

/-! ### `stopDriving` -/

@[simp] theorem stopDriving_inputs (s : State) :
    (stopDriving s).inputs = s.inputs := rfl
@[simp] theorem stopDriving_cfg (s : State) :
    (stopDriving s).cfg = s.cfg := rfl
@[simp] theorem stopDriving_table (s : State) :
    (stopDriving s).table = s.table := rfl
@[simp] theorem stopDriving_timer (s : State) :
    (stopDriving s).timer = s.timer := rfl
@[simp] theorem stopDriving_lines (s : State) :
    (stopDriving s).lines = { s.lines with dataDriving := false } := rfl
@[simp] theorem stopDriving_engine (s : State) :
    (stopDriving s).engine = { s.engine with transmission := .stopped } := rfl
@[simp] theorem stopDriving_sched (s : State) :
    (stopDriving s).sched = s.sched := rfl
@[simp] theorem stopDriving_channels (s : State) :
    (stopDriving s).channels = s.channels := rfl
@[simp] theorem stopDriving_drive (s : State) :
    (stopDriving s).drive = s.drive := rfl
@[simp] theorem stopDriving_station (s : State) :
    (stopDriving s).station = s.station := rfl
@[simp] theorem stopDriving_port (s : State) :
    (stopDriving s).port = s.port := rfl
@[simp] theorem stopDriving_pending (s : State) :
    (stopDriving s).pending = s.pending := rfl

/-! ### `alignFrame` -/

@[simp] theorem alignFrame_inputs (s : State) :
    (alignFrame s).inputs = s.inputs := rfl
@[simp] theorem alignFrame_cfg (s : State) :
    (alignFrame s).cfg = s.cfg := rfl
@[simp] theorem alignFrame_table (s : State) :
    (alignFrame s).table = s.table := rfl
@[simp] theorem alignFrame_timer (s : State) :
    (alignFrame s).timer = s.timer := rfl
@[simp] theorem alignFrame_lines (s : State) :
    (alignFrame s).lines = s.lines := rfl
@[simp] theorem alignFrame_engine (s : State) :
    (alignFrame s).engine = { s.engine with frame := s.engine.frame.map fun f => { f with elapsed := (f.elapsed + s.bits 1 / 2) / s.bits 1 * s.bits 1 } } := rfl
@[simp] theorem alignFrame_sched (s : State) :
    (alignFrame s).sched = s.sched := rfl
@[simp] theorem alignFrame_channels (s : State) :
    (alignFrame s).channels = s.channels := rfl
@[simp] theorem alignFrame_drive (s : State) :
    (alignFrame s).drive = s.drive := rfl
@[simp] theorem alignFrame_station (s : State) :
    (alignFrame s).station = s.station := rfl
@[simp] theorem alignFrame_port (s : State) :
    (alignFrame s).port = s.port := rfl
@[simp] theorem alignFrame_pending (s : State) :
    (alignFrame s).pending = s.pending := rfl

/-! ### `alignEnd` -/

@[simp] theorem alignEnd_inputs (s : State) :
    (alignEnd s).inputs = s.inputs := rfl
@[simp] theorem alignEnd_cfg (s : State) :
    (alignEnd s).cfg = s.cfg := rfl
@[simp] theorem alignEnd_table (s : State) :
    (alignEnd s).table = s.table := rfl
@[simp] theorem alignEnd_timer (s : State) :
    (alignEnd s).timer = s.timer := rfl
@[simp] theorem alignEnd_lines (s : State) :
    (alignEnd s).lines = s.lines := rfl
@[simp] theorem alignEnd_engine (s : State) :
    (alignEnd s).engine = { s.engine with ending := s.engine.ending.bind (EndRecord.align (s.bits 1)) } := rfl
@[simp] theorem alignEnd_sched (s : State) :
    (alignEnd s).sched = s.sched := rfl
@[simp] theorem alignEnd_channels (s : State) :
    (alignEnd s).channels = s.channels := rfl
@[simp] theorem alignEnd_drive (s : State) :
    (alignEnd s).drive = s.drive := rfl
@[simp] theorem alignEnd_station (s : State) :
    (alignEnd s).station = s.station := rfl
@[simp] theorem alignEnd_port (s : State) :
    (alignEnd s).port = s.port := rfl
@[simp] theorem alignEnd_pending (s : State) :
    (alignEnd s).pending = s.pending := rfl

/-! ### `readMessage` -/

@[simp] theorem readMessage_inputs (m : Message) (check : BitVec 8) (object : Bool) (s : State) :
    (readMessage m check object s).inputs = s.inputs := rfl
@[simp] theorem readMessage_cfg (m : Message) (check : BitVec 8) (object : Bool) (s : State) :
    (readMessage m check object s).cfg = s.cfg := rfl
@[simp] theorem readMessage_table (m : Message) (check : BitVec 8) (object : Bool) (s : State) :
    (readMessage m check object s).table = s.table := rfl
@[simp] theorem readMessage_timer (m : Message) (check : BitVec 8) (object : Bool) (s : State) :
    (readMessage m check object s).timer = s.timer := rfl
@[simp] theorem readMessage_lines (m : Message) (check : BitVec 8) (object : Bool) (s : State) :
    (readMessage m check object s).lines = s.lines := rfl
@[simp] theorem readMessage_engine (m : Message) (check : BitVec 8) (object : Bool) (s : State) :
    (readMessage m check object s).engine = { s.engine with accumulator := m.check, frame := s.engine.frame.map fun f => { f with read := m.read check ++ [object] }, objection := some (m.objection check) } := rfl
@[simp] theorem readMessage_sched (m : Message) (check : BitVec 8) (object : Bool) (s : State) :
    (readMessage m check object s).sched = s.sched := rfl
@[simp] theorem readMessage_channels (m : Message) (check : BitVec 8) (object : Bool) (s : State) :
    (readMessage m check object s).channels = s.channels := rfl
@[simp] theorem readMessage_drive (m : Message) (check : BitVec 8) (object : Bool) (s : State) :
    (readMessage m check object s).drive = s.drive := rfl
@[simp] theorem readMessage_station (m : Message) (check : BitVec 8) (object : Bool) (s : State) :
    (readMessage m check object s).station = s.station := rfl
@[simp] theorem readMessage_port (m : Message) (check : BitVec 8) (object : Bool) (s : State) :
    (readMessage m check object s).port = s.port := rfl
@[simp] theorem readMessage_pending (m : Message) (check : BitVec 8) (object : Bool) (s : State) :
    (readMessage m check object s).pending = s.pending := rfl

/-! ### `endFrame` -/

@[simp] theorem endFrame_inputs (s : State) :
    (endFrame s).inputs = s.inputs := rfl
@[simp] theorem endFrame_cfg (s : State) :
    (endFrame s).cfg = s.cfg := rfl
@[simp] theorem endFrame_table (s : State) :
    (endFrame s).table = s.table := rfl
@[simp] theorem endFrame_timer (s : State) :
    (endFrame s).timer = s.timer := rfl
@[simp] theorem endFrame_lines (s : State) :
    (endFrame s).lines = { s.lines with dataDriving := false } := rfl
@[simp] theorem endFrame_engine (s : State) :
    (endFrame s).engine = { s.engine with framing := .gap, recessiveTime := 0, ending := some { elapsed := 0, dominant := false }, frame := none, objection := none, verdict := none } := rfl
@[simp] theorem endFrame_sched (s : State) :
    (endFrame s).sched = s.sched := rfl
@[simp] theorem endFrame_channels (s : State) :
    (endFrame s).channels = s.channels := rfl
@[simp] theorem endFrame_drive (s : State) :
    (endFrame s).drive = s.drive := rfl
@[simp] theorem endFrame_station (s : State) :
    (endFrame s).station = s.station := rfl
@[simp] theorem endFrame_port (s : State) :
    (endFrame s).port = s.port := rfl
@[simp] theorem endFrame_pending (s : State) :
    (endFrame s).pending = s.pending := rfl

/-! ### `edgeTimer` -/

@[simp] theorem edgeTimer_inputs (s : State) :
    (edgeTimer s).inputs = s.inputs := rfl
@[simp] theorem edgeTimer_cfg (s : State) :
    (edgeTimer s).cfg = s.cfg := rfl
@[simp] theorem edgeTimer_table (s : State) :
    (edgeTimer s).table = s.table := rfl
@[simp] theorem edgeTimer_timer (s : State) :
    (edgeTimer s).timer = { s.timer with localTime := 0, slotIndex := 0, cycleCounter := s.timer.cycleCounter + 1, syncAcquired := true } := rfl
@[simp] theorem edgeTimer_lines (s : State) :
    (edgeTimer s).lines = s.lines := rfl
@[simp] theorem edgeTimer_engine (s : State) :
    (edgeTimer s).engine = s.engine := rfl
@[simp] theorem edgeTimer_sched (s : State) :
    (edgeTimer s).sched = s.sched := rfl
@[simp] theorem edgeTimer_channels (s : State) :
    (edgeTimer s).channels = s.channels := rfl
@[simp] theorem edgeTimer_drive (s : State) :
    (edgeTimer s).drive = s.drive := rfl
@[simp] theorem edgeTimer_station (s : State) :
    (edgeTimer s).station = s.station := rfl
@[simp] theorem edgeTimer_port (s : State) :
    (edgeTimer s).port = s.port := rfl
@[simp] theorem edgeTimer_pending (s : State) :
    (edgeTimer s).pending = s.pending := rfl

/-! ### `openWindow` -/

@[simp] theorem openWindow_inputs (s : State) :
    (openWindow s).inputs = s.inputs := rfl
@[simp] theorem openWindow_cfg (s : State) :
    (openWindow s).cfg = s.cfg := rfl
@[simp] theorem openWindow_table (s : State) :
    (openWindow s).table = s.table := rfl
@[simp] theorem openWindow_timer (s : State) :
    (openWindow s).timer = s.timer := rfl
@[simp] theorem openWindow_lines (s : State) :
    (openWindow s).lines = s.lines := rfl
@[simp] theorem openWindow_engine (s : State) :
    (openWindow s).engine = s.engine := rfl
@[simp] theorem openWindow_sched (s : State) :
    (openWindow s).sched = s.sched := rfl
@[simp] theorem openWindow_channels (s : State) :
    (openWindow s).channels = s.channels := rfl
@[simp] theorem openWindow_drive (s : State) :
    (openWindow s).drive = s.drive := rfl
@[simp] theorem openWindow_station (s : State) :
    (openWindow s).station = { s.station with opened := true } := rfl
@[simp] theorem openWindow_port (s : State) :
    (openWindow s).port = s.port := rfl
@[simp] theorem openWindow_pending (s : State) :
    (openWindow s).pending = s.pending := rfl

/-! ### `continueWindow` -/

@[simp] theorem continueWindow_inputs (s : State) :
    (continueWindow s).inputs = s.inputs := rfl
@[simp] theorem continueWindow_cfg (s : State) :
    (continueWindow s).cfg = s.cfg := rfl
@[simp] theorem continueWindow_table (s : State) :
    (continueWindow s).table = s.table := rfl
@[simp] theorem continueWindow_timer (s : State) :
    (continueWindow s).timer = s.timer := rfl
@[simp] theorem continueWindow_lines (s : State) :
    (continueWindow s).lines = s.lines := rfl
@[simp] theorem continueWindow_engine (s : State) :
    (continueWindow s).engine = s.engine := rfl
@[simp] theorem continueWindow_sched (s : State) :
    (continueWindow s).sched = s.sched := rfl
@[simp] theorem continueWindow_channels (s : State) :
    (continueWindow s).channels = s.channels := rfl
@[simp] theorem continueWindow_drive (s : State) :
    (continueWindow s).drive = s.drive := rfl
@[simp] theorem continueWindow_port (s : State) :
    (continueWindow s).port = s.port := rfl
@[simp] theorem continueWindow_pending (s : State) :
    (continueWindow s).pending = s.pending := rfl

/-! ### `startSlot` -/

@[simp] theorem startSlot_inputs (s : State) :
    (startSlot s).inputs = s.inputs := rfl
@[simp] theorem startSlot_cfg (s : State) :
    (startSlot s).cfg = s.cfg := rfl
@[simp] theorem startSlot_table (s : State) :
    (startSlot s).table = s.table := rfl
@[simp] theorem startSlot_timer (s : State) :
    (startSlot s).timer = { s.timer with slotIndex := s.timer.slotIndex + 1 } := rfl
@[simp] theorem startSlot_lines (s : State) :
    (startSlot s).lines = s.lines := rfl
@[simp] theorem startSlot_engine (s : State) :
    (startSlot s).engine = s.engine := rfl
@[simp] theorem startSlot_sched (s : State) :
    (startSlot s).sched = s.sched := rfl
@[simp] theorem startSlot_channels (s : State) :
    (startSlot s).channels = s.channels := rfl
@[simp] theorem startSlot_station (s : State) :
    (startSlot s).station = s.station := rfl
@[simp] theorem startSlot_port (s : State) :
    (startSlot s).port = s.port := rfl
@[simp] theorem startSlot_pending (s : State) :
    (startSlot s).pending = s.pending := rfl

/-! ### `startPulse` -/

@[simp] theorem startPulse_inputs (s : State) :
    (startPulse s).inputs = s.inputs := rfl
@[simp] theorem startPulse_cfg (s : State) :
    (startPulse s).cfg = s.cfg := rfl
@[simp] theorem startPulse_table (s : State) :
    (startPulse s).table = s.table := rfl
@[simp] theorem startPulse_timer (s : State) :
    (startPulse s).timer = s.timer := rfl
@[simp] theorem startPulse_lines (s : State) :
    (startPulse s).lines = { s.lines with syncDriving := true, pulseTime := 0 } := rfl
@[simp] theorem startPulse_engine (s : State) :
    (startPulse s).engine = s.engine := rfl
@[simp] theorem startPulse_sched (s : State) :
    (startPulse s).sched = s.sched := rfl
@[simp] theorem startPulse_channels (s : State) :
    (startPulse s).channels = s.channels := rfl
@[simp] theorem startPulse_drive (s : State) :
    (startPulse s).drive = s.drive := rfl
@[simp] theorem startPulse_station (s : State) :
    (startPulse s).station = s.station := rfl
@[simp] theorem startPulse_port (s : State) :
    (startPulse s).port = s.port := rfl
@[simp] theorem startPulse_pending (s : State) :
    (startPulse s).pending = s.pending := rfl

/-! ### `becomeIdle` -/

@[simp] theorem becomeIdle_inputs (s : State) :
    (becomeIdle s).inputs = s.inputs := rfl
@[simp] theorem becomeIdle_cfg (s : State) :
    (becomeIdle s).cfg = s.cfg := rfl
@[simp] theorem becomeIdle_table (s : State) :
    (becomeIdle s).table = s.table := rfl
@[simp] theorem becomeIdle_timer (s : State) :
    (becomeIdle s).timer = s.timer := rfl
@[simp] theorem becomeIdle_lines (s : State) :
    (becomeIdle s).lines = s.lines := rfl
@[simp] theorem becomeIdle_engine (s : State) :
    (becomeIdle s).engine = { s.engine with framing := .idle, ending := none } := rfl
@[simp] theorem becomeIdle_sched (s : State) :
    (becomeIdle s).sched = s.sched := rfl
@[simp] theorem becomeIdle_channels (s : State) :
    (becomeIdle s).channels = s.channels := rfl
@[simp] theorem becomeIdle_drive (s : State) :
    (becomeIdle s).drive = s.drive := rfl
@[simp] theorem becomeIdle_station (s : State) :
    (becomeIdle s).station = s.station := rfl
@[simp] theorem becomeIdle_port (s : State) :
    (becomeIdle s).port = s.port := rfl
@[simp] theorem becomeIdle_pending (s : State) :
    (becomeIdle s).pending = s.pending := rfl

/-! ### `riseSelect` -/

@[simp] theorem riseSelect_inputs (s : State) :
    (riseSelect s).inputs = s.inputs := rfl
@[simp] theorem riseSelect_cfg (s : State) :
    (riseSelect s).cfg = s.cfg := rfl
@[simp] theorem riseSelect_table (s : State) :
    (riseSelect s).table = s.table := rfl
@[simp] theorem riseSelect_timer (s : State) :
    (riseSelect s).timer = s.timer := rfl
@[simp] theorem riseSelect_lines (s : State) :
    (riseSelect s).lines = s.lines := rfl
@[simp] theorem riseSelect_engine (s : State) :
    (riseSelect s).engine = s.engine := rfl
@[simp] theorem riseSelect_sched (s : State) :
    (riseSelect s).sched = s.sched := rfl
@[simp] theorem riseSelect_channels (s : State) :
    (riseSelect s).channels = s.channels := rfl
@[simp] theorem riseSelect_drive (s : State) :
    (riseSelect s).drive = s.drive := rfl
@[simp] theorem riseSelect_station (s : State) :
    (riseSelect s).station = s.station := rfl
@[simp] theorem riseSelect_port (s : State) :
    (riseSelect s).port = { s.port with selectLow := false, phase := .none, pendingRemoval := false } := rfl
@[simp] theorem riseSelect_pending (s : State) :
    (riseSelect s).pending = s.pending := rfl

/-! ### `respond` -/

@[simp] theorem respond_inputs (bytes : List Byte) (s : State) :
    (respond bytes s).inputs = s.inputs := rfl
@[simp] theorem respond_cfg (bytes : List Byte) (s : State) :
    (respond bytes s).cfg = s.cfg := rfl
@[simp] theorem respond_table (bytes : List Byte) (s : State) :
    (respond bytes s).table = s.table := rfl
@[simp] theorem respond_timer (bytes : List Byte) (s : State) :
    (respond bytes s).timer = s.timer := rfl
@[simp] theorem respond_lines (bytes : List Byte) (s : State) :
    (respond bytes s).lines = s.lines := rfl
@[simp] theorem respond_engine (bytes : List Byte) (s : State) :
    (respond bytes s).engine = s.engine := rfl
@[simp] theorem respond_sched (bytes : List Byte) (s : State) :
    (respond bytes s).sched = s.sched := rfl
@[simp] theorem respond_channels (bytes : List Byte) (s : State) :
    (respond bytes s).channels = s.channels := rfl
@[simp] theorem respond_drive (bytes : List Byte) (s : State) :
    (respond bytes s).drive = s.drive := rfl
@[simp] theorem respond_station (bytes : List Byte) (s : State) :
    (respond bytes s).station = s.station := rfl
@[simp] theorem respond_port (bytes : List Byte) (s : State) :
    (respond bytes s).port = { s.port with phase := .reply, reply := bytes, replyPosition := 0 } := rfl
@[simp] theorem respond_pending (bytes : List Byte) (s : State) :
    (respond bytes s).pending = s.pending := rfl

/-! ### `resetKeepingPins` -/

@[simp] theorem resetKeepingPins_inputs (inputs : ResetInputs) (s : State) :
    (resetKeepingPins inputs s).inputs = inputs := rfl
@[simp] theorem resetKeepingPins_cfg (inputs : ResetInputs) (s : State) :
    (resetKeepingPins inputs s).cfg = .reset := rfl
@[simp] theorem resetKeepingPins_table (inputs : ResetInputs) (s : State) :
    (resetKeepingPins inputs s).table = .reset := rfl
@[simp] theorem resetKeepingPins_timer (inputs : ResetInputs) (s : State) :
    (resetKeepingPins inputs s).timer = .reset := rfl
@[simp] theorem resetKeepingPins_engine (inputs : ResetInputs) (s : State) :
    (resetKeepingPins inputs s).engine = .reset := rfl
@[simp] theorem resetKeepingPins_sched (inputs : ResetInputs) (s : State) :
    (resetKeepingPins inputs s).sched = .reset := rfl
@[simp] theorem resetKeepingPins_channels (inputs : ResetInputs) (s : State) :
    (resetKeepingPins inputs s).channels = Vector.replicate 12 .reset := rfl
@[simp] theorem resetKeepingPins_drive (inputs : ResetInputs) (s : State) :
    (resetKeepingPins inputs s).drive = .reset := rfl
@[simp] theorem resetKeepingPins_station (inputs : ResetInputs) (s : State) :
    (resetKeepingPins inputs s).station = .reset := rfl
@[simp] theorem resetKeepingPins_port (inputs : ResetInputs) (s : State) :
    (resetKeepingPins inputs s).port = { LocalPort.reset with selectLow := s.port.selectLow } := rfl
@[simp] theorem resetKeepingPins_pending (inputs : ResetInputs) (s : State) :
    (resetKeepingPins inputs s).pending = s.pending := rfl

/-! ### `passClocks` -/

@[simp] theorem passClocks_inputs (d : Nat) (s : State) :
    (passClocks d s).inputs = s.inputs := rfl
@[simp] theorem passClocks_cfg (d : Nat) (s : State) :
    (passClocks d s).cfg = s.cfg := rfl
@[simp] theorem passClocks_table (d : Nat) (s : State) :
    (passClocks d s).table = s.table := rfl
@[simp] theorem passClocks_timer (d : Nat) (s : State) :
    (passClocks d s).timer = if s.timer.running then { s.timer with localTime := s.timer.localTime + d } else s.timer := rfl
@[simp] theorem passClocks_engine (d : Nat) (s : State) :
    (passClocks d s).engine = s.engine := rfl
@[simp] theorem passClocks_sched (d : Nat) (s : State) :
    (passClocks d s).sched = s.sched := rfl
@[simp] theorem passClocks_channels (d : Nat) (s : State) :
    (passClocks d s).channels = s.channels := rfl
@[simp] theorem passClocks_drive (d : Nat) (s : State) :
    (passClocks d s).drive = s.drive := rfl
@[simp] theorem passClocks_station (d : Nat) (s : State) :
    (passClocks d s).station = s.station := rfl
@[simp] theorem passClocks_port (d : Nat) (s : State) :
    (passClocks d s).port = s.port := rfl
@[simp] theorem passClocks_pending (d : Nat) (s : State) :
    (passClocks d s).pending = s.pending := rfl

/-! ### `passData` -/

@[simp] theorem passData_inputs (pulled : Bool) (d : Nat) (s : State) :
    (passData pulled d s).inputs = s.inputs := rfl
@[simp] theorem passData_cfg (pulled : Bool) (d : Nat) (s : State) :
    (passData pulled d s).cfg = s.cfg := rfl
@[simp] theorem passData_table (pulled : Bool) (d : Nat) (s : State) :
    (passData pulled d s).table = s.table := rfl
@[simp] theorem passData_timer (pulled : Bool) (d : Nat) (s : State) :
    (passData pulled d s).timer = s.timer := rfl
@[simp] theorem passData_engine (pulled : Bool) (d : Nat) (s : State) :
    (passData pulled d s).engine = { s.engine with recessiveTime := s.recessiveAfter d, ending := s.endAfter d, frame := s.engine.frame.map fun f => { f with elapsed := f.elapsed + d } } := rfl
@[simp] theorem passData_sched (pulled : Bool) (d : Nat) (s : State) :
    (passData pulled d s).sched = s.sched := rfl
@[simp] theorem passData_channels (pulled : Bool) (d : Nat) (s : State) :
    (passData pulled d s).channels = s.channels := rfl
@[simp] theorem passData_drive (pulled : Bool) (d : Nat) (s : State) :
    (passData pulled d s).drive = s.drive := rfl
@[simp] theorem passData_station (pulled : Bool) (d : Nat) (s : State) :
    (passData pulled d s).station = s.station := rfl
@[simp] theorem passData_port (pulled : Bool) (d : Nat) (s : State) :
    (passData pulled d s).port = s.port := rfl
@[simp] theorem passData_pending (pulled : Bool) (d : Nat) (s : State) :
    (passData pulled d s).pending = s.pending := rfl

end Sys2Proof.Machine
end

