-- ==== Sys2Proof/Laws/Time.lean ====
section
/-! SUPPORT. What the passing of time can change: the local cycle time and the slot index, the lines and their measures, the frame
and what is read of it, and with a slot start the outputs. `TimeKeeps s t` names all the rest once; every operation that lets time
pass has one lemma that says it. -/

namespace Sys2Proof.Machine

/-- The part of the state that no passing of time changes. -/
def TimeKeeps (s t : State) : Prop :=
  t.inputs = s.inputs ∧ t.cfg = s.cfg ∧ t.table = s.table ∧ t.sched = s.sched ∧ t.channels = s.channels ∧
    t.station = s.station ∧ t.port = s.port ∧ t.pending = s.pending ∧ t.drive.table = s.drive.table ∧
    t.timer.running = s.timer.running ∧ t.timer.cycleCounter = s.timer.cycleCounter ∧
    t.timer.syncAcquired = s.timer.syncAcquired ∧ t.lines.syncDriving = s.lines.syncDriving ∧
    t.engine.framing = s.engine.framing ∧ t.engine.verdict = s.engine.verdict ∧
    t.engine.transmission = s.engine.transmission ∧ t.engine.request = s.engine.request ∧
    t.engine.frame.isSome = s.engine.frame.isSome

theorem TimeKeeps.refl (s : State) : TimeKeeps s s := by simp [TimeKeeps]

theorem TimeKeeps.trans {s t u : State} (h : TimeKeeps s t) (g : TimeKeeps t u) : TimeKeeps s u := by
  unfold TimeKeeps at *
  simp [g, h]

/-- Reading a level changes the frame record, the accumulator and the objection alone. -/
theorem MessageEngine.readLevel_keeps (e : MessageEngine) (level : Bool) :
    (e.readLevel level).framing = e.framing ∧ (e.readLevel level).verdict = e.verdict ∧
      (e.readLevel level).transmission = e.transmission ∧ (e.readLevel level).request = e.request ∧
      (e.readLevel level).recessiveTime = e.recessiveTime ∧ (e.readLevel level).frame.isSome = e.frame.isSome := by
  unfold MessageEngine.readLevel
  cases h : e.frame with
  | none => simp [h]
  | some f => dsimp only; split <;> simp [h]

theorem LineInterface.advanceSync_driving (l : LineInterface) (d : Nat) (b : Bool) :
    (l.advanceSync d b).syncDriving = l.syncDriving := by
  unfold LineInterface.advanceSync; split <;> [split; skip] <;> rfl

theorem LineInterface.advanceData_driving (l : LineInterface) (d : Nat) (b p : Bool) :
    (l.advanceData d b p).syncDriving = l.syncDriving := by
  unfold LineInterface.advanceData; split <;> rfl

theorem passClocks_keeps (d : Nat) (s : State) : TimeKeeps s (passClocks d s) := by
  have := LineInterface.advanceSync_driving s.lines d s.counting
  by_cases h : s.timer.running = true <;> simp [TimeKeeps, h, passClocks, this]

theorem passData_keeps (p : Bool) (d : Nat) (s : State) : TimeKeeps s (passData p d s) := by
  have := LineInterface.advanceData_driving s.lines d s.counting p
  simp [TimeKeeps, passData, this]

theorem readMiddle_keeps (s : State) : TimeKeeps s (readMiddle s) := by
  unfold readMiddle
  split
  · exact .refl s
  · split
    · simp [TimeKeeps, MessageEngine.readLevel_keeps]
    · exact .refl s

theorem passBits_keeps (fuel d : Nat) (s : State) : TimeKeeps s (passBits fuel d s) := by
  induction fuel generalizing d s with
  | zero => exact passData_keeps ..
  | succ n ih =>
    unfold passBits
    split
    · exact passData_keeps ..
    · dsimp only
      split
      · exact passData_keeps ..
      · exact ((passData_keeps ..).trans (readMiddle_keeps _)).trans (ih ..)

theorem elapse_keeps (d : Nat) (s : State) : TimeKeeps s (elapse d s) := (passClocks_keeps ..).trans (passBits_keeps ..)

theorem passSlots_keeps (s : State) : TimeKeeps s (passSlots s) := by
  unfold passSlots
  split <;> simp [TimeKeeps, setOutputs]

/-- `advance` is the passing of time alone. -/
theorem advance_keeps (d : Nat) (s : State) : TimeKeeps s (advance d s) := (elapse_keeps ..).trans (passSlots_keeps _)

/-- `advanceInMessage` is the passing of time alone. -/
theorem advanceInMessage_keeps (d : Nat) (s : State) : TimeKeeps s (advanceInMessage d s) :=
  ((passClocks_keeps ..).trans (passData_keeps ..)).trans (passSlots_keeps _)

/-- `advanceInFrame` is the passing of time alone. -/
theorem advanceInFrame_keeps (t : Nat) (s : State) : TimeKeeps s (advanceInFrame t s) := by
  unfold advanceInFrame
  split
  · exact advanceInMessage_keeps ..
  · exact .refl s

/-- `advanceToBit` is the passing of time alone. -/
theorem advanceToBit_keeps (position : Nat) (s : State) : TimeKeeps s (advanceToBit position s) :=
  advanceInFrame_keeps ..

/-! ## Local cycle time and the slot index -/

/-- Inside a frame nothing but the lines and the engine moves. -/
theorem passBits_clocks (fuel d : Nat) (s : State) :
    (passBits fuel d s).timer = s.timer ∧ (passBits fuel d s).drive = s.drive := by
  induction fuel generalizing d s with
  | zero => exact ⟨rfl, rfl⟩
  | succ n ih =>
    unfold passBits
    split
    · exact ⟨rfl, rfl⟩
    · dsimp only
      split
      · exact ⟨rfl, rfl⟩
      · have h (u : State) : (readMiddle u).timer = u.timer ∧ (readMiddle u).drive = u.drive := by
          unfold readMiddle
          split
          · exact ⟨rfl, rfl⟩
          · split <;> exact ⟨rfl, rfl⟩
        rw [(ih ..).1, (ih ..).2, (h _).1, (h _).2]
        exact ⟨rfl, rfl⟩

/-- Local cycle time goes on by the time that passes, where the timer runs. -/
theorem advance_localTime (d : Nat) (s : State) :
    (advance d s).timer.localTime = if s.timer.running then s.timer.localTime + d else s.timer.localTime := by
  have h : (advance d s).timer.localTime = (elapse d s).timer.localTime := by
    unfold advance passSlots
    split <;> rfl
  rw [h, elapse, (passBits_clocks ..).1, passClocks_timer]
  split <;> rfl

/-! ## END -/

/-- A bit time is a whole number of half bit times, and takes time. -/
theorem State.bits_one (s : State) : 0 < s.bits 1 ∧ 2 * (s.bits 1 / 2) = s.bits 1 := by
  unfold State.bits bitPeriods
  generalize s.cfg.rateCode = code
  revert code
  decide

/-- Between two instants of END a bit of it is read exactly where the middle of one lies between them. -/
theorem State.endBitsRead_lt_iff (s : State) (a b : Nat) :
    s.endBitsRead a < s.endBitsRead b ↔
      ∃ i < Config.endBits, a < i * s.bits 1 + s.bits 1 / 2 ∧ i * s.bits 1 + s.bits 1 / 2 ≤ b := by
  obtain ⟨hpos, heven⟩ := s.bits_one
  unfold State.endBitsRead
  generalize s.bits 1 = bit at *
  constructor
  · intro h
    refine ⟨(a + bit / 2) / bit, by omega, ?_, ?_⟩
    · have := Nat.lt_div_mul_add hpos (a := a + bit / 2)
      omega
    · have : (a + bit / 2) / bit + 1 ≤ (b + bit / 2) / bit := by omega
      have := (Nat.le_div_iff_mul_le hpos).mp this
      rw [Nat.add_mul] at this
      omega
  · rintro ⟨i, hi, ha, hb⟩
    have h1 : (a + bit / 2) / bit < i + 1 := (Nat.div_lt_iff_lt_mul hpos).mpr (by rw [Nat.add_mul]; omega)
    have h2 : i + 1 ≤ (b + bit / 2) / bit := (Nat.le_div_iff_mul_le hpos).mpr (by rw [Nat.add_mul]; omega)
    omega

/-- What is left of END when time has passed: it has not run for its bits yet, and keeps what has been read of it. -/
theorem State.endAfter_eq_some {s : State} {d : Nat} {r : EndRecord} :
    s.endAfter d = some r ↔
      ∃ e, s.engine.ending = some e ∧ e.elapsed + d < s.bits Config.endBits
        ∧ { elapsed := e.elapsed + d, dominant := s.endReadsDominant e d } = r := by
  unfold State.endAfter
  cases s.engine.ending <;> simp

/-- Once an END with a dominant bit is over, the recessive measure counts from its end, or from the later rise of DATA (R76). -/
theorem State.recessiveAfter_end {s : State} {d : Nat} (hg : s.engine.framing = .gap) (h : 0 < s.endHold)
    (hd : s.endHold ≤ d) : s.recessiveAfter d = d - max s.endHold s.lines.dataBusy := by
  simp [State.recessiveAfter, hg, h, hd]

/-! ## `State.TimePasses` -/

/-- Time that passes without a slot start, and then the slot that it reaches. -/
theorem passSlots_timePasses {s t : State} (h : TimeKeeps s t) (hd : t.drive = s.drive)
    (ht : t.timer = { s.timer with localTime := t.timer.localTime }) (hl : s.timer.localTime ≤ t.timer.localTime)
    (hr : s.timer.running = false → t.timer = s.timer) : s.TimePasses (passSlots t) := by
  obtain ⟨h1, h2, h3, h4, h5, h6, h7, h8, -, h9, h10, -, h11, h12, h13, h14, h15, h16⟩ := h
  have hs : t.timer.slotIndex = s.timer.slotIndex := by rw [ht]
  unfold passSlots
  split
  · next hc =>
    simp only [Bool.and_eq_true, decide_eq_true_eq] at hc
    have hne : t.slotNow ≠ s.timer.slotIndex := by
      rw [← hs]; exact fun e => absurd hc.2 (by rw [e]; exact lt_irrefl _)
    refine ⟨hl, fun hf => ?_, ?_, h11, h12, h13, h14, h15, h16, ?_⟩
    · exact absurd hc.1 (by rw [h9, hf]; exact Bool.false_ne_true)
    · rw [State.mk.injEq]
      refine ⟨h1, h2, h3, ?_, rfl, rfl, h4, h5, rfl, h6, h7, h8⟩
      rw [setOutputs_timer, ht]
    · simp only [setOutputs, hne, if_false, hd, h10, State.ditherIndex, DriveUnit.mk.injEq, true_and]
      congr 1
      funext c
      cases s.drive.table[c] <;> rfl
  · refine ⟨hl, hr, ?_, h11, h12, h13, h14, h15, h16, ?_⟩
    · rw [State.mk.injEq]
      exact ⟨h1, h2, h3, by rw [ht], rfl, rfl, h4, h5, rfl, h6, h7, h8⟩
    · rw [if_pos hs, hd]

/-- `advance` is the passing of time alone. -/
theorem advance_timePasses (d : Nat) (s : State) : s.TimePasses (advance d s) := by
  have ht := (passBits_clocks (2 * Config.longestFrame) d (passClocks d s)).1
  have hd := (passBits_clocks (2 * Config.longestFrame) d (passClocks d s)).2
  refine passSlots_timePasses (elapse_keeps d s) hd ?_ ?_ ?_ <;> unfold elapse <;> rw [ht, passClocks_timer]
  · split <;> rfl
  · split <;> simp
  · intro h; simp [h]

/-- `advanceInMessage` is the passing of time alone. -/
theorem advanceInMessage_timePasses (d : Nat) (s : State) : s.TimePasses (advanceInMessage d s) := by
  refine passSlots_timePasses ((passClocks_keeps ..).trans (passData_keeps ..)) rfl ?_ ?_ ?_ <;>
    rw [passData_timer, passClocks_timer]
  · split <;> rfl
  · split <;> simp
  · intro h; simp [h]

theorem State.TimePasses.refl (s : State) : s.TimePasses s := by simp [State.TimePasses]

/-- `advanceInFrame` is the passing of time alone. -/
theorem advanceInFrame_timePasses (t : Nat) (s : State) : s.TimePasses (advanceInFrame t s) := by
  unfold advanceInFrame
  split
  · exact advanceInMessage_timePasses ..
  · exact .refl s

/-- `advanceToBit` is the passing of time alone. -/
theorem advanceToBit_timePasses (position : Nat) (s : State) : s.TimePasses (advanceToBit position s) :=
  advanceInFrame_timePasses ..

/-- No fall of an own pulse waits, so none is taken. -/
@[simp] theorem ownFall_none {s : State} (h : s.fallWaits = false) : ownFall s = s := by simp [ownFall, h]

end Sys2Proof.Machine
end

