-- ==== Sys2Proof/Laws/Data.lean ====
section
/-! SUPPORT. The level of DATA as time passes: what one passing of time makes of the line, and `State.pullsAt_of`, which reduces
`State.PullsAt` to what this station pulls at one instant. -/

namespace Sys2Proof.Machine

/-! ## One passing of time -/

/-- A wired-AND line after `d` periods: dominant where this station pulls it or another station still holds it. -/
theorem LineInterface.advanceData_dominant (l : LineInterface) (d : Nat) (c p : Bool) :
    (l.advanceData d c p).dataDominant = (p || (l.dataDominant && decide (d < l.dataHold))) := by
  unfold LineInterface.advanceData; split <;> simp_all

/-- What is left of the time for which other stations hold the line. -/
theorem LineInterface.advanceData_hold (l : LineInterface) (d : Nat) (c p : Bool) :
    (l.advanceData d c p).dataHold
      = if p || (l.dataDominant && decide (d < l.dataHold)) then l.dataHold - d else 0 := by
  unfold LineInterface.advanceData; split <;> simp_all

/-- SYNC as time passes is nothing to DATA. -/
theorem passClocks_data (d : Nat) (s : State) :
    (passClocks d s).lines.dataDominant = s.lines.dataDominant ∧ (passClocks d s).lines.dataHold = s.lines.dataHold
      ∧ (passClocks d s).lines.dataDriving = s.lines.dataDriving := by
  unfold passClocks LineInterface.advanceSync
  dsimp only
  split <;> [split; skip] <;> exact ⟨rfl, rfl, rfl⟩

/-- Reading a level lets no time pass. -/
theorem readMiddle_elapsed (s : State) :
    (readMiddle s).engine.frame.map FrameRecord.elapsed = s.engine.frame.map FrameRecord.elapsed := by
  unfold readMiddle
  split
  · rfl
  · next f hf =>
    split
    · dsimp only
      unfold MessageEngine.readLevel
      rw [hf]
      dsimp only
      split <;> simp [hf]
    · rfl

@[simp] theorem readMiddle_lines (s : State) : (readMiddle s).lines = s.lines := by
  unfold readMiddle; split <;> [rfl; (split <;> rfl)]

@[simp] theorem readMiddle_cfg (s : State) : (readMiddle s).cfg = s.cfg := by
  unfold readMiddle; split <;> [rfl; (split <;> rfl)]

/-! ## The level along a frame -/

/-- Within half a bit time the pull is that of its beginning. -/
theorem passData_level {Q : State → Prop} {P : Nat → Bool} (time : ∀ p d s, Q s → Q (passData p d s))
    (pulls : ∀ s f, Q s → s.engine.frame = some f → s.pullsData = P (f.elapsed / s.bits 1))
    (d : Nat) (s : State) (f : FrameRecord) (hQ : Q s) (hf : s.engine.frame = some f)
    (hd : f.elapsed % (s.bits 1 / 2) + d < s.bits 1 / 2) :
    Q (passData s.pullsData d s) ∧ (passData s.pullsData d s).cfg = s.cfg
      ∧ (passData s.pullsData d s).engine.frame.map FrameRecord.elapsed = some (f.elapsed + d)
      ∧ (passData s.pullsData d s).lines.dataDominant
          = (P ((f.elapsed + d) / s.bits 1) || (s.lines.dataDominant && decide (d < s.lines.dataHold))) := by
  refine ⟨time _ _ _ hQ, rfl, by simp [hf], ?_⟩
  have h : (f.elapsed + d) / s.bits 1 = f.elapsed / s.bits 1 := by
    have heven := s.bits_one.2
    have hpos : 0 < s.bits 1 / 2 := by have := s.bits_one; omega
    have hsame : (f.elapsed + d) / (s.bits 1 / 2) = f.elapsed / (s.bits 1 / 2) := by
      have := Nat.div_add_mod f.elapsed (s.bits 1 / 2)
      refine Nat.div_eq_of_lt_le ?_ ?_ <;> rw [Nat.mul_comm] <;> [skip; rw [Nat.mul_add]] <;> omega
    conv_lhs => rw [← heven, Nat.mul_comm, ← Nat.div_div_eq_div_mul, hsame]
    conv_rhs => rw [← heven, Nat.mul_comm, ← Nat.div_div_eq_div_mul]
  rw [h, ← pulls s f hQ hf]
  exact LineInterface.advanceData_dominant ..

/-- Inside a frame the level of DATA after `d` periods is what this station pulls at the bit then reached, and what other stations
hold of it; `Q` is an invariant under which `P` tells the pull from the bit. -/
theorem passBits_level {Q : State → Prop} {P : Nat → Bool}
    (time : ∀ p d s, Q s → Q (passData p d s)) (read : ∀ s, Q s → Q (readMiddle s))
    (pulls : ∀ s f, Q s → s.engine.frame = some f → s.pullsData = P (f.elapsed / s.bits 1))
    (fuel d : Nat) (s : State) (f : FrameRecord) (hQ : Q s) (hf : s.engine.frame = some f)
    (hl : s.lines.dataDominant = false → s.lines.dataHold = 0)
    (hd : f.elapsed % (s.bits 1 / 2) + d < (fuel + 1) * (s.bits 1 / 2)) :
    Q (passBits fuel d s) ∧ (passBits fuel d s).cfg = s.cfg
      ∧ (passBits fuel d s).engine.frame.map FrameRecord.elapsed = some (f.elapsed + d)
      ∧ (passBits fuel d s).lines.dataDominant
          = (P ((f.elapsed + d) / s.bits 1) || (s.lines.dataDominant && decide (d < s.lines.dataHold))) := by
  induction fuel generalizing d s f with
  | zero =>
    have h := passData_level time pulls d s f hQ hf (by omega)
    exact ⟨h.1, rfl, h.2.2.1, h.2.2.2⟩
  | succ n ih =>
    have hpos : 0 < s.bits 1 / 2 := by have := s.bits_one; omega
    unfold passBits
    simp only [hf]
    split
    · next hlt =>
      have h := passData_level time pulls d s f hQ hf (by omega)
      exact ⟨h.1, rfl, h.2.2.1, h.2.2.2⟩
    · next hge =>
      generalize ha : s.bits 1 / 2 - f.elapsed % (s.bits 1 / 2) = ahead at *
      have hmod := Nat.mod_lt f.elapsed hpos
      let u := passData s.pullsData ahead s
      obtain ⟨g, hg, he⟩ : ∃ g, (readMiddle u).engine.frame = some g ∧ g.elapsed = f.elapsed + ahead := by
        have h := readMiddle_elapsed u
        simp only [u, passData_engine, hf, Option.map_some] at h
        exact Option.map_eq_some_iff.mp h
      have hu : (readMiddle u).bits 1 = s.bits 1 := by simp [State.bits, u]
      have hdom : u.lines.dataDominant = (s.pullsData || (s.lines.dataDominant && decide (ahead < s.lines.dataHold))) :=
        LineInterface.advanceData_dominant ..
      have hhold : u.lines.dataHold
          = if s.pullsData || (s.lines.dataDominant && decide (ahead < s.lines.dataHold)) then s.lines.dataHold - ahead
            else 0 := LineInterface.advanceData_hold ..
      have hz : (f.elapsed + ahead) % (s.bits 1 / 2) = 0 := by
        have := Nat.div_add_mod f.elapsed (s.bits 1 / 2)
        have h : f.elapsed + ahead = s.bits 1 / 2 * (f.elapsed / (s.bits 1 / 2) + 1) := by rw [Nat.mul_add]; omega
        rw [h]; exact Nat.mul_mod_right ..
      have h := ih (d - ahead) (readMiddle u) g (read _ (time _ _ _ hQ)) hg
        (by rw [readMiddle_lines, hdom, hhold]; intro h; simp [h])
        (by rw [hu, he, hz]; rw [Nat.add_mul (n + 1)] at hd; omega)
      refine ⟨h.1, by rw [h.2.1]; simp [u], by rw [h.2.2.1, he]; congr 1; omega, ?_⟩
      rw [h.2.2.2, hu, he, readMiddle_lines, hdom, hhold, show f.elapsed + ahead + (d - ahead) = f.elapsed + d by omega]
      congr 1
      rw [Bool.eq_iff_iff]
      by_cases hs : s.lines.dataDominant = true
      · simp only [hs, Bool.true_and, Bool.and_eq_true, Bool.or_eq_true, decide_eq_true_eq]
        split <;> omega
      · simp only [hs, Bool.false_and, Bool.or_false]
        have := hl (by simpa using hs)
        simp [this]

/-- As `advance` passes time inside a frame, this station pulls DATA at the bits that `P` gives, where `P` tells the pull of one instant
from its bit under an invariant `Q` of the passing of time. -/
theorem State.pullsAt_of {s : State} {Q : State → Prop} {P : Nat → Bool} (hQ : Q s)
    (time : ∀ p d s, Q s → Q (passData p d s)) (read : ∀ s, Q s → Q (readMiddle s))
    (clocks : ∀ d s, Q s → Q (passClocks d s)) (slots : ∀ s, Q s → Q (passSlots s))
    (pulls : ∀ s f, Q s → s.engine.frame = some f → s.pullsData = P (f.elapsed / s.bits 1))
    (hl : s.lines.dataDominant = false → s.lines.dataHold = 0) : s.PullsAt fun i => P i = true := by
  intro f hf d bit hd
  have hbits : s.bits 1 = bit := Nat.one_mul _
  have hb := s.bits_one
  have hmod : f.elapsed % (s.bits 1 / 2) ≤ f.elapsed := Nat.mod_le ..
  obtain ⟨hdata, hhold, -⟩ := passClocks_data d s
  have h := passBits_level time read pulls (2 * Config.longestFrame) d (passClocks d s) f (clocks _ _ hQ) hf
    (by rw [hdata, hhold]; exact hl) (by
    have : (passClocks d s).bits 1 = s.bits 1 := rfl
    rw [this]
    simp only [Config.longestFrame] at *
    omega)
  have hb' : (passClocks d s).bits 1 = bit := hbits
  obtain ⟨hQ', hc, he, hdom⟩ := h
  have hs : (advance d s).lines = (elapse d s).lines ∧ (advance d s).engine = (elapse d s).engine
      ∧ (advance d s).cfg = (elapse d s).cfg := by
    unfold advance passSlots; split <;> exact ⟨rfl, rfl, rfl⟩
  obtain ⟨g, hg, hge⟩ := Option.map_eq_some_iff.mp he
  constructor
  · have hg' : (advance d s).engine.frame = some g := by rw [hs.2.1]; exact hg
    rw [pulls (advance d s) g (slots _ hQ') hg']
    have : (advance d s).bits 1 = bit := by
      unfold State.bits; rw [hs.2.2]; unfold elapse; rw [hc]; exact hbits
    rw [this, hge]
  · rw [hs.1]
    unfold elapse
    rw [hdom, hb', hdata, hhold]
    simp

end Sys2Proof.Machine
end

