-- ==== Sys2Proof/Laws/Edge.lean ====
section
/-! SUPPORT. The order of the events of an edge, and the hand-offs of a message among them: which order is taken, and what each
hand-off is. -/

namespace Sys2Proof.Machine

@[simp] theorem HandOffs.none_message (s : State) : HandOffs.none.message s = s := rfl
@[simp] theorem HandOffs.none_attempt (s : State) : HandOffs.none.attempt s = s := rfl
@[simp] theorem HandOffs.none_station (s : State) : HandOffs.none.station s = s := rfl
@[simp] theorem HandOffs.run_none (s : State) : HandOffs.none.run s = s := rfl

/-! ## The order -/

/-- The order that is taken is always one that the manual allows. -/
theorem taken_allowed (order : List EdgePart) : EdgePart.orderAllowed (EdgePart.taken order) = true := by
  unfold EdgePart.taken
  split
  · assumption
  · decide

/-- So is the order of the fall that comes next. -/
theorem edgeOrder_allowed (s : State) (order : List EdgePart) : EdgePart.orderAllowed (s.edgeOrder order) = true := by
  unfold State.edgeOrder
  dsimp only
  split
  · exact taken_allowed order
  · decide

/-- Where no outcome is named, the order stands. -/
theorem edgeOrder_of_none (s : State) {order : List EdgePart} (h : EdgePart.outcomeIn (EdgePart.taken order) = none) :
    s.edgeOrder order = EdgePart.taken order := by
  simp [State.edgeOrder, h]

/-- An outcome that cannot fall together with the fall that comes next is left out with its order (R51, R77). -/
theorem edgeOrder_of_not_canMeet {s : State} {order : List EdgePart} {late : LateOutcome}
    (h : EdgePart.outcomeIn (EdgePart.taken order) = some late) (hs : s.canMeet late = false) :
    s.edgeOrder order = EdgePart.usualOrder := by
  simp [State.edgeOrder, h, hs]

/-- The order of R57's list names no outcome. -/
@[simp] theorem outcomeIn_usualOrder : EdgePart.outcomeIn EdgePart.usualOrder = none := rfl

/-- A fall with no outcome hands nothing over. -/
theorem fallWith_of_none (hold : Nat) {order : List EdgePart} (s : State) (h : EdgePart.outcomeIn order = none) :
    fallWith hold order s = takeFall hold order .none s := by
  simp [fallWith, h]

/-! ## The hand-offs -/

/-- A commit that halts the station hands nothing else over (R76). -/
theorem handOver_of_halt {m : Message} {own : Bool} {s : State} {cause : Cause} (verdict : Option Verdict) (refused : Bool)
    (h : s.haltCause m own = some cause) (t : State) : (handOver m own verdict refused s).run t = enterHalt cause t := by
  simp [handOver, h, HandOffs.run, HandOffs.none]

/-- Another station's commit that does not halt: the plan's event, and the report to the Station Controller. -/
theorem handOver_of_receiver {m : Message} {s : State} (verdict : Option Verdict) (refused : Bool)
    (h : s.haltCause m false = none) (t : State) :
    (handOver m false verdict refused s).run t = stationReport m false verdict refused (applyMessage m refused t) := by
  cases hc : s.sched.composed <;> simp [handOver, h, hc, HandOffs.run]

/-- An own commit: the plan's event, the report of the attempt, and the report to the Station Controller. -/
theorem handOver_of_own {m : Message} {s : State} {k : Composed} (verdict : Option Verdict) (refused : Bool)
    (h : s.haltCause m true = none) (hk : s.sched.composed = some k) (t : State) :
    (handOver m true verdict refused s).run t
      = stationReport m true verdict refused (reportCommit k refused (applyMessage m refused t)) := by
  simp [handOver, h, hk, HandOffs.run]

end Sys2Proof.Machine
end

