-- ==== Sys2Proof/Laws/Frame.lean ====
section
/-! SUPPORT. The frames of the shared operations: for each, one lemma that names every field of `State` that it leaves as it
is. `simp` takes each such conjunction as one rewriting rule for each field. -/

namespace Sys2Proof.Machine

/-- A fold leaves a part of the state as it is where every step does. -/
theorem foldl_keeps {α β : Type} (view : State → β) (f : State → α → State) (h : ∀ s a, view (f s a) = view s) (as : List α)
    (s : State) : view (as.foldl f s) = view s := by
  induction as generalizing s with
  | nil => rfl
  | cons a as ih => rw [List.foldl_cons, ih, h]

/-- What `placeRequest` leaves as it is. -/
@[simp] theorem placeRequest_frame (r : Request) (c : ChannelId) (s : State) :
    (placeRequest r c s).inputs = s.inputs ∧ (placeRequest r c s).cfg = s.cfg ∧ (placeRequest r c s).table = s.table ∧
    (placeRequest r c s).timer = s.timer ∧ (placeRequest r c s).lines = s.lines ∧
    (placeRequest r c s).engine = s.engine ∧ (placeRequest r c s).drive = s.drive ∧
    (placeRequest r c s).station = s.station ∧ (placeRequest r c s).port = s.port ∧
    (placeRequest r c s).pending = s.pending ∧ (placeRequest r c s).sched.composed = s.sched.composed ∧
    (placeRequest r c s).sched.voids = s.sched.voids := by
  unfold placeRequest
  split <;> simp

/-- What `settle` leaves as it is. -/
@[simp] theorem settle_frame (c : ChannelId) (s : State) :
    (settle c s).inputs = s.inputs ∧ (settle c s).cfg = s.cfg ∧ (settle c s).table = s.table ∧
    (settle c s).timer = s.timer ∧ (settle c s).lines = s.lines ∧ (settle c s).engine = s.engine ∧
    (settle c s).drive = s.drive ∧ (settle c s).station = s.station ∧ (settle c s).port = s.port ∧
    (settle c s).pending = s.pending ∧ (settle c s).sched.composed = s.sched.composed ∧
    (settle c s).sched.voids = s.sched.voids := by
  unfold settle
  dsimp only
  repeat' split
  all_goals simp

/-- What `leaveFlight` leaves as it is. -/
@[simp] theorem leaveFlight_frame (c : ChannelId) (s : State) :
    (leaveFlight c s).inputs = s.inputs ∧ (leaveFlight c s).cfg = s.cfg ∧ (leaveFlight c s).table = s.table ∧
    (leaveFlight c s).timer = s.timer ∧ (leaveFlight c s).lines = s.lines ∧ (leaveFlight c s).engine = s.engine ∧
    (leaveFlight c s).drive = s.drive ∧ (leaveFlight c s).station = s.station ∧ (leaveFlight c s).port = s.port ∧
    (leaveFlight c s).pending = s.pending ∧ (leaveFlight c s).sched.composed = s.sched.composed ∧
    (leaveFlight c s).sched.voids = s.sched.voids := by
  simp [leaveFlight]

/-- What `tellChannel` leaves as it is. -/
@[simp] theorem tellChannel_frame (c : Option ChannelId) (s : State) :
    (tellChannel c s).inputs = s.inputs ∧ (tellChannel c s).cfg = s.cfg ∧ (tellChannel c s).table = s.table ∧
    (tellChannel c s).timer = s.timer ∧ (tellChannel c s).lines = s.lines ∧ (tellChannel c s).engine = s.engine ∧
    (tellChannel c s).drive = s.drive ∧ (tellChannel c s).station = s.station ∧ (tellChannel c s).port = s.port ∧
    (tellChannel c s).pending = s.pending ∧ (tellChannel c s).sched.composed = s.sched.composed ∧
    (tellChannel c s).sched.voids = s.sched.voids := by
  cases c <;> simp [tellChannel]

/-- What every step keeps, the loop over the channels keeps. -/
theorem forChannels_keeps {β : Type} (view : State → β) (f : ChannelId → State → State) (h : ∀ c s, view (f c s) = view s)
    (s : State) : view (forChannels f s) = view s :=
  foldl_keeps view (fun s c => f c s) (fun s c => h c s) allChannels s

/-- What `settleIfWaiting` leaves as it is. -/
@[simp] theorem settleIfWaiting_frame (c : ChannelId) (s : State) :
    (settleIfWaiting c s).inputs = s.inputs ∧ (settleIfWaiting c s).cfg = s.cfg ∧
    (settleIfWaiting c s).table = s.table ∧ (settleIfWaiting c s).timer = s.timer ∧
    (settleIfWaiting c s).lines = s.lines ∧ (settleIfWaiting c s).engine = s.engine ∧
    (settleIfWaiting c s).drive = s.drive ∧ (settleIfWaiting c s).station = s.station ∧
    (settleIfWaiting c s).port = s.port ∧ (settleIfWaiting c s).pending = s.pending ∧
    (settleIfWaiting c s).sched.composed = s.sched.composed ∧ (settleIfWaiting c s).sched.voids = s.sched.voids := by
  unfold settleIfWaiting
  split <;> simp

/-- What `settleWaiting` leaves as it is. -/
@[simp] theorem settleWaiting_frame (s : State) :
    (settleWaiting s).inputs = s.inputs ∧ (settleWaiting s).cfg = s.cfg ∧ (settleWaiting s).table = s.table ∧
    (settleWaiting s).timer = s.timer ∧ (settleWaiting s).lines = s.lines ∧ (settleWaiting s).engine = s.engine ∧
    (settleWaiting s).drive = s.drive ∧ (settleWaiting s).station = s.station ∧ (settleWaiting s).port = s.port ∧
    (settleWaiting s).pending = s.pending ∧ (settleWaiting s).sched.composed = s.sched.composed ∧
    (settleWaiting s).sched.voids = s.sched.voids := by
  simpa [settleWaiting] using forChannels_keeps (fun s : State => (s.inputs, s.cfg, s.table, s.timer, s.lines, s.engine, s.drive, s.station, s.port, s.pending, s.sched.composed, s.sched.voids)) settleIfWaiting (fun c s => by simp) s

/-- What `retryStarved` leaves as it is. -/
@[simp] theorem retryStarved_frame (c : ChannelId) (s : State) :
    (retryStarved c s).inputs = s.inputs ∧ (retryStarved c s).cfg = s.cfg ∧ (retryStarved c s).table = s.table ∧
    (retryStarved c s).timer = s.timer ∧ (retryStarved c s).lines = s.lines ∧ (retryStarved c s).engine = s.engine ∧
    (retryStarved c s).drive = s.drive ∧ (retryStarved c s).station = s.station ∧ (retryStarved c s).port = s.port ∧
    (retryStarved c s).pending = s.pending ∧ (retryStarved c s).sched.composed = s.sched.composed ∧
    (retryStarved c s).sched.voids = s.sched.voids := by
  unfold retryStarved
  split
  · split <;> simp
  · simp

/-- What `freeingNotice` leaves as it is. -/
@[simp] theorem freeingNotice_frame (s : State) :
    (freeingNotice s).inputs = s.inputs ∧ (freeingNotice s).cfg = s.cfg ∧ (freeingNotice s).table = s.table ∧
    (freeingNotice s).timer = s.timer ∧ (freeingNotice s).lines = s.lines ∧ (freeingNotice s).engine = s.engine ∧
    (freeingNotice s).drive = s.drive ∧ (freeingNotice s).station = s.station ∧ (freeingNotice s).port = s.port ∧
    (freeingNotice s).pending = s.pending ∧ (freeingNotice s).sched.composed = s.sched.composed ∧
    (freeingNotice s).sched.voids = s.sched.voids := by
  simpa [freeingNotice] using forChannels_keeps (fun s : State => (s.inputs, s.cfg, s.table, s.timer, s.lines, s.engine, s.drive, s.station, s.port, s.pending, s.sched.composed, s.sched.voids)) retryStarved (fun c s => by simp) s

/-- What `loseHolding` leaves as it is. -/
@[simp] theorem loseHolding_frame (b : Bool) (c : ChannelId) (s : State) :
    (loseHolding b c s).inputs = s.inputs ∧ (loseHolding b c s).cfg = s.cfg ∧ (loseHolding b c s).table = s.table ∧
    (loseHolding b c s).timer = s.timer ∧ (loseHolding b c s).lines = s.lines ∧
    (loseHolding b c s).engine = s.engine ∧ (loseHolding b c s).station = s.station ∧
    (loseHolding b c s).pending = s.pending ∧ (loseHolding b c s).sched.composed = s.sched.composed ∧
    (loseHolding b c s).sched.voids = s.sched.voids := by
  unfold loseHolding
  dsimp only
  repeat' split
  all_goals simp

/-- What `evictOne` leaves as it is. -/
@[simp] theorem evictOne_frame (h : Holding) (s : State) :
    (evictOne h s).inputs = s.inputs ∧ (evictOne h s).cfg = s.cfg ∧ (evictOne h s).timer = s.timer ∧
    (evictOne h s).lines = s.lines ∧ (evictOne h s).engine = s.engine ∧ (evictOne h s).station = s.station ∧
    (evictOne h s).pending = s.pending ∧ (evictOne h s).sched.composed = s.sched.composed ∧
    (evictOne h s).sched.voids = s.sched.voids := by
  unfold evictOne
  dsimp only
  repeat' split
  all_goals simp

/-- What `evictSteps` leaves as it is. -/
@[simp] theorem evictSteps_frame (n : Nat) (s : State) :
    (evictSteps n s).inputs = s.inputs ∧ (evictSteps n s).cfg = s.cfg ∧ (evictSteps n s).timer = s.timer ∧
    (evictSteps n s).lines = s.lines ∧ (evictSteps n s).engine = s.engine ∧ (evictSteps n s).station = s.station ∧
    (evictSteps n s).pending = s.pending ∧ (evictSteps n s).sched.composed = s.sched.composed ∧
    (evictSteps n s).sched.voids = s.sched.voids := by
  induction n generalizing s with
  | zero => simp [evictSteps]
  | succ n ih => unfold evictSteps; split <;> simp [ih]

/-- What `evict` leaves as it is. -/
@[simp] theorem evict_frame (s : State) :
    (evict s).inputs = s.inputs ∧ (evict s).cfg = s.cfg ∧ (evict s).timer = s.timer ∧ (evict s).lines = s.lines ∧
    (evict s).engine = s.engine ∧ (evict s).station = s.station ∧ (evict s).pending = s.pending ∧
    (evict s).sched.composed = s.sched.composed ∧ (evict s).sched.voids = s.sched.voids := by
  simp [evict]

/-- What `expireRecord` leaves as it is. -/
@[simp] theorem expireRecord_frame (a : Address) (s : State) :
    (expireRecord a s).inputs = s.inputs ∧ (expireRecord a s).cfg = s.cfg ∧ (expireRecord a s).timer = s.timer ∧
    (expireRecord a s).lines = s.lines ∧ (expireRecord a s).engine = s.engine ∧
    (expireRecord a s).station = s.station ∧ (expireRecord a s).pending = s.pending ∧
    (expireRecord a s).sched.composed = s.sched.composed ∧ (expireRecord a s).sched.voids = s.sched.voids := by
  have h := fun (u : State) (hs : List Holding) => foldl_keeps (fun s : State => (s.inputs, s.cfg, s.timer, s.lines, s.engine, s.station, s.pending, s.sched.composed, s.sched.voids))
    (fun s h => loseHolding false h.channel s) (fun s h => by simp) hs u
  unfold expireRecord
  dsimp only
  split
  · simpa using h _ _
  · simp

/-- What `postExpiry` leaves as it is. -/
@[simp] theorem postExpiry_frame (a : Address) (s : State) :
    (postExpiry a s).inputs = s.inputs ∧ (postExpiry a s).cfg = s.cfg ∧ (postExpiry a s).table = s.table ∧
    (postExpiry a s).timer = s.timer ∧ (postExpiry a s).lines = s.lines ∧ (postExpiry a s).engine = s.engine ∧
    (postExpiry a s).drive = s.drive ∧ (postExpiry a s).station = s.station ∧ (postExpiry a s).pending = s.pending ∧
    (postExpiry a s).sched = s.sched ∧ (postExpiry a s).channels = s.channels := by
  simp [postExpiry]

/-- What eviction, the report in between and the freeing notice all keep, `evictAndFree` keeps. -/
theorem evictAndFree_keeps {β : Type} (view : State → β) (lost : Bool) (tell : State → State) (s : State)
    (he : view (evict s) = view s) (ht : ∀ s, view (tell s) = view s) (hf : ∀ s, view (freeingNotice s) = view s) :
    view (evictAndFree lost tell s) = view s := by
  unfold evictAndFree
  dsimp only
  split
  · rw [hf, ht, he]
  · rw [ht, he]

/-- What `expireAll` leaves as it is. -/
@[simp] theorem expireAll_frame (as : List Address) (s : State) :
    (expireAll as s).inputs = s.inputs ∧ (expireAll as s).cfg = s.cfg ∧ (expireAll as s).timer = s.timer ∧
    (expireAll as s).lines = s.lines ∧ (expireAll as s).engine = s.engine ∧ (expireAll as s).station = s.station ∧
    (expireAll as s).pending = s.pending ∧ (expireAll as s).sched.composed = s.sched.composed ∧
    (expireAll as s).sched.voids = s.sched.voids := by
  have hr := foldl_keeps (fun s : State => (s.inputs, s.cfg, s.timer, s.lines, s.engine, s.station, s.pending, s.sched.composed, s.sched.voids)) (fun s a => expireRecord a s) (fun s a => by simp) as s
  have hp := fun s => foldl_keeps (fun s : State => (s.inputs, s.cfg, s.timer, s.lines, s.engine, s.station, s.pending, s.sched.composed, s.sched.voids)) (fun s a => postExpiry a s) (fun s a => by simp) as s
  have h := evictAndFree_keeps (fun s : State => (s.inputs, s.cfg, s.timer, s.lines, s.engine, s.station, s.pending, s.sched.composed, s.sched.voids)) (decide ((as.foldl (fun s a => expireRecord a s) s).table.plan.length < s.table.plan.length))
    (fun s => as.foldl (fun s a => postExpiry a s) s) (as.foldl (fun s a => expireRecord a s) s) (by simp) hp (fun s => by simp)
  simpa [expireAll] using h.trans hr

/-- What `announceDueTest` leaves as it is. -/
@[simp] theorem announceDueTest_frame (s : State) :
    (announceDueTest s).inputs = s.inputs ∧ (announceDueTest s).cfg = s.cfg ∧ (announceDueTest s).table = s.table ∧
    (announceDueTest s).timer = s.timer ∧ (announceDueTest s).lines = s.lines ∧
    (announceDueTest s).engine = s.engine ∧ (announceDueTest s).drive = s.drive ∧
    (announceDueTest s).station = s.station ∧ (announceDueTest s).port = s.port ∧
    (announceDueTest s).pending = s.pending ∧ (announceDueTest s).channels = s.channels ∧
    (announceDueTest s).sched.composed = s.sched.composed ∧ (announceDueTest s).sched.voids = s.sched.voids := by
  unfold announceDueTest
  split <;> simp

/-- What `edgePlan` leaves as it is. -/
@[simp] theorem edgePlan_frame (s : State) :
    (edgePlan s).inputs = s.inputs ∧ (edgePlan s).cfg = s.cfg ∧ (edgePlan s).timer = s.timer ∧
    (edgePlan s).lines = s.lines ∧ (edgePlan s).engine = s.engine ∧ (edgePlan s).station = s.station ∧
    (edgePlan s).pending = s.pending ∧ (edgePlan s).sched.composed = s.sched.composed ∧
    (edgePlan s).sched.voids = s.sched.voids := by
  simp [edgePlan]

/-- What `enterJoined` leaves as it is. -/
@[simp] theorem enterJoined_frame (cause : Cause) (s : State) :
    (enterJoined cause s).inputs = s.inputs ∧ (enterJoined cause s).cfg = s.cfg ∧
    (enterJoined cause s).table = s.table ∧ (enterJoined cause s).timer = s.timer ∧
    (enterJoined cause s).lines = s.lines ∧ (enterJoined cause s).engine = s.engine ∧
    (enterJoined cause s).drive = s.drive ∧ (enterJoined cause s).pending = s.pending ∧
    (enterJoined cause s).sched.composed = s.sched.composed ∧ (enterJoined cause s).sched.voids = s.sched.voids := by
  simp [enterJoined]

/-- What `enterResync` leaves as it is. -/
@[simp] theorem enterResync_frame (cause : Cause) (s : State) :
    (enterResync cause s).inputs = s.inputs ∧ (enterResync cause s).cfg = s.cfg ∧
    (enterResync cause s).timer = s.timer ∧ (enterResync cause s).drive = s.drive ∧
    (enterResync cause s).pending = s.pending ∧ (enterResync cause s).sched.composed = s.sched.composed ∧
    (enterResync cause s).sched.voids = s.sched.voids := by
  unfold enterResync
  dsimp only
  repeat' split
  all_goals simp

/-- What `enterFault` leaves as it is. -/
@[simp] theorem enterFault_frame (cause : Cause) (s : State) :
    (enterFault cause s).inputs = s.inputs ∧ (enterFault cause s).cfg = s.cfg ∧
    (enterFault cause s).pending = s.pending := by
  simp [enterFault]

/-- What `enterHalt` leaves as it is. -/
@[simp] theorem enterHalt_frame (cause : Cause) (s : State) :
    (enterHalt cause s).inputs = s.inputs ∧ (enterHalt cause s).cfg = s.cfg ∧ (enterHalt cause s).pending = s.pending := by
  simp [enterHalt]

/-- What `endAttempt` leaves as it is. -/
@[simp] theorem endAttempt_frame (s : State) :
    (endAttempt s).inputs = s.inputs ∧ (endAttempt s).cfg = s.cfg ∧ (endAttempt s).table = s.table ∧
    (endAttempt s).timer = s.timer ∧ (endAttempt s).drive = s.drive ∧ (endAttempt s).station = s.station ∧
    (endAttempt s).port = s.port ∧ (endAttempt s).pending = s.pending ∧ (endAttempt s).sched.voids = s.sched.voids := by
  simp [endAttempt]

/-- What `countVoid` leaves as it is. -/
@[simp] theorem countVoid_frame (cause : Cause) (s : State) :
    (countVoid cause s).inputs = s.inputs ∧ (countVoid cause s).cfg = s.cfg ∧ (countVoid cause s).table = s.table ∧
    (countVoid cause s).timer = s.timer ∧ (countVoid cause s).lines = s.lines ∧
    (countVoid cause s).engine = s.engine ∧ (countVoid cause s).drive = s.drive ∧
    (countVoid cause s).station = s.station ∧ (countVoid cause s).pending = s.pending ∧
    (countVoid cause s).channels = s.channels ∧ (countVoid cause s).sched.queue = s.sched.queue ∧
    (countVoid cause s).sched.composed = s.sched.composed := by
  unfold countVoid
  dsimp only
  repeat' split
  all_goals simp

/-- What `reportLost` leaves as it is. -/
@[simp] theorem reportLost_frame (s : State) :
    (reportLost s).inputs = s.inputs ∧ (reportLost s).cfg = s.cfg ∧ (reportLost s).table = s.table ∧
    (reportLost s).timer = s.timer ∧ (reportLost s).drive = s.drive ∧ (reportLost s).station = s.station ∧
    (reportLost s).port = s.port ∧ (reportLost s).pending = s.pending ∧ (reportLost s).sched.voids = s.sched.voids := by
  simp [reportLost]

/-- What `reportVoid` leaves as it is. -/
@[simp] theorem reportVoid_frame (cause : Cause) (s : State) :
    (reportVoid cause s).inputs = s.inputs ∧ (reportVoid cause s).cfg = s.cfg ∧ (reportVoid cause s).table = s.table ∧
    (reportVoid cause s).timer = s.timer ∧ (reportVoid cause s).drive = s.drive ∧
    (reportVoid cause s).station = s.station ∧ (reportVoid cause s).pending = s.pending := by
  simp [reportVoid]

/-- What `latch` leaves as it is. -/
@[simp] theorem latch_frame (s : State) :
    (latch s).inputs = s.inputs ∧ (latch s).cfg = s.cfg ∧ (latch s).table = s.table ∧ (latch s).timer = s.timer ∧
    (latch s).lines = s.lines ∧ (latch s).engine = s.engine ∧ (latch s).station = s.station ∧
    (latch s).port = s.port ∧ (latch s).pending = s.pending ∧ (latch s).sched = s.sched ∧
    (latch s).channels = s.channels := by
  unfold latch
  split <;> simp

/-- What `edgeDrive` leaves as it is. -/
@[simp] theorem edgeDrive_frame (s : State) :
    (edgeDrive s).inputs = s.inputs ∧ (edgeDrive s).cfg = s.cfg ∧ (edgeDrive s).table = s.table ∧
    (edgeDrive s).timer = s.timer ∧ (edgeDrive s).lines = s.lines ∧ (edgeDrive s).engine = s.engine ∧
    (edgeDrive s).station = s.station ∧ (edgeDrive s).port = s.port ∧ (edgeDrive s).pending = s.pending ∧
    (edgeDrive s).sched = s.sched ∧ (edgeDrive s).channels = s.channels := by
  simp [edgeDrive]

/-- What `edgeEngine` leaves as it is. -/
@[simp] theorem edgeEngine_frame (s : State) :
    (edgeEngine s).inputs = s.inputs ∧ (edgeEngine s).cfg = s.cfg ∧ (edgeEngine s).table = s.table ∧
    (edgeEngine s).timer = s.timer ∧ (edgeEngine s).drive = s.drive ∧ (edgeEngine s).station = s.station ∧
    (edgeEngine s).pending = s.pending := by
  unfold edgeEngine
  dsimp only
  repeat' split
  all_goals simp

/-- What `edgeStation` leaves as it is. -/
@[simp] theorem edgeStation_frame (s : State) :
    (edgeStation s).inputs = s.inputs ∧ (edgeStation s).cfg = s.cfg ∧ (edgeStation s).table = s.table ∧
    (edgeStation s).timer = s.timer ∧ (edgeStation s).lines = s.lines ∧ (edgeStation s).engine = s.engine ∧
    (edgeStation s).drive = s.drive ∧ (edgeStation s).pending = s.pending ∧
    (edgeStation s).sched.composed = s.sched.composed ∧ (edgeStation s).sched.voids = s.sched.voids := by
  unfold edgeStation
  dsimp only
  repeat' split
  all_goals simp

end Sys2Proof.Machine
end

