-- ==== Sys2Proof/Laws/Plan.lean ====
section
/-! SUPPORT. What the operations on the plan do to it, for a plan that obeys its laws (R3, R5): membership, the holding of a key,
and that removal and insertion keep the laws. -/

set_option Elab.async false

namespace Sys2Proof.Machine

/-! ## Keys -/

/-- Two holdings with the same place in the canonical order have the same owner and channel. -/
theorem Holding.key_injective {g h : Holding} (e : g.key = h.key) : g.owner = h.owner ∧ g.channel = h.channel := by
  unfold Holding.key at e
  have := g.channel.isLt
  have := h.channel.isLt
  constructor <;> apply Fin.ext <;> omega

theorem Holding.isFor_iff (h : Holding) (o : Address) (c : ChannelId) : h.isFor o c = true ↔ h.owner = o ∧ h.channel = c := by
  simp [Holding.isFor]

/-- A lawful plan holds no key twice. -/
theorem PlanTable.Lawful.key_unique {t : PlanTable} (hl : t.Lawful) {g h : Holding} (hg : g ∈ t.plan) (hh : h ∈ t.plan)
    (e : g.key = h.key) : g = h := by
  have hp := hl.1
  by_contra hne
  obtain ⟨i, hi, rfl⟩ := List.mem_iff_getElem.1 hg
  obtain ⟨j, hj, rfl⟩ := List.mem_iff_getElem.1 hh
  rw [List.pairwise_iff_getElem] at hp
  rcases Nat.lt_trichotomy i j with h | h | h
  · exact absurd e (Nat.ne_of_lt (hp i j hi hj h))
  · subst h; exact hne rfl
  · exact absurd e (Nat.ne_of_gt (hp j i hj hi h))

theorem PlanTable.Lawful.nodup {t : PlanTable} (hl : t.Lawful) : t.plan.Nodup :=
  hl.1.imp fun h e => absurd (congrArg Holding.key e) (Nat.ne_of_lt h)

/-- The holding that `find` answers is the plan's holding of that key. -/
theorem PlanTable.find_some {t : PlanTable} {o : Address} {c : ChannelId} {h : Holding} (e : t.find o c = some h) :
    h ∈ t.plan ∧ h.owner = o ∧ h.channel = c :=
  ⟨List.mem_of_find?_eq_some e, (h.isFor_iff o c).1 (List.find?_some (p := fun g : Holding => g.isFor o c) (l := t.plan) e)⟩

theorem PlanTable.find_none_iff {t : PlanTable} {o : Address} {c : ChannelId} :
    t.find o c = none ↔ ∀ h ∈ t.plan, ¬(h.owner = o ∧ h.channel = c) := by
  simp [PlanTable.find, List.find?_eq_none, Holding.isFor]

theorem PlanTable.Lawful.find_iff {t : PlanTable} (hl : t.Lawful) {o : Address} {c : ChannelId} {h : Holding} :
    t.find o c = some h ↔ h ∈ t.plan ∧ h.owner = o ∧ h.channel = c := by
  refine ⟨PlanTable.find_some, fun ⟨hm, ho, hc⟩ => ?_⟩
  cases e : t.find o c with
  | none => exact absurd ⟨ho, hc⟩ (PlanTable.find_none_iff.1 e h hm)
  | some g =>
    obtain ⟨gm, go, gc⟩ := PlanTable.find_some e
    exact congrArg some (hl.key_unique gm hm (by simp [Holding.key, go, gc, ho, hc]))

/-! ## Sums over a list of holdings -/

/-- Taking one holding out of a list takes its rating out of the sum, where it covers the slot. -/
theorem sum_erase {l : List Holding} {h : Holding} (hm : h ∈ l) (k : Slot) :
    (((l.erase h).filter (·.covers k)).map Holding.rating).sum + (if h.covers k then h.rating else 0)
      = ((l.filter (·.covers k)).map Holding.rating).sum := by
  have hp := List.perm_cons_erase hm
  have := ((hp.filter (·.covers k)).map Holding.rating).sum_eq
  rw [this, List.filter_cons]
  split <;> simp [Nat.add_comm]

theorem count_erase {l : List Holding} {h : Holding} (hm : h ∈ l) (k : Slot) :
    ((l.erase h).filter (·.covers k)).length + (if h.covers k then 1 else 0) = (l.filter (·.covers k)).length := by
  have hp := List.perm_cons_erase hm
  have := (hp.filter (·.covers k)).length_eq
  rw [this, List.filter_cons]
  split <;> simp

/-! ## Removal -/

@[simp] theorem PlanTable.remove_plan (t : PlanTable) (h : Holding) : (t.remove h).plan = t.plan.erase h := rfl
@[simp] theorem PlanTable.remove_peers (t : PlanTable) (h : Holding) : (t.remove h).peers = t.peers := rfl
@[simp] theorem PlanTable.setPeer_plan (t : PlanTable) (a : Address) (p : Peer) : (t.setPeer a p).plan = t.plan := rfl
@[simp] theorem PlanTable.agePeers_plan (t : PlanTable) : t.agePeers.plan = t.plan := rfl

theorem PlanTable.remove_sums (t : PlanTable) (h : Holding) (k : Slot) :
    (t.remove h).sums[k] = t.sums[k] - if h.covers k then h.rating else 0 := by
  simp only [PlanTable.remove, Fin.getElem_fin, Vector.getElem_ofFn]
  split <;> simp_all

theorem PlanTable.remove_counts (t : PlanTable) (h : Holding) (k : Slot) :
    (t.remove h).counts[k] = t.counts[k] - if h.covers k then 1 else 0 := by
  simp only [PlanTable.remove, Fin.getElem_fin, Vector.getElem_ofFn]
  split <;> simp_all

/-- Removing a holding of the plan keeps the laws, and takes exactly that holding out. -/
theorem PlanTable.Lawful.remove {t : PlanTable} (hl : t.Lawful) {h : Holding} (hm : h ∈ t.plan) :
    (t.remove h).Lawful ∧ (t.remove h).plan = t.plan.filter (fun g => decide (g ≠ h)) := by
  refine ⟨⟨hl.1.sublist List.erase_sublist, fun k => ?_⟩, ?_⟩
  · have hs := sum_erase hm k
    have hc := count_erase hm k
    have := hl.2 k
    simp only [PlanTable.sumAt, PlanTable.countAt] at this
    simp only [PlanTable.remove_sums, PlanTable.remove_counts, PlanTable.sumAt, PlanTable.countAt, PlanTable.remove_plan]
    omega
  · rw [PlanTable.remove_plan, hl.nodup.erase_eq_filter]
    apply List.filter_congr
    intro g _
    by_cases h : g = h <;> simp [h]

/-- Removing some holdings of the plan, each once, keeps the laws and leaves the others. -/
theorem PlanTable.Lawful.removeAll {t : PlanTable} (hl : t.Lawful) {hs : List Holding} (hn : hs.Nodup) (hm : ∀ h ∈ hs, h ∈ t.plan) :
    (t.removeAll hs).Lawful ∧ (t.removeAll hs).plan = t.plan.filter (fun g => decide (g ∉ hs))
      ∧ (t.removeAll hs).peers = t.peers := by
  induction hs generalizing t with
  | nil => simp [PlanTable.removeAll, hl]
  | cons h hs ih =>
    obtain ⟨hn1, hn2⟩ := List.nodup_cons.1 hn
    obtain ⟨hr, hp⟩ := hl.remove (hm h (by simp))
    obtain ⟨i1, i2, i3⟩ := ih hr hn2 (fun g hg => by
      rw [hp, List.mem_filter]
      exact ⟨hm g (by simp [hg]), by simp; rintro rfl; exact hn1 hg⟩)
    refine ⟨i1, ?_, i3⟩
    rw [show t.removeAll (h :: hs) = (t.remove h).removeAll hs from rfl, i2, hp, List.filter_filter]
    apply List.filter_congr
    intro g _
    simp [Bool.and_comm]

/-- Removing every holding that a test selects. -/
theorem PlanTable.Lawful.removeFilter {t : PlanTable} (hl : t.Lawful) (p : Holding → Bool) :
    (t.removeAll (t.plan.filter p)).Lawful ∧ (t.removeAll (t.plan.filter p)).plan = t.plan.filter (fun g => !p g)
      ∧ (t.removeAll (t.plan.filter p)).peers = t.peers := by
  obtain ⟨h1, h2, h3⟩ := hl.removeAll (hl.nodup.filter p) (fun h hh => (List.mem_filter.1 hh).1)
  refine ⟨h1, ?_, h3⟩
  rw [h2]
  apply List.filter_congr
  intro g hg
  simp [hg]

theorem PlanTable.Lawful.removeOwner {t : PlanTable} (hl : t.Lawful) (o : Address) :
    (t.removeOwner o).Lawful ∧ (t.removeOwner o).plan = t.plan.filter (fun g => decide (g.owner ≠ o))
      ∧ (t.removeOwner o).peers = t.peers := by
  obtain ⟨h1, h2, h3⟩ := hl.removeFilter (·.owner == o)
  refine ⟨h1, h2.trans (List.filter_congr fun g _ => by by_cases e : g.owner = o <;> simp [e]), h3⟩

theorem PlanTable.Lawful.keepOwner {t : PlanTable} (hl : t.Lawful) (o : Address) :
    (t.keepOwner o).Lawful ∧ (t.keepOwner o).plan = t.plan.filter (fun g => decide (g.owner = o))
      ∧ (t.keepOwner o).peers = t.peers := by
  obtain ⟨h1, h2, h3⟩ := hl.removeFilter (·.owner != o)
  refine ⟨h1, h2.trans (List.filter_congr fun g _ => by by_cases e : g.owner = o <;> simp [e]), h3⟩

theorem PlanTable.Lawful.removeKey {t : PlanTable} (hl : t.Lawful) (o : Address) (c : ChannelId) :
    (t.removeKey o c).Lawful ∧ (t.removeKey o c).plan = t.plan.filter (fun g => !decide (g.owner = o ∧ g.channel = c))
      ∧ (t.removeKey o c).peers = t.peers := by
  unfold PlanTable.removeKey
  cases e : t.find o c with
  | none =>
    refine ⟨hl, ?_, rfl⟩
    rw [List.filter_eq_self.2]
    intro g hg
    simpa only [Bool.not_eq_true', decide_eq_false_iff_not] using PlanTable.find_none_iff.1 e g hg
  | some h =>
    obtain ⟨hm, ho, hc⟩ := PlanTable.find_some e
    obtain ⟨h1, h2⟩ := hl.remove hm
    refine ⟨h1, h2.trans (List.filter_congr fun g hg => ?_), rfl⟩
    by_cases hgh : g = h
    · subst hgh; simp [ho, hc]
    · have : ¬(g.owner = o ∧ g.channel = c) := fun ⟨go, gc⟩ =>
        hgh (hl.key_unique hg hm (by simp [Holding.key, go, gc, ho, hc]))
      simp [hgh, this]

/-! ## Insertion -/

theorem PlanTable.mem_insertSorted (h g : Holding) (l : List Holding) :
    g ∈ PlanTable.insertSorted h l ↔ g = h ∨ g ∈ l := by
  induction l with
  | nil => simp [PlanTable.insertSorted]
  | cons x xs ih =>
    unfold PlanTable.insertSorted
    split
    · simp
    · simp [ih]; tauto

theorem PlanTable.insertSorted_perm (h : Holding) (l : List Holding) : (PlanTable.insertSorted h l).Perm (h :: l) := by
  induction l with
  | nil => exact List.Perm.refl _
  | cons x xs ih =>
    unfold PlanTable.insertSorted
    split
    · exact List.Perm.refl _
    · exact (ih.cons x).trans (List.Perm.swap h x xs)

/-- A key that the list does not hold goes into its place. -/
theorem PlanTable.insertSorted_pairwise (h : Holding) (l : List Holding) (hl : l.Pairwise (fun a b => a.key < b.key))
    (hn : ∀ g ∈ l, g.key ≠ h.key) : (PlanTable.insertSorted h l).Pairwise (fun a b => a.key < b.key) := by
  induction l with
  | nil => simp [PlanTable.insertSorted]
  | cons x xs ih =>
    obtain ⟨hx, hxs⟩ := List.pairwise_cons.1 hl
    have hne := hn x (by simp)
    unfold PlanTable.insertSorted
    split
    · refine List.pairwise_cons.2 ⟨fun g hg => ?_, hl⟩
      rcases List.mem_cons.1 hg with rfl | hg
      · omega
      · have := hx g hg; omega
    · refine List.pairwise_cons.2 ⟨fun g hg => ?_, ih hxs fun g hg => hn g (by simp [hg])⟩
      rcases (PlanTable.mem_insertSorted h g xs).1 hg with rfl | hg
      · omega
      · exact hx g hg

@[simp] theorem PlanTable.insert_plan (t : PlanTable) (h : Holding) :
    (t.insert h).plan = PlanTable.insertSorted h (t.removeKey h.owner h.channel).plan := rfl

theorem PlanTable.insert_sums (t : PlanTable) (h : Holding) (k : Slot) :
    (t.insert h).sums[k] = (t.removeKey h.owner h.channel).sums[k] + if h.covers k then h.rating else 0 := by
  simp only [PlanTable.insert, Fin.getElem_fin, Vector.getElem_ofFn]
  split <;> simp

theorem PlanTable.insert_counts (t : PlanTable) (h : Holding) (k : Slot) :
    (t.insert h).counts[k] = (t.removeKey h.owner h.channel).counts[k] + if h.covers k then 1 else 0 := by
  simp only [PlanTable.insert, Fin.getElem_fin, Vector.getElem_ofFn]
  split <;> simp

/-- Insertion keeps the laws; it replaces the holding of its key and no other. -/
theorem PlanTable.Lawful.insert {t : PlanTable} (hl : t.Lawful) (h : Holding) :
    (t.insert h).Lawful
      ∧ (∀ g, g ∈ (t.insert h).plan ↔ g = h ∨ g ∈ t.plan ∧ ¬(g.owner = h.owner ∧ g.channel = h.channel))
      ∧ (t.insert h).peers = t.peers := by
  obtain ⟨h1, h2, h3⟩ := hl.removeKey h.owner h.channel
  have hm : ∀ g, g ∈ (t.removeKey h.owner h.channel).plan ↔ g ∈ t.plan ∧ ¬(g.owner = h.owner ∧ g.channel = h.channel) := by
    intro g; rw [h2, List.mem_filter, Bool.not_eq_true', decide_eq_false_iff_not]
  refine ⟨⟨?_, fun k => ?_⟩, fun g => ?_, h3⟩
  · exact PlanTable.insertSorted_pairwise h _ h1.1 fun g hg e => ((hm g).1 hg).2 (Holding.key_injective e)
  · have hp := PlanTable.insertSorted_perm h (t.removeKey h.owner h.channel).plan
    have hs := ((hp.filter (·.covers k)).map Holding.rating).sum_eq
    have hc := (hp.filter (·.covers k)).length_eq
    have hk := h1.2 k
    simp only [PlanTable.sumAt, PlanTable.countAt] at hk
    simp only [PlanTable.insert_sums, PlanTable.insert_counts, PlanTable.sumAt, PlanTable.countAt, PlanTable.insert_plan]
    rw [hs, hc, List.filter_cons, hk.1, hk.2]
    split <;> simp [Nat.add_comm]
  · rw [PlanTable.insert_plan, PlanTable.mem_insertSorted, hm]

theorem PlanTable.Lawful.find_insert {t : PlanTable} (hl : t.Lawful) (h : Holding) (o : Address) (c : ChannelId) :
    (t.insert h).find o c = if h.owner = o ∧ h.channel = c then some h else t.find o c := by
  obtain ⟨h1, h2, -⟩ := hl.insert h
  split
  · next e => exact h1.find_iff.2 ⟨(h2 h).2 (.inl rfl), e⟩
  · next e =>
    cases f : t.find o c with
    | none =>
      refine PlanTable.find_none_iff.2 fun g hg hk => ?_
      rcases (h2 g).1 hg with rfl | ⟨hg, -⟩
      · exact e hk
      · exact PlanTable.find_none_iff.1 f g hg hk
    | some g =>
      obtain ⟨gm, go, gc⟩ := PlanTable.find_some f
      exact h1.find_iff.2 ⟨(h2 g).2 (.inr ⟨gm, fun ⟨a, b⟩ => e ⟨a ▸ go, b ▸ gc⟩⟩), go, gc⟩

/-! ## The peer table alone -/

/-- The laws of the plan say nothing of the peer table. -/
theorem PlanTable.Lawful.of_eq {t u : PlanTable} (hl : t.Lawful) (hp : u.plan = t.plan) (hs : u.sums = t.sums)
    (hc : u.counts = t.counts) : u.Lawful := by
  refine ⟨hp ▸ hl.1, fun k => ?_⟩
  have := hl.2 k
  simpa [PlanTable.sumAt, PlanTable.countAt, hp, hs, hc] using this

theorem PlanTable.reset_lawful : PlanTable.reset.Lawful := by
  refine ⟨List.Pairwise.nil, fun k => ?_⟩
  simp [PlanTable.reset, PlanTable.sumAt, PlanTable.countAt]

/-! ## The choice of eviction -/

/-- The choice of a step of eviction covers a slot over budget, and none of the plan's that does has a higher key; there is none
only where no holding covers a slot over budget. -/
theorem PlanTable.evictionChoice_cases (t : PlanTable) (budget : Nat) :
    match t.evictionChoice budget with
    | none => ∀ h ∈ t.plan, t.coversOverBudget budget h = false
    | some h => h ∈ t.plan ∧ t.coversOverBudget budget h = true
        ∧ ∀ g ∈ t.plan, t.coversOverBudget budget g = true → g.key ≤ h.key := by
  have key : ∀ (l : List Holding) (b : Option Holding),
      match l.foldl PlanTable.higher b with
      | none => b = none ∧ l = []
      | some h => (b = some h ∨ h ∈ l) ∧ (∀ g ∈ l, g.key ≤ h.key) ∧ ∀ x, b = some x → x.key ≤ h.key := by
    intro l
    induction l with
    | nil => intro b; cases b <;> simp
    | cons x xs ih =>
      intro b
      have hx := ih (PlanTable.higher b x)
      simp only [List.foldl_cons]
      cases e : xs.foldl PlanTable.higher (PlanTable.higher b x) with
      | none =>
        rw [e] at hx
        cases b with
        | none => simp [PlanTable.higher] at hx
        | some y => simp only [PlanTable.higher] at hx; split at hx <;> simp at hx
      | some h =>
        rw [e] at hx
        obtain ⟨h1, h2, h3⟩ := hx
        cases b with
        | none =>
          simp only [PlanTable.higher] at h1 h3
          have hx := h3 x rfl
          refine ⟨.inr ?_, fun g hg => ?_, fun y hy => by cases hy⟩
          · rcases h1 with h1 | h1
            · simp at h1; simp [h1]
            · simp [h1]
          · rcases List.mem_cons.1 hg with rfl | hg
            · exact hx
            · exact h2 g hg
        | some y =>
          simp only [PlanTable.higher] at h1 h3
          split at h1
          · next hlt =>
            rw [if_pos hlt] at h3
            have hx := h3 x rfl
            refine ⟨.inr ?_, fun g hg => ?_, fun z hz => ?_⟩
            · rcases h1 with h1 | h1
              · simp at h1; simp [h1]
              · simp [h1]
            · rcases List.mem_cons.1 hg with rfl | hg
              · exact hx
              · exact h2 g hg
            · cases hz; omega
          · next hlt =>
            rw [if_neg hlt] at h3
            have hy := h3 y rfl
            refine ⟨?_, fun g hg => ?_, fun z hz => by cases hz; exact hy⟩
            · rcases h1 with h1 | h1
              · exact .inl h1
              · exact .inr (by simp [h1])
            · rcases List.mem_cons.1 hg with rfl | hg
              · omega
              · exact h2 g hg
  have := key (t.plan.filter (t.coversOverBudget budget)) none
  unfold PlanTable.evictionChoice
  cases e : (t.plan.filter (t.coversOverBudget budget)).foldl PlanTable.higher none with
  | none =>
    rw [e] at this
    intro h hh
    have := List.filter_eq_nil_iff.1 this.2 h hh
    simpa using this
  | some h =>
    rw [e] at this
    obtain ⟨h1, h2, -⟩ := this
    have hm := h1.resolve_left (by simp)
    rw [List.mem_filter] at hm
    exact ⟨hm.1, hm.2, fun g hg hc => h2 g (List.mem_filter.2 ⟨hg, hc⟩)⟩

/-- In a lawful plan in which no holding covers a slot over budget, no slot is over budget. -/
theorem PlanTable.Lawful.withinBudget_of_choice {t : PlanTable} (hl : t.Lawful) {budget : Nat}
    (h : t.evictionChoice budget = none) : t.WithinBudget budget := by
  have hc := t.evictionChoice_cases budget
  rw [h] at hc
  intro k
  by_contra hk
  rw [(hl.2 k).1] at hk
  have hne : t.plan.filter (·.covers k) ≠ [] := by
    intro e
    rw [PlanTable.sumAt, e] at hk
    simp at hk
  obtain ⟨g, hg⟩ := List.exists_mem_of_ne_nil _ hne
  rw [List.mem_filter] at hg
  have := hc g hg.1
  have hs : budget < t.sums[k] := by rw [(hl.2 k).1]; omega
  simp only [PlanTable.coversOverBudget, List.any_eq_false, Bool.and_eq_true, decide_eq_true_eq, not_and] at this
  exact this k (List.mem_finRange k) hg.2 hs

/-- Where no slot is over budget there is nothing to evict. -/
theorem PlanTable.WithinBudget.choice {t : PlanTable} {budget : Nat} (h : t.WithinBudget budget) :
    t.evictionChoice budget = none := by
  have hc := t.evictionChoice_cases budget
  cases e : t.evictionChoice budget with
  | none => rfl
  | some g =>
    rw [e] at hc
    obtain ⟨-, h2, -⟩ := hc
    simp only [PlanTable.coversOverBudget, List.any_eq_true, Bool.and_eq_true, decide_eq_true_eq] at h2
    obtain ⟨k, -, -, hk⟩ := h2
    have := h k
    omega

/-- Removing a holding of the plan raises no slot sum. -/
theorem PlanTable.WithinBudget.remove {t : PlanTable} {budget : Nat} (h : t.WithinBudget budget) (g : Holding) :
    (t.remove g).WithinBudget budget := by
  intro k
  rw [PlanTable.remove_sums]
  have := h k
  omega

/-- An admitted claim of a PRESENT owner exceeds the budget in no slot. -/
theorem PlanTable.WithinBudget.insert {t : PlanTable} {budget : Nat} (hb : t.WithinBudget budget)
    (h : Holding) (hf : t.fits budget h.owner h.channel h.start h.length h.rating = true) : (t.insert h).WithinBudget budget := by
  intro k
  rw [PlanTable.insert_sums]
  have hk := hb k
  have hs : (t.removeKey h.owner h.channel).sums[k] = t.sums[k] - t.setAside h.owner h.channel k := by
    unfold PlanTable.removeKey PlanTable.setAside
    cases t.find h.owner h.channel with
    | none => simp
    | some g => exact PlanTable.remove_sums t g k
  rw [hs]
  simp only [PlanTable.fits, List.all_eq_true, Bool.or_eq_true, Bool.not_eq_true', decide_eq_true_eq] at hf
  have := hf k (List.mem_finRange k)
  unfold Holding.covers
  split
  · next hc => rcases this with this | this
               · simp [hc] at this
               · exact this
  · omega

end Sys2Proof.Machine
end

