-- ==== Sys2Proof/Laws/Ops.lean ====
section
/-! SUPPORT. What the shared operations on channels and on the plan do: settling (R104, R105), the freeing notice (R114), eviction
(R21) and expiry (R35). -/

set_option Elab.async false

namespace Sys2Proof.Machine

/-! ## One channel record -/

/-- An operation on one channel record leaves the others. -/
theorem mapChannel_get (c d : ChannelId) (f : Channel → Channel) (s : State) :
    (s.mapChannel c f).channels[d] = if d = c then f s.channels[c] else s.channels[d] := by
  simp only [State.mapChannel, Fin.getElem_fin, Vector.getElem_set]
  by_cases h : d = c
  · subst h; simp
  · have : ¬c.val = d.val := fun e => h (Fin.ext e.symm)
    simp [h, this]

/-- A channel that needs a request is QUEUED where its kind is queued or may be, and WAITING otherwise; nothing else of its record
changes, and no other channel's does. -/
theorem placeRequest_get (r : Request) (c d : ChannelId) (s : State) :
    (placeRequest r c s).channels[d]
      = if d = c then
          { s.channels[c] with
            state := if holds s.sched.queue r || s.station.state.mayQueue r then .queued else .waiting }
        else s.channels[d] := by
  unfold placeRequest
  split <;> rw [mapChannel_get] <;> rfl

/-- What settling a channel does: nothing to one that is UNUSED or IN_FLIGHT; a CLAIM or a RELEASE where its target needs one;
otherwise its requests are withdrawn, and it is IDLE or HELD with its target as its held demand. -/
theorem settle_eq (c : ChannelId) (s : State) :
    settle c s
      = if s.channels[c].state = .unused ∨ s.channels[c].state = .inFlight then s
        else if s.channels[c].needsClaim = true then placeRequest (.claim c) c s
        else if s.channels[c].needsRelease = true then placeRequest (.release c) c s
        else
          (withdrawAll c s).mapChannel c fun ch =>
            { ch with state := if ch.span.isSome then .held else .idle, held := ch.target } := by
  generalize hch : s.channels[c] = ch
  have wc : (withdrawAll c s).channels[c] = ch := hch
  have same : ∀ f g : Channel → Channel, f ch = g ch →
      (withdrawAll c s).mapChannel c f = (withdrawAll c s).mapChannel c g := by
    intro f g e
    unfold State.mapChannel
    rw [wc, e]
  unfold settle
  rw [hch]
  dsimp only
  cases hst : ch.state <;> simp only [reduceCtorEq, or_self, or_true, true_or, if_true, if_false] <;>
    cases hsp : ch.span with
    | none =>
      by_cases ht : ch.target = 0
      · simp only [ht, Channel.needsClaim, Channel.needsRelease, hsp, if_true, Option.all_none, Option.isSome_none]
        rw [if_neg (by simp), if_neg (by simp)]
        exact same _ _ (by simp [ht, hsp])
      · have : 0 < ch.target := Nat.pos_of_ne_zero ht
        simp [ht, this, Channel.needsClaim, hsp]
    | some span =>
      by_cases ht : ch.target = 0
      · simp [ht, Channel.needsClaim, Channel.needsRelease, hsp]
      · have : 0 < ch.target := Nat.pos_of_ne_zero ht
        by_cases hl : span.length = slotsFor ch.target
        · simp only [ht, hl, Channel.needsClaim, Channel.needsRelease, hsp, if_true, if_false, Option.all_some, ne_eq,
            not_true_eq_false, decide_false, Bool.and_false, Bool.false_and, Option.isSome_some, reduceCtorEq]
          exact same _ _ (by simp [hsp])
        · simp [ht, hl, this, Channel.needsClaim, hsp]

/-- Settling leaves the other channels. -/
theorem settle_get_ne {c d : ChannelId} (h : d ≠ c) (s : State) : (settle c s).channels[d] = s.channels[d] := by
  rw [settle_eq]
  split
  · rfl
  · split
    · rw [placeRequest_get, if_neg h]
    · split
      · rw [placeRequest_get, if_neg h]
      · rw [mapChannel_get, if_neg h]; rfl

/-- Settling leaves a channel's rating, target, span and flags. -/
theorem settle_get_fields (c d : ChannelId) (s : State) :
    (settle c s).channels[d]
      = { s.channels[d] with state := (settle c s).channels[d].state, held := (settle c s).channels[d].held } := by
  by_cases h : d = c
  · subst h
    rw [settle_eq]
    split
    · rfl
    · split
      · rw [placeRequest_get, if_pos rfl]
      · split
        · rw [placeRequest_get, if_pos rfl]
        · rw [mapChannel_get, if_pos rfl]; rfl
  · rw [settle_get_ne h]

/-! ## The freeing notice -/

/-- A freeing notice changes nothing where no channel is STARVED. -/
theorem freeingNotice_none {s : State} (h : ∀ c : ChannelId, s.channels[c].state ≠ .starved) : freeingNotice s = s := by
  have : ∀ cs : List ChannelId, cs.foldl (fun s c => retryStarved c s) s = s := by
    intro cs
    induction cs with
    | nil => rfl
    | cons c cs ih =>
      rw [List.foldl_cons, show retryStarved c s = s by unfold retryStarved; rw [if_neg (h c)], ih]
  exact this allChannels

/-- A STARVED channel leaves STARVED at a freeing notice, and the others are as they were; nothing but the states of channels
and the queue changes. -/
theorem retryStarved_get (c d : ChannelId) (s : State) :
    (retryStarved c s).channels[d]
      = if d = c ∧ s.channels[c].state = .starved then
          { s.channels[c] with state := if s.station.state = .joined then .queued else .waiting }
        else s.channels[d] := by
  unfold retryStarved
  by_cases hs : s.channels[c].state = .starved
  · rw [if_pos hs]
    by_cases hj : s.station.state = .joined
    · simp only [if_pos hj, mapChannel_get, hs, and_true]
      rfl
    · simp only [if_neg hj, mapChannel_get, hs, and_true]
  · rw [if_neg hs, if_neg (by tauto)]

/-! ## Eviction -/

/-- A step of eviction removes its holding from the plan. -/
@[simp] theorem evictOne_table (h : Holding) (s : State) : (evictOne h s).table = s.table.remove h := by
  unfold evictOne
  dsimp only
  split
  · exact (loseHolding_frame true h.channel { s with table := s.table.remove h }).2.2.1
  · rfl

@[simp] theorem evictOne_cfg (h : Holding) (s : State) : (evictOne h s).cfg = s.cfg := (evictOne_frame h s).2.1

/-- The plan after eviction depends on the plan and the budget alone. -/
theorem evictSteps_table_congr (n : Nat) {s u : State} (ht : s.table = u.table) (hb : s.cfg.budget = u.cfg.budget) :
    (evictSteps n s).table = (evictSteps n u).table := by
  induction n generalizing s u with
  | zero => exact ht
  | succ n ih =>
    unfold evictSteps
    rw [ht, hb]
    cases u.table.evictionChoice u.cfg.budget with
    | none => exact ht
    | some h =>
      dsimp only
      exact ih (by rw [evictOne_table, evictOne_table, ht]) (by rw [evictOne_cfg, evictOne_cfg, hb])

theorem evict_table_congr {s u : State} (ht : s.table = u.table) (hb : s.cfg.budget = u.cfg.budget) :
    (evict s).table = (evict u).table := by
  unfold evict
  rw [ht]
  exact evictSteps_table_congr _ ht hb

/-- Eviction does nothing where no slot is over budget. -/
theorem evict_within {s : State} (h : s.table.WithinBudget s.cfg.budget) : evict s = s := by
  unfold evict
  cases s.table.plan.length with
  | zero => rfl
  | succ n => unfold evictSteps; rw [h.choice]

/-- Eviction keeps the laws of the plan, and as many steps as there are holdings bring every slot within the budget. -/
theorem evictSteps_lawful (n : Nat) (s : State) (hl : s.table.Lawful) (hn : s.table.plan.length ≤ n) :
    (evictSteps n s).table.Lawful ∧ (evictSteps n s).table.WithinBudget s.cfg.budget := by
  induction n generalizing s with
  | zero =>
    refine ⟨hl, hl.withinBudget_of_choice ?_⟩
    have : s.table.plan = [] := List.length_eq_zero_iff.1 (by omega)
    simp [PlanTable.evictionChoice, this]
  | succ n ih =>
    unfold evictSteps
    have hc := s.table.evictionChoice_cases s.cfg.budget
    cases e : s.table.evictionChoice s.cfg.budget with
    | none => exact ⟨hl, hl.withinBudget_of_choice e⟩
    | some h =>
      rw [e] at hc
      have hr := hl.remove hc.1
      have hlen : (s.table.remove h).plan.length ≤ n := by
        rw [PlanTable.remove_plan, List.length_erase_of_mem hc.1]
        omega
      have := ih (evictOne h s) (by rw [evictOne_table]; exact hr.1) (by rw [evictOne_table]; exact hlen)
      rw [evictOne_cfg] at this
      exact this

theorem evict_lawful (s : State) (hl : s.table.Lawful) :
    (evict s).table.Lawful ∧ (evict s).table.WithinBudget s.cfg.budget := evictSteps_lawful _ s hl (Nat.le_refl _)

/-- Eviction and the freeing notice, where no slot is over budget: the events are told, and the notice follows a loss. -/
theorem evictAndFree_within {s : State} (lost : Bool) (tell : State → State) (h : s.table.WithinBudget s.cfg.budget)
    (ht : (tell s).table = s.table) :
    evictAndFree lost tell s = if lost = true then freeingNotice (tell s) else tell s := by
  unfold evictAndFree
  rw [evict_within h]
  dsimp only
  rw [ht]
  simp

/-! ## Expiry -/

/-- An expiry of a record: it is ABSENT at age E, and its owner's holdings leave the plan. -/
theorem expireRecord_table (a : Address) (s : State) :
    (expireRecord a s).table
      = (s.table.setPeer a { s.table.peers[a] with present := false, age := s.expiry }).removeOwner a := by
  unfold expireRecord
  dsimp only
  split
  · exact foldl_keeps State.table (fun s (h : Holding) => loseHolding false h.channel s)
      (fun s h => (loseHolding_frame false h.channel s).2.2.1) _ _
  · rfl

end Sys2Proof.Machine
end

