-- ==== Sys2Proof/Laws/Port.lean ====
section
/-! SUPPORT. The local port's byte machine: what a whole command amounts to, and the argument bytes read back. -/

namespace Sys2Proof.Machine

/-- The two bytes of a 16-bit argument read back as the argument. -/
@[simp] theorem word2_extract (x : BitVec 16) : word2 (x.extractLsb' 8 8) (x.extractLsb' 0 8) = x := by
  unfold word2
  apply BitVec.eq_of_getLsbD_eq
  intro i hi
  rw [BitVec.getLsbD_append]
  by_cases h : i < 8
  · simp [h]
  · have h1 : i - 8 < 8 := by omega
    have h2 : 8 + (i - 8) = i := by omega
    simp [h, h1, h2]

/-- The port with the bytes of a transaction received. -/
def withReceived (bytes : List Byte) (phase : Phase) (s : State) : State :=
  { s with port := { s.port with received := bytes, phase := phase } }

/-- The argument bytes of a command: while some are missing they are only received, and at the last one the command acts. -/
theorem clockBytes_arguments {code : Byte} {n : Nat} (hc : argumentCount code = some n) (args : List Byte) :
    ∀ (got : List Byte) (s : State), s.port.phase = .arguments → s.port.received = code :: got →
      got.length + args.length = n → args ≠ [] →
      clockBytes args s = act (withReceived (code :: (got ++ args)) .arguments s) := by
  induction args with
  | nil => intro _ _ _ _ _ h; exact absurd rfl h
  | cons b bs ih =>
    intro got s hp hr hl _
    rw [clockBytes, List.foldl_cons]
    have hb : clockByte s b
        = if bs = [] then act (withReceived (code :: (got ++ [b])) .arguments s)
          else withReceived (code :: (got ++ [b])) .arguments s := by
      unfold clockByte
      rw [hp]
      simp only [hr, List.cons_append, List.length_cons, List.length_append, List.length_nil, List.head?_cons,
        Option.bind_some, hc, Option.getD_some, withReceived]
      have hs : ({ s.port with received := code :: (got ++ [b]) } : LocalPort)
          = { s.port with received := code :: (got ++ [b]), phase := .arguments } := by rw [← hp]
      rw [hs]
      cases bs with
      | nil => simp at hl; simp; omega
      | cons c cs => simp at hl; simp; omega
    rw [hb]
    cases bs with
    | nil => simp
    | cons c cs =>
      rw [if_neg (by simp)]
      have := ih (got ++ [b]) (withReceived (code :: (got ++ [b])) .arguments s) rfl rfl
        (by simp at hl ⊢; omega) (by simp)
      rw [clockBytes] at this
      rw [this]
      simp [withReceived]

/-- A whole command, command byte and argument bytes, acts once on the port that holds its bytes (R152). -/
theorem clockBytes_command {code : Byte} {n : Nat} (hc : argumentCount code = some n) (args : List Byte)
    (hl : args.length = n) (s : State) (hp : s.port.phase = .command) :
    clockBytes (code :: args) s = act (withReceived (code :: args) (if n = 0 then .command else .arguments) s) := by
  rw [clockBytes, List.foldl_cons]
  have hb : clockByte s code
      = if n = 0 then act (withReceived [code] .command s) else withReceived [code] .arguments s := by
    unfold clockByte
    rw [hp]
    have hs : ({ s.port with received := [code] } : LocalPort)
        = { s.port with received := [code], phase := .command } := by rw [← hp]
    cases n with
    | zero => simp [hc, withReceived, hs]
    | succ n => simp [hc, withReceived]
  rw [hb]
  cases n with
  | zero => cases args with
    | nil => simp
    | cons _ _ => simp at hl
  | succ n =>
    rw [if_neg (by omega), if_neg (by omega)]
    have := clockBytes_arguments hc args [] (withReceived [code] .arguments s) rfl rfl (by simpa using hl)
      (by intro h; simp [h] at hl)
    rw [clockBytes] at this
    rw [this]
    simp [withReceived]

/-- The 32 argument bytes of CONFIG. -/
theorem ConfigArgs_bytes_length (a : ConfigArgs) : a.bytes.length = 32 := by
  simp [ConfigArgs.bytes, argumentBytes, List.length_flatMap, List.map_const']

end Sys2Proof.Machine
end

