-- ==== Sys2Proof/Laws/Queue.lean ====
section
/-! SUPPORT. What the operations on the transmit queue do to it, and that each keeps its laws (R86 to R88, R96 to R98). -/

set_option Elab.async false

namespace Sys2Proof.Machine

/-! ## Membership -/

theorem holds_iff (q : List QueueEntry) (r : Request) : holds q r = true ↔ ∃ e ∈ q, e.request = r := by
  simp [holds]

theorem holds_append (p q : List QueueEntry) (r : Request) : holds (p ++ q) r = (holds p r || holds q r) := by
  simp [holds, List.any_append]

/-- An offer merges where the request is queued already. -/
theorem offerTo_merges {q : List QueueEntry} {r : Request} (h : holds q r = true) : offerTo q r = q := by
  unfold offerTo
  rw [if_pos h]

/-- Every entry after an offer was there before it, or is the fresh one of the request. -/
theorem mem_offerTo {q : List QueueEntry} {r : Request} {e : QueueEntry} (h : e ∈ offerTo q r) :
    e ∈ q ∨ e = .fresh r := by
  unfold offerTo at h
  split at h
  · exact .inl h
  · split at h
    · simpa using h
    · split at h
      · exact .inl h
      · rcases List.mem_append.1 h with h | h
        · exact .inl (List.mem_filter.1 h).1
        · exact .inr (by simpa using h)

/-- An ANNOUNCE and a ROLLCALL that are offered are queued. -/
theorem holds_offerTo_self {q : List QueueEntry} {r : Request} (h : r.other = none) : holds (offerTo q r) r = true := by
  unfold offerTo
  split
  · assumption
  · simp [h, holds, QueueEntry.fresh]

/-- A removal leaves the entries that it does not select, and marks one on the wire. -/
theorem mem_removeEntries {p : Request → Bool} {q : List QueueEntry} {e : QueueEntry} :
    e ∈ removeEntries p q
      ↔ (e ∈ q ∧ p e.request = false) ∨ ∃ d ∈ q, p d.request = true ∧ d.onWire = true ∧ e = { d with cancel := true } := by
  unfold removeEntries
  rw [List.mem_filterMap]
  constructor
  · rintro ⟨d, hd, h⟩
    split at h
    · next hp =>
      split at h
      · next hw => exact .inr ⟨d, hd, hp, hw, (Option.some.inj h).symm⟩
      · exact absurd h (by simp)
    · next hp =>
      obtain rfl := Option.some.inj h
      exact .inl ⟨hd, by simpa using hp⟩
  · rintro (⟨he, hp⟩ | ⟨d, hd, hp, hw, rfl⟩)
    · exact ⟨e, he, by simp [hp]⟩
    · exact ⟨d, hd, by simp [hp, hw]⟩

/-- The attempt on the wire is over: no entry carries the mark, and the cancelled one is gone. -/
theorem mem_returnEntry {q : List QueueEntry} {e : QueueEntry} (h : e ∈ returnEntry q) :
    e.onWire = false ∧ ∃ d ∈ q, d.request = e.request ∧ d.cancel = e.cancel ∧ (d.onWire = true → d.cancel = false) := by
  unfold returnEntry at h
  rw [List.mem_filterMap] at h
  obtain ⟨d, hd, h⟩ := h
  split at h
  · split at h
    · exact absurd h (by simp)
    · next hc =>
      obtain rfl := Option.some.inj h
      exact ⟨rfl, d, hd, rfl, rfl, fun _ => by simpa using hc⟩
  · next hw =>
    obtain rfl := Option.some.inj h
    exact ⟨by simpa using hw, _, hd, rfl, rfl, fun h' => absurd h' hw⟩

theorem mem_resolveEntry {q : List QueueEntry} {e : QueueEntry} : e ∈ resolveEntry q ↔ e ∈ q ∧ e.onWire = false := by
  simp [resolveEntry]

/-! ## The laws of the queue -/

/-- The laws of the queue, of a list of entries. -/
theorem Scheduler.lawful_iff (q : Scheduler) :
    q.Lawful ↔ (q.queue.map QueueEntry.request).Nodup
      ∧ (∀ c : ChannelId, ¬((∃ e ∈ q.queue, e.request = .claim c) ∧ ∃ e ∈ q.queue, e.request = .release c))
      ∧ ∀ e ∈ q.queue, e.cancel = true → e.onWire = true ∧ e.request.removable = true := by
  simp only [Scheduler.Lawful, holds_iff]

/-- A queue whose entries are some of a lawful queue's, in its order, with requests and marks kept but for marks cleared, is
lawful. -/
theorem Scheduler.Lawful.shrink {q : Scheduler} (hl : q.Lawful) {l : List QueueEntry}
    (hs : (l.map QueueEntry.request).Sublist (q.queue.map QueueEntry.request))
    (hc : ∀ e ∈ l, e.cancel = true → e.onWire = true ∧ e.request.removable = true) (composed : Option Composed) (voids : Nat) :
    ({ queue := l, composed := composed, voids := voids } : Scheduler).Lawful := by
  rw [Scheduler.lawful_iff] at hl ⊢
  obtain ⟨h1, h2, -⟩ := hl
  have hm : ∀ r, (∃ e ∈ l, e.request = r) → ∃ e ∈ q.queue, e.request = r := by
    rintro r ⟨e, he, rfl⟩
    have := hs.subset (List.mem_map_of_mem he)
    obtain ⟨d, hd, hr⟩ := List.mem_map.1 this
    exact ⟨d, hd, hr⟩
  exact ⟨h1.sublist hs, fun c ⟨ha, hb⟩ => h2 c ⟨hm _ ha, hm _ hb⟩, hc⟩

/-- Filtering keeps the laws. -/
theorem Scheduler.Lawful.filter {q : Scheduler} (hl : q.Lawful) (p : QueueEntry → Bool) (composed : Option Composed) (voids : Nat) :
    ({ queue := q.queue.filter p, composed := composed, voids := voids } : Scheduler).Lawful :=
  hl.shrink (List.filter_sublist.map _) (fun e he => hl.2.2 e (List.mem_filter.1 he).1) _ _

/-- A removal of CLAIMs or ROLLCALLs keeps the laws. -/
theorem Scheduler.Lawful.removeEntries {q : Scheduler} (hl : q.Lawful) {p : Request → Bool}
    (hp : ∀ r, p r = true → r.removable = true) (composed : Option Composed) (voids : Nat) :
    ({ queue := removeEntries p q.queue, composed := composed, voids := voids } : Scheduler).Lawful := by
  refine hl.shrink ?_ (fun e he hc => ?_) _ _
  · unfold Machine.removeEntries
    induction q.queue with
    | nil => exact List.Sublist.slnil
    | cons e es ih =>
      rw [List.filterMap_cons, List.map_cons]
      split
      · exact ih.cons _
      · next d h =>
        split at h
        · split at h
          · obtain rfl := Option.some.inj h; exact ih.cons_cons _
          · exact absurd h (by simp)
        · obtain rfl := Option.some.inj h; exact ih.cons_cons _
  · rcases mem_removeEntries.1 he with ⟨he, -⟩ | ⟨d, -, hd, hw, rfl⟩
    · exact hl.2.2 e he hc
    · exact ⟨hw, hp _ hd⟩

/-- The end of an attempt keeps the laws, whether its entry returns to the queue or leaves it. -/
theorem Scheduler.Lawful.returnEntry {q : Scheduler} (hl : q.Lawful) (composed : Option Composed) (voids : Nat) :
    ({ queue := returnEntry q.queue, composed := composed, voids := voids } : Scheduler).Lawful := by
  refine hl.shrink ?_ (fun e he hc => ?_) _ _
  · unfold Machine.returnEntry
    induction q.queue with
    | nil => exact List.Sublist.slnil
    | cons e es ih =>
      rw [List.filterMap_cons, List.map_cons]
      split
      · exact ih.cons _
      · next d h =>
        split at h
        · split at h
          · exact absurd h (by simp)
          · obtain rfl := Option.some.inj h; exact ih.cons_cons _
        · obtain rfl := Option.some.inj h; exact ih.cons_cons _
  · obtain ⟨-, d, hd, -, hdc, hn⟩ := mem_returnEntry he
    have hcd : d.cancel = true := hdc.trans hc
    have := hl.2.2 d hd hcd
    rw [hn this.1] at hcd
    exact absurd hcd (by simp)

theorem Scheduler.Lawful.resolveEntry {q : Scheduler} (hl : q.Lawful) (composed : Option Composed) (voids : Nat) :
    ({ queue := resolveEntry q.queue, composed := composed, voids := voids } : Scheduler).Lawful := hl.filter _ _ _

/-- The on-wire mark keeps the laws. -/
theorem Scheduler.Lawful.markOnWire {q : Scheduler} (hl : q.Lawful) (r : Request) (composed : Option Composed) (voids : Nat) :
    ({ queue := markOnWire r q.queue, composed := composed, voids := voids } : Scheduler).Lawful := by
  refine hl.shrink ?_ (fun e he hc => ?_) _ _
  · rw [show (Machine.markOnWire r q.queue).map QueueEntry.request = q.queue.map QueueEntry.request by
      unfold Machine.markOnWire
      rw [List.map_map]
      apply List.map_congr_left
      intro e _
      simp only [Function.comp_apply]
      split <;> rfl]
  · unfold Machine.markOnWire at he
    obtain ⟨d, hd, rfl⟩ := List.mem_map.1 he
    split at hc
    · exact ⟨by split <;> simp_all, by
        have := hl.2.2 d hd hc
        split <;> exact this.2⟩
    · next hne => rw [if_neg hne]; exact hl.2.2 d hd hc

/-- An offer keeps the laws. -/
theorem Scheduler.Lawful.offerTo {q : Scheduler} (hl : q.Lawful) (r : Request) (composed : Option Composed) (voids : Nat) :
    ({ queue := offerTo q.queue r, composed := composed, voids := voids } : Scheduler).Lawful := by
  have hq := hl
  rw [Scheduler.lawful_iff] at hl ⊢
  obtain ⟨h1, h2, h3⟩ := hl
  have hc : ∀ e ∈ Machine.offerTo q.queue r, e.cancel = true → e.onWire = true ∧ e.request.removable = true := by
    intro e he hc
    rcases mem_offerTo he with he | rfl
    · exact h3 e he hc
    · exact absurd hc (by simp [QueueEntry.fresh])
  have joins : ∀ l : List QueueEntry, (l.map QueueEntry.request).Sublist (q.queue.map QueueEntry.request) →
      (∀ e ∈ l, e.request ≠ r) →
      ((l ++ [QueueEntry.fresh r]).map QueueEntry.request).Nodup := by
    intro l hs hn
    rw [List.map_append, List.nodup_append]
    refine ⟨h1.sublist hs, by simp, ?_⟩
    intro a ha b hb
    simp only [List.map_cons, List.map_nil, List.mem_singleton] at hb
    obtain ⟨e, he, rfl⟩ := List.mem_map.1 ha
    rw [hb]
    exact hn e he
  by_cases hh : holds q.queue r = true
  · rw [offerTo_merges hh] at hc ⊢
    exact ⟨h1, h2, hc⟩
  · have hn : ∀ e ∈ q.queue, e.request ≠ r := fun e he hr => hh ((holds_iff _ _).2 ⟨e, he, hr⟩)
    refine ⟨?_, ?_, hc⟩
    · unfold Machine.offerTo
      rw [if_neg hh]
      split
      · exact joins _ (List.Sublist.refl _) hn
      · split
        · exact h1
        · exact joins _ (List.filter_sublist.map _) fun e he => hn e (List.mem_filter.1 he).1
    · rintro c ⟨⟨e, he, hce⟩, ⟨d, hd, hcd⟩⟩
      dsimp only at he hd
      unfold Machine.offerTo at he hd
      rw [if_neg hh] at he hd
      cases r with
      | announce =>
        simp only [Request.other, List.mem_append, List.mem_singleton] at he hd
        rcases he with he | rfl
        · rcases hd with hd | rfl
          · exact h2 c ⟨⟨e, he, hce⟩, ⟨d, hd, hcd⟩⟩
          · simp [QueueEntry.fresh] at hcd
        · simp [QueueEntry.fresh] at hce
      | rollcall =>
        simp only [Request.other, List.mem_append, List.mem_singleton] at he hd
        rcases he with he | rfl
        · rcases hd with hd | rfl
          · exact h2 c ⟨⟨e, he, hce⟩, ⟨d, hd, hcd⟩⟩
          · simp [QueueEntry.fresh] at hcd
        · simp [QueueEntry.fresh] at hce
      | claim b =>
        simp only [Request.other] at he hd
        split at he
        · rw [if_pos (by assumption)] at hd
          exact h2 c ⟨⟨e, he, hce⟩, ⟨d, hd, hcd⟩⟩
        · rw [if_neg (by assumption)] at hd
          simp only [List.mem_append, List.mem_filter, List.mem_singleton, bne_iff_ne] at he hd
          rcases hd with ⟨hd, hdn⟩ | rfl
          · rcases he with ⟨he, -⟩ | rfl
            · exact h2 c ⟨⟨e, he, hce⟩, ⟨d, hd, hcd⟩⟩
            · simp only [QueueEntry.fresh, Request.claim.injEq] at hce
              subst hce
              exact hdn hcd
          · simp [QueueEntry.fresh] at hcd
      | release b =>
        simp only [Request.other] at he hd
        split at he
        · rw [if_pos (by assumption)] at hd
          exact h2 c ⟨⟨e, he, hce⟩, ⟨d, hd, hcd⟩⟩
        · rw [if_neg (by assumption)] at hd
          simp only [List.mem_append, List.mem_filter, List.mem_singleton, bne_iff_ne] at he hd
          rcases he with ⟨he, hen⟩ | rfl
          · rcases hd with ⟨hd, -⟩ | rfl
            · exact h2 c ⟨⟨e, he, hce⟩, ⟨d, hd, hcd⟩⟩
            · simp only [QueueEntry.fresh, Request.release.injEq] at hcd
              subst hcd
              exact hen hce
          · simp [QueueEntry.fresh] at hce

end Sys2Proof.Machine
end

