-- ==== Sys2Proof/Tests/Slice0.lean ====
section
/-! SUPPORT. The tests of this model: the well-formedness smoke tests, tests of single steps whose expected values are the manual's
own (its worked examples and tables), and for each obligation with hypotheses a witness that meets them. -/

set_option Elab.async false

namespace Sys2Proof.Tests

open Sys2Proof Sys2Proof.Machine

/-! ## Helpers -/

/-- The state that an outcome leads to. -/
def nextOf : Host.Outcome State Fault Refusal → State
  | .next s => s
  | .fault _ => .reset
  | .refused _ => .reset

/-- Arguments of CONFIG: address, bit-rate code, slot code, budget, interval and the rating of channel 3. -/
def config (address rate slot : Byte) (budget : BitVec 16) (interval : Byte) (rating : BitVec 16) : ConfigArgs :=
  { address := address, rateCode := rate, slotCode := slot, budget := budget, interval := interval, mask := 0xFFFF
    ratings := Vector.ofFn fun c => if c.val = 3 then rating else 0 }

/-- The usual configuration: station 5, B = 100 LU, I = 4, channel 3 at 40 LU, cycles of 2000 bit times. -/
def usual : ConfigArgs := config 5 0 4 100 4 40

/-- A plan of given holdings, whose present owners have age 2. -/
def planOf (present : List Address) (hs : List Holding) : PlanTable :=
  hs.foldl PlanTable.insert
    { PlanTable.reset with
      peers := Vector.ofFn fun a => if present.contains a then { present := true, age := 2, cycleAge := 9 } else .reset }

/-- A configured station in a station state, in the middle of a cycle with counter 7. -/
def at' (state : StationState) (cause : Cause) (t : PlanTable) : State :=
  { State.reset with
    cfg := configurationOf usual
    station := { Station.reset with state := state, cause := cause }
    timer := { running := true, localTime := 100000, slotIndex := 6, cycleCounter := 7, syncAcquired := true }
    lines := { LineInterface.reset with syncHighTime := 100000 }
    engine := { MessageEngine.reset with framing := .idle, recessiveTime := 10000 }
    channels := Vector.ofFn fun c => Channel.reset.configure usual.ratings[c].toNat
    table := t
    port := { LocalPort.reset with ready := true, mask := 0xFFFF } }

/-- Stations 2 and 5 PRESENT, and one holding of each. -/
def plan : PlanTable := planOf [2, 5] [⟨5, 3, 25, 2, 40⟩, ⟨2, 1, 26, 3, 50⟩]

/-- Station 5 JOINED, its channel 3 HELD. -/
def joined : State :=
  { at' .joined .window plan with
    channels := (at' .joined .window plan).channels.set 3
      { Channel.reset with state := .held, rating := 40, target := 13, held := 13, span := some ⟨25, 2⟩ } }

/-- The state with its port in a phase. -/
def inPhase (p : Phase) (s : State) : State := { s with port := { s.port with selectLow := true, phase := p } }

/-- The state with a channel 3 record. -/
def withChannel (state : ChannelState) (target held : Nat) (span : Option Span) (s : State) : State :=
  { s with channels := s.channels.set 3 { s.channels[3] with state := state, target := target, held := held, span := span } }

/-- The state with a transmit queue. -/
def withQueue (q : List QueueEntry) (s : State) : State := { s with sched := { s.sched with queue := q } }

/-- The state framing a message of another station. -/
def framing (s : State) : State :=
  { s with engine := { s.engine with framing := .frame, frame := some { read := [false], elapsed := 512 } } }

/-- The state driving its own message. -/
def driving (r : Request) (m : Message) (target : Nat) (s : State) : State :=
  { framing s with
    lines := { s.lines with dataDriving := true }
    engine := { (framing s).engine with transmission := .driving, request := some r }
    sched :=
      { queue := s.sched.queue.map fun e => if e.request = r then { e with onWire := true } else e
        composed := some { request := r, message := m, target := target, station := s.station.state }, voids := 3 } }

/-- The state with event records. -/
def withEvents (rs : List EventRecord) (s : State) : State :=
  { s with port := { s.port with events := rs, attn := !rs.isEmpty } }

/-- Two event records. -/
def records : List EventRecord := [⟨.peerArrived, .address 9, 0x0102⟩, ⟨.joined, .cause .early, 4⟩]

/-- The station with SYNC low and DATA dominant. -/
def lowLines (s : State) : State := { s with lines := { s.lines with syncLow := true, dataDominant := true } }

/-- The plan once station 5 has closed: station 2's holding alone. -/
def planWithout5 : PlanTable := planOf [2, 5] [⟨2, 1, 26, 3, 50⟩]

/-- The state with an own verdict, and whether this station pulls REFUSE. -/
def judged (v : Verdict) (pulls : Bool) (s : State) : State :=
  { s with engine := { s.engine with verdict := some v }, lines := { s.lines with dataDriving := pulls } }

/-- Station 5 drives a CLAIM that makes its channel 3 longer. -/
def claiming : State :=
  driving (.claim 3) (.claim 5 ⟨3, 25, 2, 40⟩) 17
    (withQueue [.fresh .announce, .fresh (.claim 3)] (withChannel .inFlight 17 13 (some ⟨25, 2⟩) joined))

/-- Station 5 drives the RELEASE of its channel 3. -/
def releasing : State :=
  driving (.release 3) (.release 5 3) 0 (withQueue [.fresh (.release 3)] (withChannel .inFlight 0 13 (some ⟨25, 2⟩) joined))

/-- Station 5 drives an ANNOUNCE composed in a station state, of given entries. -/
def announcing (entries : List WireEntry) (s : State) : State :=
  driving .announce (.announce 5 joined.cfg.digest 7 entries) 0 (withQueue [.fresh .announce, .fresh (.release 3)] s)

/-- The hand-offs of a message in a row. -/
def handed (late : LateOutcome) : List EdgePart := [.message late, .attemptReport, .stationReport]

/-- Another station's ROLLCALL commits together with the edge. -/
def called : LateOutcome := .committed (.rollcall 2) false

/-- The own RELEASE commits together with the edge. -/
def released : LateOutcome := .committed (.release 5 3) false

/-- The own CLAIM commits admitted together with the edge. -/
def claimed : LateOutcome := .committed (.claim 5 ⟨3, 25, 2, 40⟩) false

/-- The own pulse has begun, and its fall has not been taken. -/
def pulsing (s : State) : State := { s with lines := { s.lines with syncDriving := true } }

/-! ## The well-formedness smoke tests: a term that each check refuses -/

theorem test_wellFormed_accepts : (Instr.claimCommit 2 ⟨1, 0, 0, 10⟩ false).wellFormed = true := by decide
theorem test_wellFormed_refuses_known_code : (Instr.badCommand 0x15).wellFormed = false := by decide
theorem test_wellFormed_refuses_order_without_a_block :
    (Instr.syncEdge 0 [.planTable, .driveUnit, .messageEngine]).wellFormed = false := by decide
theorem test_wellFormed_refuses_latch_before_expiry :
    (Instr.syncEdge 0 [.driveUnit, .planTable, .messageEngine, .stationController]).wellFormed = false := by decide
theorem test_wellFormed_refuses_channel_12 : (Instr.claimCommit 2 ⟨12, 0, 0, 10⟩ false).wellFormed = false := by decide
theorem test_wellFormed_refuses_rating_0 : (Instr.refuseBit 2 ⟨11, 0, 0, 0⟩).wellFormed = false := by decide
theorem test_wellFormed_refuses_a_channel_twice :
    (Instr.announceCommit 2 0 0 [⟨1, 0, 0, 10⟩, ⟨1, 9, 0, 10⟩]).wellFormed = false := by decide
theorem test_wellFormed_refuses_13_entries :
    (Instr.announceCommit 2 0 0 (List.replicate 13 ⟨1, 0, 0, 10⟩)).wellFormed = false := by decide
theorem test_wellFormed_refuses_release_12 : (Instr.releaseCommit 2 12).wellFormed = false := by decide
theorem test_wellFormed_refuses_16_entries :
    (Instr.messageObjected (.announce 2 0 0 (List.replicate 16 ⟨1, 0, 0, 10⟩)) 0).wellFormed = false := by decide
theorem test_wellFormed_refuses_a_commit_behind_the_plan :
    (Instr.syncEdge 0 ([.planTable] ++ handed called ++ [.driveUnit, .messageEngine, .stationController])).wellFormed = false := by
  decide
theorem test_wellFormed_refuses_a_latch_between_commit_and_plan :
    (Instr.syncEdge 0
      [.message called, .driveUnit, .planTable, .attemptReport, .stationReport, .messageEngine, .stationController]).wellFormed
      = false := by decide
theorem test_wellFormed_refuses_a_report_before_the_commit :
    (Instr.syncEdge 0 ([.attemptReport, .message called, .stationReport] ++ EdgePart.usualOrder)).wellFormed = false := by decide
theorem test_wellFormed_refuses_station_reports_out_of_turn :
    (Instr.syncEdge 0 ([.message called, .stationReport, .attemptReport] ++ EdgePart.usualOrder)).wellFormed = false := by decide
theorem test_wellFormed_refuses_a_commit_without_its_reports :
    (Instr.syncEdge 0 (.message called :: EdgePart.usualOrder)).wellFormed = false := by decide
theorem test_wellFormed_refuses_a_report_between_engine_and_station :
    (Instr.syncEdge 0
      [.message called, .attemptReport, .planTable, .driveUnit, .stationController, .stationReport, .messageEngine]).wellFormed
      = false := by decide
theorem test_wellFormed_accepts_late_orders :
    [handed called ++ EdgePart.usualOrder, EdgePart.driveUnit :: handed called ++ [.planTable, .messageEngine, .stationController],
      [.message claimed, .planTable, .driveUnit, .attemptReport, .stationReport, .messageEngine, .stationController],
      EdgePart.usualOrder ++ handed (.objected (.rollcall 2) 0)].all (fun o => (Instr.syncEdge 0 o).wellFormed) = true := by decide
theorem test_wellFormed_refuses_a_late_commit_of_channel_12 :
    (Instr.syncEdge 0 (handed (.committed (.release 2 12) false) ++ EdgePart.usualOrder)).wellFormed = false := by decide

/-! ## Decoding: the rows give no bits -/

theorem test_no_word_spells_a_command : decodeTableWord 8 0x15 = none ∧ decodeTableWord 0 0 = none := by decide
theorem test_withFetchWord_changes_nothing : State.reset.withFetchWord 8 0x15 = State.reset := rfl

/-! ## The manual's examples -/

/-- 10.2.1: the ROLLCALL of station 5, bit by bit. -/
theorem test_rollcall_wire :
    (Message.rollcall 5).check = 0b11000110
      ∧ (Message.rollcall 5).wire
          = [false, true, true, false, false, true, false, true, true, true, false, false, false, true, true, false, true,
              true, true, true] := by decide

/-- R67's table: twelve entries commit 357 bit times after the SOF and end at 360. -/
theorem test_longest_announce :
    (Message.announce 1 2 3 (List.replicate 12 ⟨1, 0, 0, 10⟩)).commitPoint = 357
      ∧ (Message.announce 1 2 3 (List.replicate 12 ⟨1, 0, 0, 10⟩)).wire.length = 360 := by decide +kernel

/-- R2: start 60 and length 8 cover 60 to 63 and 0 to 3. -/
theorem test_wrapping_span : allSlots.filter (spanCovers 60 8) = [0, 1, 2, 3, 60, 61, 62, 63] := by decide +kernel

/-- The replica of 1.6.3 at station 3. -/
def replica : PlanTable :=
  planOf [3, 5, 7, 9, 12] [⟨3, 0, 60, 8, 40⟩, ⟨5, 0, 40, 4, 35⟩, ⟨7, 2, 0, 4, 30⟩, ⟨9, 4, 2, 2, 25⟩, ⟨12, 5, 4, 6, 60⟩]

theorem test_replica_sums :
    [0, 2, 4, 10, 40, 60].map (fun k : Slot => (replica.sums[k], replica.counts[k]))
      = [(70, 2), (95, 3), (60, 1), (0, 0), (35, 1), (40, 1)] := by decide +kernel

/-- 1.6.3: claims A, B and C. -/
theorem test_claims_a_b_c :
    (replica.admission 100 7 2 62 6 30, replica.admission 100 12 1 8 4 45, replica.admission 100 20 0 30 2 10)
      = (Verdict.admits, Verdict.refuses, Verdict.refuses) := by decide +kernel

/-- 1.6.3: station 3 pulls REFUSE on claim B. -/
theorem test_refuse_bit_claim_b :
    let s := { framing (at' .joined .window replica) with cfg := configurationOf (config 3 0 4 100 4 40) }
    let t := nextOf (exec (.refuseBit 12 ⟨1, 8, 3, 45⟩) s)
    (t.engine.verdict, t.lines.dataDriving) = (some .refuses, true) := by decide +kernel

/-- 1.7.2: the ANNOUNCE of station 5 after the partition. -/
theorem test_partition_heals :
    let s := { framing (at' .joined .window replica) with cfg := configurationOf (config 3 0 4 100 4 40) }
    let t := nextOf (exec (.announceCommit 5 s.cfg.digest 0 [⟨0, 0, 2, 35⟩, ⟨1, 20, 9, 25⟩]) s)
    (t.table.plan.map fun h => (h.owner, h.channel)) = [(3, 0), (5, 0), (5, 1), (12, 5)]
      ∧ [0, 2, 3, 4, 20, 40, 60].map (fun k : Slot => t.table.sums[k]) = [75, 75, 40, 60, 25, 0, 40] := by
  decide +kernel

/-- The plan of 5.4.3 without channel 3: slots 25 to 27 at 70 LU, 28 to 33 at 50 and 34 at 80. -/
def crowded : PlanTable := planOf [5, 9] [⟨9, 0, 25, 3, 70⟩, ⟨9, 1, 28, 6, 50⟩, ⟨9, 2, 34, 1, 80⟩]

/-- 5.4.3: the three claims. -/
theorem test_placement :
    (crowded.place 100 5 3 5 40, (crowded.insert ⟨5, 3, 28, 5, 40⟩).place 100 5 3 8 40,
      (crowded.insert ⟨5, 3, 35, 8, 40⟩).place 100 5 3 64 40) = (some 28, some 35, none) := by decide +kernel

/-- 5.4.3: the first CLAIM goes out with start 28, length 5 and rating 40. -/
theorem test_claim_goes_out :
    let s := withQueue [.fresh (.claim 3)] (withChannel .queued 36 0 none (at' .joined .window crowded))
    let t := nextOf (exec .startOfFrame s)
    t.sched.composed.map Composed.message = some (.claim 5 ⟨3, 28, 4, 40⟩) ∧ t.channels[3].state = .inFlight := by
  decide +kernel

/-- 5.4.3: the third CLAIM finds no fit. -/
theorem test_claim_starves :
    let s := withQueue [.fresh (.claim 3)]
      (withChannel .queued 512 60 (some ⟨35, 8⟩) (at' .joined .window (crowded.insert ⟨5, 3, 35, 8, 40⟩)))
    let t := nextOf (exec .startOfFrame s)
    t.channels[3].state = .starved ∧ t.channels[3].span = some ⟨35, 8⟩ ∧ t.sched.queue = [] := by decide +kernel

/-- 7.3.2: the four entries at dither indices 0 to 7 of the table's rows. -/
theorem test_dither_round :
    (List.range 4).map (fun i =>
        [(⟨10, 1, 1⟩ : DriveEntry), ⟨20, 2, 4⟩, ⟨40, 4, 6⟩, ⟨5, 64, 5⟩].map fun e => allSlots.countP (e.conducts i))
      = [[1, 2, 4, 64], [0, 1, 4, 64], [0, 2, 4, 64], [0, 1, 3, 63]] := by decide +kernel

/-- 5.6.1: the QUIET command while CLAIM 2 is on the wire. -/
theorem test_quiet_with_a_claim_on_the_wire :
    let s := inPhase .command
      (withQueue [⟨.claim 2, true, false⟩, .fresh (.claim 0)] (at' .joined .window plan))
    let t := nextOf (exec .quiet s)
    t.sched.queue = [⟨.claim 2, true, true⟩, .fresh .announce] ∧ t.station.state = .leaving := by decide +kernel

/-- 8.3.1: the third edge ends the window early, and the JOINED event carries the stamp 4. -/
theorem test_early_join :
    let s := at' .listen .config plan
    let s := { s with
      station := { s.station with opened := true, count := 2, rollcall := .earlier }, timer := { s.timer with cycleCounter := 3 } }
    let t := nextOf (exec (.syncEdge 0 EdgePart.usualOrder) s)
    (t.station.state, t.station.cause, t.port.events) = (.joined, .early, [⟨.joined, .cause .early, 4⟩]) := by decide +kernel

/-- 8.3.1: the edge that ends the first cycle, with traffic, moves the rollcall mark on. -/
theorem test_window_goes_on :
    let s := at' .listen .config plan
    let s := { s with station := { s.station with opened := true, traffic := true, rollcall := .thisCycle } }
    let t := nextOf (exec (.syncEdge 0 EdgePart.usualOrder) s)
    (t.station.state, t.station.count, t.station.traffic, t.station.rollcall) = (.listen, 1, false, .earlier) := by decide +kernel

/-- 2.4.1: station 9 has been silent for 12 cycles, and its holding leaves with it. -/
theorem test_silent_peer_expires :
    let t0 := planOf [5, 9] [⟨9, 3, 10, 8, 50⟩]
    let s := at' .joined .window { t0 with peers := t0.peers.set 9 ⟨true, 11, 77⟩ }
    let t := nextOf (exec (.syncEdge 0 EdgePart.usualOrder) s)
    (t.table.plan, t.table.peers[9], t.port.events)
      = ([], ⟨false, 12, 77⟩, [⟨.peerExpired, .address 9, 8⟩]) := by decide +kernel

/-- R154 and R166: each check of CONFIG at both sides of its bounds. -/
theorem test_config_checks :
    [config 31 0 4 100 4 40, config 32 0 4 100 4 40, config 5 3 1 100 4 40, config 5 4 4 100 4 40, config 5 0 0 100 4 40,
      config 5 0 64 100 4 40, config 5 0 65 100 4 40, config 5 0 4 0 4 40, config 5 0 4 4095 4 40, config 5 0 4 4096 4 40,
      config 5 0 4 100 3 40, config 5 0 4 100 64 40, config 5 0 4 100 65 40, config 5 0 3 100 4 40,
      config 5 0 4 100 4 101, config 5 0 4 4095 4 1023, config 5 0 4 4095 4 1024, config 5 0 4 100 4 0].map configCheck
      = [0, 1, 0, 2, 3, 0, 3, 4, 0, 4, 5, 0, 5, 6, 7, 0, 7, 8] := by decide +kernel

/-- R49: the least slot code at bit-rate code 0 is 4, 2000 bit times; CONFIG's digest is that of R42's five bytes. -/
theorem test_config_applies :
    let t := nextOf (exec (.config usual) (inPhase .command { State.reset with port := { LocalPort.reset with ready := true } }))
    (t.station.state, t.cfg.digest, t.channels[3].rating, t.channels[0].state, t.port.reply)
      = (.listen, crc (bitsOf (0x0004006404 : BitVec 40)), 40, .unused, [0, 0]) := by decide +kernel

/-- R166: a demand of 0x0201 gives BAD_ARGUMENT, and one of 0x0200 does not. -/
theorem test_demand_bounds :
    ((nextOf (exec (.demand 3 0x0201) (inPhase .command joined))).port.reply,
      (nextOf (exec (.demand 3 0x0200) (inPhase .command joined))).port.reply) = ([0x03], [0x00]) := by decide +kernel

/-- R104, R106: another length in JOINED queues a CLAIM and keeps the span. -/
theorem test_demand_grows :
    let t := nextOf (exec (.demand 3 17) (inPhase .command joined))
    (t.channels[3].state, t.channels[3].held, t.sched.queue) = (.queued, 13, [.fresh (.claim 3)]) := by decide +kernel

/-- R107: bit 2 of the mask selects EVICTED. -/
theorem test_clear_evicted :
    let s := { joined with channels := joined.channels.set 3 { joined.channels[3] with starved := true, evicted := true } }
    let t := nextOf (exec (.clear 3 0xFC) (inPhase .command s))
    (t.channels[3].starved, t.channels[3].evicted) = (true, false) := by decide +kernel

/-- R145: return to JOINED with a clear flag, and to LISTEN with the flag set. -/
theorem test_leave_quiet :
    let s := inPhase .command (at' .quiet .closed plan)
    ((nextOf (exec .leaveQuiet s)).station.cause,
      (nextOf (exec .leaveQuiet { s with station := { s.station with quietStale := true } })).station.cause)
      = (.returned, .stale) := by decide +kernel

/-- R167: the CHANNEL reply. -/
theorem test_channel_reply :
    (nextOf (exec (.channel 3) (inPhase .command joined))).port.reply = [0, 5, 0, 40, 0, 13, 0, 13, 0x80 + 25, 2, 0] := by
  decide +kernel

/-- R167: the SLOT reply; slot 26 is covered twice. -/
theorem test_slot_reply : (nextOf (exec (.slot 26) (inPhase .command joined))).port.reply = [0, 0, 90, 0, 2] := by
  decide +kernel

/-- R167: the HOLDINGS reply. -/
theorem test_holdings_reply : (nextOf (exec (.holdings 2) (inPhase .command joined))).port.reply = [0, 1, 1, 26, 3, 0, 50] := by
  decide +kernel

/-- R167: the PEER reply. -/
theorem test_peer_reply : (nextOf (exec (.peer 2) (inPhase .command joined))).port.reply = [0, 1, 2, 0, 9] := by decide +kernel

/-- R167: the STATION reply of a JOINED station. -/
theorem test_station_reply :
    (nextOf (exec .station (inPhase .command joined))).port.reply = [0, 2, 4, 1, 0, 7, 2, 2, 0, 2, 0, 0] := by decide +kernel

/-- R162, R167: the EVENT reply, and the record stays until its last bit. -/
theorem test_event_reply :
    let t := nextOf (exec .event (inPhase .command (withEvents records joined)))
    (t.port.reply, t.port.events.length, t.port.pendingRemoval) = ([0, 10, 9, 1, 2], 2, true) := by decide +kernel

theorem test_event_removed :
    let t := nextOf (exec .event (inPhase .command (withEvents records joined)))
    (nextOf (exec .eventRecordRemoved t)).port.events = records.tail := by decide +kernel

/-- R162: a rise of chip select in the record's last byte keeps the record. -/
theorem test_event_cut_short :
    let t := nextOf (exec .event (inPhase .command (withEvents records joined)))
    ((nextOf (exec (.transactionEnd [0, 0, 0, 0]) t)).port.events, (nextOf (exec (.transactionEnd [0, 0, 0, 0, 0]) t)).port.events)
      = (records, records.tail) := by decide +kernel

/-- R160: the sixteenth record is an OVERFLOW that names the kind it replaced, and a seventeenth is discarded. -/
theorem test_overflow :
    let p15 : LocalPort := { joined.port with events := List.replicate 15 ⟨.joined, .cause .window, 1⟩, attn := true }
    let p16 := p15.post ⟨.peerArrived, .address 9, 4⟩
    p16.events.getLast? = some ⟨.overflow, .kind .peerArrived, 4⟩ ∧ p16.post ⟨.peerArrived, .address 9, 4⟩ = p16 := by
  decide +kernel

/-- R153: a byte that names no command. -/
theorem test_bad_command : (nextOf (exec (.badCommand 0x06) (inPhase .command joined))).port.reply = [0x02] := by decide +kernel

/-- R48, R123: the latch and slot 0 at an edge: span 25, 2 with held demand 13 has fraction 5. -/
theorem test_latch :
    (nextOf (exec (.syncEdge 0 EdgePart.usualOrder) joined)).drive.table[3] = some ⟨25, 2, 5⟩ := by decide +kernel

/-- R123, R124: in slot 26, the last of the span, index 7 is not among the first five of the order. -/
theorem test_slot_start :
    let s := { joined with
      drive := { joined.drive with table := joined.drive.table.set 3 (some ⟨25, 2, 5⟩) }
      timer := { joined.timer with slotIndex := 24 } }
    let t := nextOf (exec .slotStart s)
    (t.drive.outputs[3], (nextOf (exec .slotStart t)).drive.outputs[3]) = (true, false) := by decide +kernel

/-- R52: a fall of SYNC that is not valid leaves the timer alone. -/
theorem test_invalid_edge : (nextOf (exec (.invalidSyncEdge 9) joined)).timer = joined.timer := by decide +kernel

/-- R36, R113: the own holdings go, and the channel asks again. -/
theorem test_self_expired :
    let t := nextOf (exec .selfExpired joined)
    (t.channels[3].state, t.channels[3].evicted, t.sched.queue, t.table.plan.length)
      = (.queued, true, [.fresh (.claim 3), .fresh .announce], 1) := by decide +kernel

/-- R35: the holdings of another station go. -/
theorem test_peer_expired :
    let t := nextOf (exec (.peerExpired 2) joined)
    (t.table.plan.length, t.table.peers[2].present, t.port.events) = (1, false, [⟨.peerExpired, .address 2, 7⟩]) := by
  decide +kernel

/-- R39: due in JOINED and not in QUIET. -/
theorem test_announce_due :
    ((nextOf (exec .announceDue joined)).sched.queue, (nextOf (exec .announceDue (at' .quiet .closed plan))).sched.queue)
      = ([.fresh .announce], []) := by decide +kernel

/-- R137: the window ends at E edges with cause WINDOW. -/
theorem test_window_end :
    let s := at' .listen .config plan
    (nextOf (exec .joinWindowEnd { s with station := { s.station with opened := true, count := 11 } })).station.cause = .window := by
  decide +kernel

/-- R58: 400 bit times of 512 periods before the end of a cycle of 64 slots of 16000 periods. -/
theorem test_guard_window : (nextOf (exec .guardWindow joined)).timer.localTime = 64 * 16000 - 400 * 512 := by decide +kernel

/-- R51, R53: the pulse at the end of the cycle; the fall that it makes is a valid edge, and its release comes 8 bit times later. -/
theorem test_pulse :
    let t := nextOf (exec .syncPulse joined)
    let u := nextOf (exec .syncPulseRelease t)
    (t.lines.syncDriving, t.timer.localTime, u.lines.syncDriving, u.lines.syncLow, u.timer.localTime, u.timer.cycleCounter)
      = (true, 64 * 16000, false, false, 8 * 512, 8) := by decide +kernel

/-- R50, R56: two cycle lengths without an edge, in slot 63. -/
theorem test_sync_acquired :
    let t := nextOf (exec .syncAcquired { joined with timer := { joined.timer with syncAcquired := false } })
    (t.timer.syncAcquired, t.timer.slotIndex, t.lines.syncDriving) = (true, 63, true) := by decide +kernel

/-- R118, R146: FAULT keeps the target, and the output is off. -/
theorem test_stuck :
    let t := nextOf (exec .dataStuck (lowLines joined))
    (t.station.cause, t.channels[3].state, t.channels[3].target, t.table.plan, t.timer.cycleCounter)
      = (.dataStuck, .waiting, 13, [], 7)
      ∧ (nextOf (exec .syncStuck (lowLines joined))).station.cause = .syncStuck := by decide +kernel

/-- R147: FAULT_CLEARED with stamp 0. -/
theorem test_lines_idle :
    let t := nextOf (exec .linesIdle (nextOf (exec .syncStuck (lowLines joined))))
    (t.station.cause, t.port.events.getLast?, t.sched.queue)
      = (.recovery, some ⟨.faultCleared, .address 5, 0⟩, [.fresh .rollcall]) := by decide +kernel

/-- R64: a fall in IDLE is a start of frame; GAP becomes IDLE. -/
theorem test_framing :
    let gap := { joined with engine := { joined.engine with framing := .gap, recessiveTime := 0 } }
    ((nextOf (exec (.dataFall 512) joined)).engine.framing, (nextOf (exec .framingIdle gap)).engine.framing)
      = (.frame, .idle) := by decide +kernel

/-- A JOINED station at which END begins. -/
def inEnd : State := nextOf (exec (.rollcallCommit 9) (framing joined))

/-- R64: IDLE comes with the end of an END without a dominant bit. -/
theorem test_clean_END :
    inEnd.engine.ending = some ⟨0, false⟩
      ∧ (nextOf (exec .framingIdle inEnd)).timer.localTime = inEnd.timer.localTime + 3 * 512 := by decide +kernel

/-- R76: a dominant bit in END, recessive again for half a bit time when END is over, sets the measure back to 0 there. -/
theorem test_dominant_bit_in_END :
    let s := nextOf (exec (.dataFall 512) (advance (512 + 256) inEnd))
    (s.engine.ending, (advance 511 s).engine.recessiveTime, (advance 511 s).engine.ending)
        = (some ⟨1024, false⟩, 0, some ⟨1535, true⟩)
      ∧ (let u := nextOf (exec (.dataFall 300) (advance 100 inEnd))
        ((advance 1535 u).engine.recessiveTime, (advance 1536 u).engine.recessiveTime, (advance 1536 u).engine.ending,
            (nextOf (exec .framingIdle u)).timer.localTime)
          = (1235, 0, none, u.timer.localTime + 6 * 512)) := by decide +kernel

/-- 10.2.1, R62, R67: the ROLLCALL of station 5, read level by level from its falls; its check is 11000110. -/
theorem test_rollcall_is_read_bit_by_bit :
    let bits (n : Nat) : Nat := n * 512
    let s := nextOf (exec (.dataFall (bits 1)) joined)
    let s := nextOf (exec (.dataFall (bits 2)) (advance (bits 3) s))
    let s := nextOf (exec (.dataFall (bits 1)) (advance (bits 3) s))
    let s := nextOf (exec (.dataFall (bits 3)) (advance (bits 4) s))
    let s := nextOf (exec (.dataFall (bits 1)) (advance (bits 5) s))
    let t := advance (bits 1) s
    t.engine.frame.map FrameRecord.read = some ((Message.rollcall 5).wire.take 16)
      ∧ (t.engine.accumulator, t.engine.objection) = (0b11000110, some .pass) := by decide +kernel

/-- A receiver that has read the ROLLCALL of station 9 with a CHECK, in the last bit of it. -/
def readTo (check : BitVec 8) : State :=
  { joined with
    engine :=
      { joined.engine with
        framing := .frame, frame := some { read := (Message.rollcall 9).read check, elapsed := 15 * 512 + 300 }
        objection := some ((Message.rollcall 9).objection check) } }

/-- R65, R68: the SOF, KIND and SENDER of the own ROLLCALL on the line, 0 11 00101, dominant for 0. -/
theorem test_own_bits_on_the_line :
    let t := nextOf (exec .startOfFrame (withQueue [.fresh .rollcall] (at' .listen .config plan)))
    (List.range 8).map (fun i => (advance (i * 512 + 10) t).lines.dataDominant)
      = [true, false, false, true, true, false, true, false] := by decide +kernel

/-- R72: OBJECT, bit 16 of a ROLLCALL, is pulled for a CHECK that differs from the accumulator, and only then. -/
theorem test_object_on_the_line :
    let s := readTo ((Message.rollcall 9).check + 1)
    let t := readTo (Message.rollcall 9).check
    [211, 212, 212 + 511, 212 + 512].map (fun d => ((advance d s).lines.dataDominant, (advance d t).lines.dataDominant))
      = [(false, false), (true, false), (true, false), (false, false)] := by decide +kernel

/-- R75: REFUSE, bit 43 of a CLAIM, is pulled in JOINED on the claim of an ABSENT sender, and not in QUIET. -/
theorem test_refuse_on_the_line :
    let t := nextOf (exec (.refuseBit 9 ⟨1, 40, 4, 50⟩) (framing joined))
    let q := nextOf (exec (.refuseBit 9 ⟨1, 40, 4, 50⟩) (framing (at' .quiet .closed plan)))
    [0, 511, 512].map (fun d => ((advance d t).lines.dataDominant, (advance d q).lines.dataDominant))
      = [(true, false), (true, false), (false, false)] := by decide +kernel

/-- R66: the station joins at 9 bit times and drives its ANNOUNCE. -/
theorem test_join_start_of_frame :
    let s := withQueue [.fresh .announce] { joined with engine := { joined.engine with recessiveTime := 9 * 512 } }
    (nextOf (exec .joinStartOfFrame s)).sched.composed.map Composed.message
      = some (.announce 5 joined.cfg.digest 7 [⟨3, 25, 1, 40⟩]) := by decide +kernel

/-- R96: a lost CLAIM is QUEUED again, and the void counter stands. -/
theorem test_attempt_lost :
    let s := driving (.claim 3) (.claim 5 ⟨3, 25, 2, 40⟩) 17
      (withQueue [.fresh (.claim 3)] (withChannel .inFlight 17 13 (some ⟨25, 2⟩) joined))
    let t := nextOf (exec .attemptLost s)
    (t.channels[3].state, t.sched.queue, t.sched.voids, t.engine.transmission)
      = (.queued, [.fresh (.claim 3)], 3, .none) := by decide +kernel

/-- R97 (5.6.2): the eighth void in a row posts TX_OBJECTED with cause OBJECTED. -/
theorem test_eighth_void :
    let s := driving .announce (.announce 5 joined.cfg.digest 7 []) 0 (withQueue [.fresh .announce] joined)
    let t := nextOf (exec (.messageObjected (.announce 5 joined.cfg.digest 7 []) 0) { s with sched := { s.sched with voids := 7 } })
    (t.sched.voids, t.port.events, t.sched.queue)
      = (8, [⟨.txObjected, .cause .objected, 7⟩], [.fresh .announce]) := by decide +kernel

/-- R70, R148: a station that stopped after SENDER, and whose message commits all the same, halts. -/
theorem test_mismatch_then_commit :
    let s := driving .announce (.announce 5 joined.cfg.digest 7 []) 0 (withQueue [.fresh .announce] joined)
    let t := nextOf (exec .mismatchAfterSender s)
    (t.engine.transmission, (nextOf (exec (.announceCommit 5 joined.cfg.digest 7 []) t)).station.cause)
      = (.stopped, .addressClash) := by decide +kernel

/-- R12: the admitted CLAIM of a PRESENT station replaces its holding. -/
theorem test_claim_commits :
    (nextOf (exec (.claimCommit 2 ⟨1, 40, 4, 50⟩ false) (framing joined))).table.find 2 1 = some ⟨2, 1, 40, 5, 50⟩ := by
  decide +kernel

/-- R78: the own verdict admits, and REFUSE reads dominant. -/
theorem test_divergence :
    let t := nextOf (exec (.claimCommit 2 ⟨1, 40, 4, 50⟩ true) (framing joined))
    (t.station.state, t.station.cause, t.table.plan.length, t.engine.framing) = (.resync, .divergence, 1, .awaitSync) := by
  decide +kernel

/-- R15: a RELEASE, and the retry of a STARVED channel (R114). -/
theorem test_release_frees :
    let s := framing (withChannel .starved 300 13 (some ⟨25, 2⟩) joined)
    let t := nextOf (exec (.releaseCommit 2 1) s)
    (t.table.plan.length, t.channels[3].state, t.sched.queue) = (1, .queued, [.fresh (.claim 3)]) := by decide +kernel

/-- R122: a RELEASE that commits in END while the edge latches: either may come first. -/
theorem test_latch_beside_a_commit :
    let first := nextOf (exec (.syncEdge 0 (handed released ++ EdgePart.usualOrder)) releasing)
    let second := nextOf
      (exec (.syncEdge 0 (.driveUnit :: handed released ++ [.planTable, .messageEngine, .stationController])) releasing)
    (first.drive.table[3], first.channels[3].span) = (none, none)
      ∧ (second.drive.table[3], second.channels[3].span) = (some ⟨25, 2, 5⟩, none) := by decide +kernel

/-- R121: the edge falls between the commit of a CLAIM for 3 slots and its report to a channel with the held demand 13: the entry takes
the whole new span. Behind the report it takes the new demand 17. -/
theorem test_latch_between_commit_and_report :
    let t := nextOf
      (exec (.syncEdge 0
        [.message claimed, .planTable, .driveUnit, .attemptReport, .stationReport, .messageEngine, .stationController]) claiming)
    let u := nextOf (exec (.syncEdge 0 (handed claimed ++ EdgePart.usualOrder)) claiming)
    (t.drive.table[3], t.channels[3].held) = (some ⟨25, 3, 0⟩, 17)
      ∧ (u.drive.table[3], u.channels[3].held) = (some ⟨25, 3, 1⟩, 17) := by decide +kernel

/-- R51, R77: no time passes before the fall of the own pulse, so that a message which has not come to its commit point is void; one in
END has committed. -/
theorem test_own_pulse_beside_a_message :
    let order := handed claimed ++ EdgePart.usualOrder
    let late := pulsing { claiming with
      engine := { claiming.engine with frame := some { read := [false], elapsed := 44 * 512 } } }
    let t := nextOf (exec (.syncEdge 0 order) (pulsing claiming))
    let u := nextOf (exec (.syncEdge 0 order) late)
    (t.channels[3].state, t.sched.voids, t.lines.pulseTime, t.lines.syncLow) = (.queued, 4, 0, true)
      ∧ (u.channels[3].state, u.sched.voids, u.lines.pulseTime, u.lines.syncLow) = (.held, 0, 0, true) := by decide +kernel

/-- R113: a channel whose CLAIM is objected and that expires at the same edge may receive either report first: with the void first its CLAIM
keeps its place in the queue, and in both it is queued without its span. -/
theorem test_expiry_beside_an_objection :
    let s := { claiming with
      table := { plan with peers := plan.peers.set 5 ⟨true, 11, 9⟩ }
      channels := claiming.channels.set 2
        { Channel.reset with state := .waiting, rating := 40, target := 8, span := none } }
    let o := LateOutcome.objected (.claim 5 ⟨3, 25, 2, 40⟩) 0
    let t := nextOf (exec (.syncEdge 0 (handed o ++ EdgePart.usualOrder)) s)
    let u := nextOf (exec (.syncEdge 0 (EdgePart.usualOrder ++ handed o)) s)
    (t.channels[3].state, t.channels[3].span, t.channels[3].evicted, t.engine.transmission) = (.queued, none, true, .none)
      ∧ (u.channels[3].state, u.channels[3].span, u.channels[3].evicted, u.engine.transmission) = (.queued, none, true, .none) := by
  decide +kernel

/-- R135: an edge that a verdict difference precedes opens the window of the RESYNC that it leads to, and DATA is framed from it on. -/
theorem test_resync_beside_an_edge :
    let s := judged .admits false (framing joined)
    let o := LateOutcome.committed (.claim 2 ⟨1, 40, 4, 50⟩) true
    let t := nextOf (exec (.syncEdge 0 (handed o ++ EdgePart.usualOrder)) s)
    let u := nextOf (exec (.syncEdge 0 (.message o :: EdgePart.usualOrder ++ [.attemptReport, .stationReport])) s)
    (t.station.state, t.station.opened, t.engine.framing) = (.resync, true, .gap)
      ∧ (u.station.state, u.station.opened, u.engine.framing) = (.resync, false, .awaitSync) := by decide +kernel

/-- R150, R151: the data output is driven while chip select is low at a ready port, with a transaction open or not. -/
theorem test_data_output :
    let s := inPhase .none joined
    (s.sdoDriven, s.sdoByte, joined.sdoDriven, (nextOf (exec .resetPin s)).sdoDriven) = (true, 0, false, false) := by decide +kernel

/-- R40: a ROLLCALL is answered in JOINED. -/
theorem test_rollcall_answered : (nextOf (exec (.rollcallCommit 9) (framing joined))).sched.queue = [.fresh .announce] := by
  decide +kernel

/-- R110: the own CLAIM, admitted. -/
theorem test_own_claim :
    let s := driving (.claim 3) (.claim 5 ⟨3, 25, 2, 40⟩) 17
      (withQueue [.fresh (.claim 3)] (withChannel .inFlight 17 13 (some ⟨25, 2⟩) joined))
    let t := nextOf (exec (.claimCommit 5 ⟨3, 25, 2, 40⟩ false) s)
    (t.channels[3].state, t.channels[3].held, t.channels[3].span, t.sched.voids)
      = (.held, 17, some ⟨25, 3⟩, 0) := by decide +kernel

/-- R133: the RESET pin clears FAULT, and the release lets the station start. -/
theorem test_reset :
    let t := nextOf (exec .resetPin (nextOf (exec .syncStuck (lowLines joined))))
    (t.station.state, t.inputs.pinLow, (nextOf (exec .resetRelease t)).inputs.pinLow) = (.unconfigured, true, false)
      ∧ (nextOf (exec .powerOnReset joined)).channels[3] = Channel.reset := by decide +kernel

/-- R150: no transaction before the port is ready. -/
theorem test_port_ready :
    let early := nextOf (exec .transactionStart State.reset)
    (early.port.phase, (nextOf (exec .transactionStart (nextOf (exec .portReady State.reset)))).port.phase)
      = (.none, .command) := by decide +kernel

/-- An empty queue is one period of CLKIN. -/
theorem test_tick : (nextOf (step joined)).timer.localTime = joined.timer.localTime + 1 := by decide +kernel

/-! ## Witnesses: a state and operands that meet the hypotheses of each obligation, clause by clause -/

/-- The plan of the tests obeys the laws of the plan. -/
theorem witness_plan_laws :
    plan.Lawful ∧ plan.WithinBudget 100 ∧ plan.InRange ∧ plan.OwnersPresent ∧ plan.AgesWithin 12 := by
  unfold PlanTable.Lawful PlanTable.WithinBudget PlanTable.InRange PlanTable.OwnersPresent PlanTable.AgesWithin
  decide +kernel

theorem witness_StepRunsFrontCommand : { joined with pending := [.station] }.pending = [.station] := rfl

theorem witness_ResetBringsEveryItemToItsResetValue :
    (nextOf (exec .resetPin joined)).heldInReset = true ∧ joined.heldInReset = false := by decide +kernel

theorem witness_ChipSelectFramesTransactions :
    (joined.heldInReset, joined.port.selectLow, joined.port.ready) = (false, false, true)
      ∧ (nextOf (exec .powerOnReset joined)).heldInReset = true
      ∧ (State.reset.port.selectLow, State.reset.port.ready) = (false, false)
      ∧ (inPhase .reply joined).port.selectLow = true := by decide +kernel

theorem witness_UnfinishedAndUnknownCommandsHaveNoEffect :
    (inPhase .command joined).port.phase = .command
      ∧ argumentCount 0x01 = some 32 ∧ (List.replicate 31 (0 : Byte)).length < 32
      ∧ argumentCount 0x10 = some 1 ∧ ([] : List Byte).length < 1
      ∧ [0x00, 0x06, 0x0F, 0x16, 0xFF].map knownCommand = [false, false, false, false, false] := by decide +kernel

theorem witness_ValidConfigEntersListen :
    let s := inPhase .command State.reset
    s.port.phase = .command ∧ s.station.state = .unconfigured ∧ configCheck usual = 0 ∧ s.sched.queue = [] := by
  decide +kernel

theorem witness_DemandSettlesItsChannel :
    let s := inPhase .command joined
    let u := inPhase .command (at' .listen .config plan)
    let f := withChannel .inFlight 17 13 (some ⟨25, 2⟩) s
    let starved := withChannel .starved 512 13 (some ⟨25, 2⟩) s
    -- settled with a span: a RELEASE or a CLAIM that the state may queue, or an equal length
    (s.port.phase, s.station.state, s.channels[3].state, s.channels[3].span) = (.command, .joined, .held, some ⟨25, 2⟩)
      ∧ (s.station.state.mayQueue (.release 3), s.station.state.mayQueue (.claim 3)) = (true, true)
      ∧ ((9 + 7) / 8, (16 + 7) / 8, (8 + 7) / 8, (17 + 7) / 8, (512 + 7) / 8) = (2, 2, 1, 3, 64)
      -- without a span, and where the state may queue nothing
      ∧ (u.channels[3].state, u.channels[3].span) = (.idle, none)
      ∧ (holds u.sched.queue (.claim 3), u.station.state.mayQueue (.claim 3), u.station.state.mayQueue (.release 3))
          = (false, false, false)
      -- the channel stays
      ∧ (f.channels[3].state, starved.channels[3].state, starved.channels[3].target) = (.inFlight, .starved, 512) := by
  decide +kernel

theorem witness_RefusedWriteCommandsChangeNothing :
    let s := inPhase .command joined
    let u := inPhase .command State.reset
    let h := inPhase .command (at' .halt .addressClash .reset)
    (s.port.phase, u.port.phase, h.port.phase) = (.command, .command, .command)
      ∧ (s.station.state, u.station.state, h.station.state) = (.joined, .unconfigured, .halt)
      ∧ configCheck (config 32 0 4 100 4 40) ≠ 0
      ∧ 11 < (12 : Byte).toNat ∧ 512 < (513 : BitVec 16).toNat
      ∧ (11 : Byte).toNat < 12 ∧ s.channels[(11 : Byte).toNat].state = .unused := by decide +kernel

theorem witness_ClearClearsSelectedFlags :
    (inPhase .command joined).port.phase = .command ∧ joined.station.state ≠ .unconfigured := by decide +kernel

theorem witness_QuietStartsLeaving :
    let s := inPhase .command (withQueue [.fresh (.claim 3)] (withChannel .queued 17 13 (some ⟨25, 2⟩) joined))
    let l := inPhase .command (at' .listen .config plan)
    (s.port.phase, s.station.state, s.channels[3].state, holds s.sched.queue (.claim 3)) = (.command, .joined, .queued, true)
      ∧ (l.port.phase, l.station.state) = (.command, .listen) := by decide +kernel

theorem witness_LeaveQuietReturnsOrListens :
    let q := inPhase .command (withChannel .waiting 13 0 none (at' .quiet .closed plan))
    let stale := { q with station := { q.station with quietStale := true } }
    let s := inPhase .command joined
    (q.port.phase, q.station.state, q.station.quietStale, q.sched.queue) = (.command, .quiet, false, [])
      ∧ (q.channels[3].state, q.channels[3].target, q.channels[3].span) = (.waiting, 13, none)
      ∧ (stale.port.phase, stale.station.state, stale.station.quietStale, stale.sched.queue) = (.command, .quiet, true, [])
      ∧ (s.port.phase, s.station.state) = (.command, .joined) := by decide +kernel

theorem witness_ReadsReplyWithSnapshots :
    (inPhase .command joined).port.phase = .command
      ∧ 11 < (12 : Byte).toNat ∧ 63 < (64 : Byte).toNat ∧ 31 < (32 : Byte).toNat := by decide +kernel

/-- A read of the head record, its reply not yet shifted out. -/
def reading : State :=
  let s := inPhase .reply (withEvents records joined)
  { s with port := { s.port with pendingRemoval := true, reply := [0, 10, 9, 1, 2], replyPosition := 0 } }

theorem witness_EventReadsAndRemovesTheHead :
    let s := inPhase .command (withEvents records joined)
    let none' := inPhase .command joined
    (none'.port.phase, none'.port.events, none'.port.pendingRemoval) = (.command, [], false)
      ∧ (s.port.phase, s.port.events) = (.command, records)
      ∧ (reading.port.phase, reading.port.pendingRemoval, reading.port.events, reading.port.reply.length)
          = (.reply, true, records, 5) := by decide +kernel

theorem witness_EventLeavesOnlyWhenShiftedOut :
    (reading.port.phase, reading.port.pendingRemoval, reading.port.replyPosition, reading.port.reply.length,
        reading.port.events) = (.reply, true, 0, 5, records) := by decide +kernel

theorem witness_SyncEdgeRestartsTheCycle :
    let usual := EdgePart.outcomeIn (EdgePart.taken EdgePart.usualOrder)
    let l := at' .listen .config plan
    let window (opened traffic : Bool) (count : Nat) (mark : RollcallMark) : State :=
      { l with station := { l.station with opened := opened, traffic := traffic, count := count, rollcall := mark } }
    let closing := withQueue [⟨.claim 3, true, true⟩] { claiming with station := { claiming.station with state := .leaving } }
    (joined.timer.running, usual, joined.engine.framing, joined.lines.syncDriving, joined.station.state)
        = (true, none, .idle, false, .joined)
      ∧ joined.sched.Lawful
      -- windows: one that opens, an early end, an end at E edges and one that goes on
      ∧ (l.timer.running, l.lines.syncDriving, l.engine.transmission, 3 * l.cfg.interval) = (true, false, .none, 12)
      ∧ [window false false 0 .none, window true false 2 .earlier, window true true 11 .earlier,
          window true true 10 .thisCycle].map (fun s => (s.station.opened, s.station.traffic, s.station.count))
        = [(false, false, 0), (true, false, 2), (true, true, 11), (true, true, 10)]
      -- an own attempt, of a CLAIM still needed, of a cancelled one and of a RELEASE
      ∧ (claiming.engine.transmission, claiming.engine.framing, claiming.engine.request, claiming.channels[3].state)
        = (.driving, .frame, some (.claim 3), .inFlight)
      ∧ claiming.sched.queue = [.fresh .announce] ++ { request := .claim 3, onWire := true, cancel := false } :: []
      ∧ (claiming.channels[3].needsClaim, closing.station.state, closing.channels[3].state) = (true, .leaving, .inFlight)
      ∧ closing.sched.queue = [] ++ { request := .claim 3, onWire := true, cancel := true } :: []
      ∧ (releasing.engine.request, releasing.channels[3].needsRelease) = (some (.release 3), true)
      ∧ (∀ a : Address, claiming.table.peers[a].present = true → claiming.table.peers[a].age + 1 < 3 * claiming.cfg.interval)
      ∧ claiming.table.WithinBudget claiming.cfg.budget := by
  unfold PlanTable.WithinBudget Scheduler.Lawful
  decide +kernel

/-- The own pulse's edge, ahead of the commit point of the message that the order names. -/
theorem witness_SyncEdgeRestartsTheCycle_own_pulse :
    let s := pulsing claiming
    (s.timer.running, s.station.state, s.lines.syncDriving, s.lines.syncLow, s.engine.framing)
        = (true, .joined, true, false, .frame)
      ∧ 16 * bitPeriods s.cfg.rateCode.val ≤ s.lines.syncHighTime
      ∧ EdgePart.outcomeIn (EdgePart.taken (handed claimed ++ EdgePart.usualOrder)) = some claimed
      ∧ s.engine.frame = some { read := [false], elapsed := 512 } ∧ 512 < 44 * bitPeriods s.cfg.rateCode.val := by
  decide +kernel

/-- Station 2's record, one edge from its expiry. -/
def ageing : State := { joined with table := { plan with peers := plan.peers.set 2 ⟨true, 11, 9⟩ } }

theorem witness_SyncEdgeAgesAndExpires :
    ageing.timer.running = true ∧ ageing.lines.syncDriving = false
      ∧ EdgePart.outcomeIn (EdgePart.taken EdgePart.usualOrder) = none
      ∧ ageing.table.Lawful ∧ ageing.table.WithinBudget ageing.cfg.budget
      ∧ (ageing.table.peers[2].present, ageing.table.peers[2].age + 1, 3 * ageing.cfg.interval) = (true, 12, 12)
      ∧ (ageing.table.peers[5].present, ageing.table.peers[5].age + 1) = (true, 3)
      ∧ ageing.table.peers[3].present = false := by
  unfold PlanTable.Lawful PlanTable.WithinBudget
  decide +kernel

theorem witness_SyncEdgeLatchesTheDriveTable :
    let q := at' .quiet .closed planWithout5
    (joined.timer.running, joined.engine.transmission, joined.station.state, joined.lines.syncDriving)
        = (true, .none, .joined, false)
      ∧ EdgePart.outcomeIn (EdgePart.taken EdgePart.usualOrder) = none
      ∧ joined.table.Lawful ∧ joined.table.WithinBudget joined.cfg.budget
      ∧ (joined.table.find joined.cfg.address 3).isSome = true
      ∧ (q.timer.running, q.station.state) = (true, .quiet) ∧ (∀ c : ChannelId, q.table.find q.cfg.address c = none)
      -- the own RELEASE that commits together with the edge
      ∧ (releasing.station.state, releasing.engine.framing, releasing.engine.transmission, releasing.engine.request)
        = (.joined, .frame, .driving, some (.release 3))
      ∧ releasing.sched.composed = some ⟨.release 3, .release 5 3, 0, .joined⟩ ∧ releasing.channels[3].state = .inFlight
      ∧ releasing.table.Lawful ∧ releasing.table.WithinBudget releasing.cfg.budget ∧ releasing.lines.syncDriving = false
      ∧ [handed released ++ EdgePart.usualOrder,
          .driveUnit :: handed released ++ [.planTable, .messageEngine, .stationController]].map
            (fun o => (EdgePart.orderAllowed o, EdgePart.outcomeIn o)) = List.replicate 2 (true, some released)
      -- the own CLAIM (for its other premises see `witness_OwnClaimsAndReleasesReachTheirChannel`), and an own pulse in its END
      ∧ [handed claimed ++ EdgePart.usualOrder,
          .driveUnit :: handed claimed ++ [.planTable, .messageEngine, .stationController],
          [.message claimed, .planTable, .driveUnit, .attemptReport, .stationReport, .messageEngine, .stationController]].map
            (fun o => (EdgePart.orderAllowed o, EdgePart.outcomeIn o)) = List.replicate 3 (true, some claimed)
      ∧ (claiming.timer.running, claiming.lines.syncDriving, claiming.table.peers[claiming.cfg.address].age + 1) = (true, false, 3)
      ∧ ((pulsing claiming).lines.syncDriving, (Message.claim 5 ⟨3, 25, 2, 40⟩).commitPoint) = (true, 44)
      ∧ 16 * bitPeriods (pulsing claiming).cfg.rateCode.val ≤ (pulsing claiming).lines.syncHighTime := by
  unfold PlanTable.Lawful PlanTable.WithinBudget
  decide +kernel

theorem witness_OtherFallsOfSyncRestartNothing :
    let short := { joined with lines := { joined.lines with syncHighTime := 16 * 512 - 1 } }
    let low := lowLines joined
    let pulse := { low with lines := { low.lines with syncDriving := true } }
    (State.reset.timer.running, State.reset.lines.syncDriving, State.reset.lines.syncLow, State.reset.engine.framing)
        = (false, false, false, .off)
      ∧ short.lines.syncHighTime < 16 * bitPeriods short.cfg.rateCode.val ∧ short.lines.syncLow = false
      ∧ joined.timer.running = true ∧ ¬joined.lines.syncHighTime < 16 * bitPeriods joined.cfg.rateCode.val
      ∧ (low.lines.syncDriving, low.lines.syncLow) = (false, true)
      ∧ (pulse.lines.syncDriving, pulse.lines.syncLow) = (true, true) := by decide +kernel

theorem witness_PeerExpiryRemovesItsHoldings :
    let starved := withChannel .starved 300 0 none joined
    (2 : Address) ≠ joined.cfg.address ∧ joined.station.state.attached = true ∧ joined.table.peers[2].present = true
      ∧ joined.table.Lawful ∧ joined.table.WithinBudget joined.cfg.budget
      ∧ (∃ h ∈ joined.table.plan, h.owner = (2 : Address)) ∧ (∀ h ∈ joined.table.plan, h.owner ≠ (9 : Address))
      ∧ (List.finRange 12).filter (fun c => starved.channels[c].state == .starved) = [3] := by
  unfold PlanTable.Lawful PlanTable.WithinBudget
  decide +kernel

theorem witness_SelfExpiryEmptiesOwnChannels :
    joined.station.state.attached = true ∧ joined.table.peers[joined.cfg.address].present = true
      ∧ joined.engine.transmission = .none ∧ joined.table.Lawful ∧ joined.table.WithinBudget joined.cfg.budget
      ∧ (joined.table.find joined.cfg.address 3).isSome = true ∧ joined.channels[3].state ≠ .unused := by
  unfold PlanTable.Lawful PlanTable.WithinBudget
  decide +kernel

theorem witness_AnnounceFallsDue :
    let s := { joined with table := { plan with peers := plan.peers.set 5 ⟨true, 4, 9⟩ } }
    (s.station.state, s.cfg.interval, s.table.peers[s.cfg.address].age) = (.joined, 4, 4)
      ∧ (at' .quiet .closed plan).station.state = .quiet := by decide +kernel

theorem witness_JoinWindowEndEntersJoined :
    let l := at' .listen .config plan
    let early := { l with station := { l.station with opened := true, rollcall := .earlier } }
    let late := { l with station := { l.station with opened := true, traffic := true, rollcall := .earlier } }
    (early.station.state, early.station.opened, early.station.traffic, early.station.rollcall) = (.listen, true, false, .earlier)
      ∧ (late.station.state, late.station.opened, late.station.traffic) = (.listen, true, true)
      ∧ early.channels[3].state ≠ .waiting := by decide +kernel

theorem witness_SlotStartSetsTheOutputs :
    let s := { joined with timer := { joined.timer with slotIndex := 62 } }
    let u := { joined with timer := { joined.timer with slotIndex := 63 } }
    (s.timer.running, s.fallWaits, s.timer.slotIndex.val, u.timer.running, u.fallWaits, u.timer.slotIndex.val)
      = (true, false, 62, true, false, 63) := by decide +kernel

theorem witness_GuardWindowBarsNewMessages : (joined.timer.running, joined.fallWaits) = (true, false) := by decide +kernel

theorem witness_SyncPulseEndsTheCycle :
    let t := nextOf (exec .syncPulse joined)
    let u := nextOf (exec (.syncEdge 0 EdgePart.usualOrder) t)
    joined.station.state.attached = true ∧ joined.timer.running = true ∧ joined.timer.syncAcquired = true
      ∧ joined.lines.syncDriving = false
      ∧ (at' .fault .syncStuck .reset).station.state.attached = false ∧ State.reset.timer.syncAcquired = false
      ∧ State.reset.fallWaits = false ∧ t.fallWaits = true
      ∧ (u.lines.syncDriving, u.lines.syncLow, u.lines.pulseTime, u.timer.running) = (true, true, 0, true) := by
  decide +kernel

theorem witness_TwoCyclesWithoutAnEdgeAcquireSync :
    let s := { joined with timer := { joined.timer with syncAcquired := false } }
    s.station.state.attached = true ∧ s.timer.running = true ∧ s.timer.syncAcquired = false ∧ s.lines.syncDriving = false
      ∧ s.lines.syncLow = false ∧ 1 ≤ s.cfg.slotCode
      ∧ 16 * bitPeriods s.cfg.rateCode.val ≤ s.lines.syncHighTime + (2 * s.cycleLength - s.timer.localTime) := by
  decide +kernel

theorem witness_StuckLinesEnterFault :
    let s := lowLines joined
    (s.fallWaits, s.station.state.attached, s.lines.syncLow, s.lines.dataDominant) = (false, true, true, true)
      ∧ (State.reset.fallWaits, State.reset.station.state.attached) = (false, false)
      ∧ (joined.fallWaits, joined.lines.syncLow, joined.lines.dataDominant) = (false, false, false) := by decide +kernel

theorem witness_IdleLinesRecoverFromFault :
    let f := nextOf (exec .syncStuck (lowLines joined))
    (f.station.state, f.fallWaits) = (.fault, false) ∧ f.DetachedIdle
      ∧ joined.station.state ≠ .fault ∧ joined.fallWaits = false := by
  unfold State.DetachedIdle
  decide +kernel

theorem witness_FramingFollowsData :
    let early := { joined with engine := { joined.engine with recessiveTime := 9 * 512 - 1 } }
    let gap := { joined with engine := { joined.engine with framing := .gap } }
    let low := lowLines (framing joined)
    (early.engine.framing, early.opportunity Config.joinGapBits, early.lines.dataDominant, early.fallWaits)
        = (.idle, false, false, false)
      ∧ (gap.engine.framing, gap.engine.frame, gap.fallWaits) = (.gap, none, false)
      ∧ (framing joined).engine.framing = .frame ∧ State.reset.engine.framing = .off
      ∧ (low.lines.dataDominant, low.fallWaits, (lowLines joined).engine.frame) = (true, false, none) := by decide +kernel

/-- The clauses on END: an END that reads no dominant bit, the last period of one that has read one, and a dominant line in one. -/
theorem witness_FramingFollowsData_in_END :
    let s := nextOf (exec (.dataFall 300) inEnd)
    (inEnd.engine.framing, inEnd.engine.frame, inEnd.engine.ending, inEnd.timer.running, inEnd.lines.dataDominant,
        inEnd.fallWaits) = (.gap, none, some ⟨0, false⟩, true, false, false)
      ∧ 0 < 3 * bitPeriods inEnd.cfg.rateCode.val
      ∧ ((advance 1535 s).engine.framing, (advance 1535 s).engine.ending, (advance 1535 s).timer.running,
          (advance 1535 s).fallWaits) = (.gap, some ⟨1535, true⟩, true, false)
      ∧ 1535 < 3 * bitPeriods (advance 1535 s).cfg.rateCode.val
      ∧ (s.lines.dataDominant, s.lines.dataHold, s.engine.ending) = (true, 300, some ⟨0, false⟩)
      ∧ (∃ i < 3, 0 < i * 512 + 512 / 2 ∧ i * 512 + 512 / 2 < 0 + 300)
      ∧ ¬∃ i < 3, 0 < i * 512 + 512 / 2 ∧ i * 512 + 512 / 2 < 0 + 256 := by decide +kernel

theorem witness_SelectionSendsTheMostUrgentRequest :
    let q (s : State) : List QueueEntry → State := fun es => withQueue es s
    let announcing := q joined [.fresh (.claim 0), .fresh .announce]
    let releasing := q (withChannel .queued 0 13 (some ⟨25, 2⟩) joined) [.fresh (.claim 0), .fresh (.release 3)]
    let calling := q (at' .listen .config plan) [.fresh .rollcall]
    (announcing.opportunity 10, announcing.lines.dataDominant, announcing.fallWaits, announcing.station.state,
        holds announcing.sched.queue .announce) = (true, false, false, .joined, true)
      ∧ (releasing.opportunity 10, releasing.lines.dataDominant, releasing.station.state,
          holds releasing.sched.queue .announce) = (true, false, .joined, false)
      ∧ releasing.sched.queue = [.fresh (.claim 0)] ++ .fresh (.release 3) :: []
      ∧ (QueueEntry.fresh (.release 3)).request = .release 3
      ∧ (∀ b : ChannelId, (QueueEntry.fresh (.claim 0)).request ≠ .release b)
      ∧ (calling.opportunity 10, calling.lines.dataDominant, calling.station.state, holds calling.sched.queue .rollcall)
          = (true, false, .listen, true) := by decide +kernel

theorem witness_ClaimsArePlacedOrStarve :
    let base := withChannel .queued 512 0 none (at' .joined .window crowded)
    let s := withQueue [.fresh .rollcall, .fresh (.claim 3), .fresh (.claim 4)]
      { base with
        channels := base.channels.set 4 { Channel.reset with state := .queued, rating := 40, target := 36 } }
    let u := withQueue [.fresh .rollcall, .fresh (.claim 3)] base
    let r := withQueue [.fresh .rollcall] (at' .resync .divergence crowded)
    [s, u, r].map (fun s => (s.opportunity 10, s.lines.dataDominant, s.fallWaits, holds s.sched.queue .announce))
        = List.replicate 3 (true, false, false, false)
      ∧ [s, u, r].map (fun s => s.station.state) = [.joined, .joined, .resync]
      ∧ (∀ e ∈ s.sched.queue, e.onWire = false ∧ ∀ b : ChannelId, e.request ≠ .release b)
      ∧ (∀ e ∈ u.sched.queue, e.onWire = false ∧ ∀ b : ChannelId, e.request ≠ .release b)
      ∧ (s.claims, u.claims) = ([3] ++ 4 :: [], [3])
      ∧ (s.table.place 100 5 3 64 40, (s.table.place 100 5 4 5 40).isSome) = (none, true)
      ∧ (holds u.sched.queue .rollcall, holds r.sched.queue .rollcall, holds joined.sched.queue .rollcall) = (true, true, false) := by
  refine ⟨?_, ?_, ?_, ?_, ?_, ?_, ?_⟩ <;> decide +kernel

theorem witness_StationsJoinAStartOfFrame :
    let s := withQueue [.fresh .announce] { joined with engine := { joined.engine with recessiveTime := 9 * 512 } }
    let deaf := { joined with timer := { joined.timer with syncAcquired := false } }
    (s.engine.framing, s.engine.frame, s.lines.dataDominant, s.fallWaits, s.opportunity Config.joinGapBits)
        = (.idle, none, false, false, true)
      ∧ (selectMessage s).2.isSome = true
      ∧ joined.opportunity Config.joinGapBits = true ∧ (selectMessage joined).2 = none
      ∧ (deaf.engine.framing, deaf.lines.dataDominant, deaf.timer.syncAcquired) = (.idle, false, false)
      ∧ deaf.inGuard = (advanceToGap Config.joinGapBits deaf).inGuard := by decide +kernel

theorem witness_LostAttemptsStayQueued :
    let a := announcing [] joined
    (a.engine.transmission, a.engine.request) = (.driving, some .announce)
      ∧ (claiming.engine.transmission, claiming.engine.request) = (.driving, some (.claim 3))
      ∧ (claiming.channels[3].state, claiming.channels[3].needsClaim) = (.inFlight, true)
      ∧ claiming.sched.queue = [.fresh .announce] ++ { request := .claim 3, onWire := true, cancel := false } :: []
      ∧ (QueueEntry.fresh .announce).onWire = false
      ∧ (releasing.engine.transmission, releasing.engine.request) = (.driving, some (.release 3))
      ∧ (releasing.channels[3].state, releasing.channels[3].needsRelease) = (.inFlight, true)
      ∧ releasing.sched.queue = [] ++ { request := .release 3, onWire := true, cancel := false } :: [] := by decide +kernel

theorem witness_ObjectedMessagesAreVoid :
    let a := announcing [] joined
    let m := Message.announce 5 joined.cfg.digest 7 []
    let l := framing { at' .listen .config plan with station := { (at' .listen .config plan).station with opened := true } }
    let orders : List (List EdgePart) :=
      [EdgePart.usualOrder ++ handed (.objected m 0), handed (.objected m 0) ++ EdgePart.usualOrder]
    ((framing joined).engine.framing, (framing joined).engine.transmission, (framing joined).fallWaits)
        = (.frame, .none, false)
      ∧ (a.engine.framing, a.engine.transmission, a.engine.request, a.station.state)
        = (.frame, .driving, some .announce, .joined)
      ∧ a.sched.composed.map Composed.message = some m
      ∧ (a.timer.running, a.lines.syncDriving) = (true, false)
      ∧ ((pulsing a).lines.syncLow, (pulsing a).lines.syncDriving) = (false, true)
      ∧ 16 * bitPeriods a.cfg.rateCode.val ≤ a.lines.syncHighTime
      ∧ (∀ x : Address, a.table.peers[x].present = true → a.table.peers[x].age + 1 < 3 * a.cfg.interval)
      ∧ a.table.WithinBudget a.cfg.budget
      ∧ orders.map (fun o => (EdgePart.orderAllowed o, EdgePart.outcomeIn o)) = List.replicate 2 (true, some (.objected m 0))
      ∧ (l.engine.framing, l.windowOpen, l.station.count, l.station.rollcall, l.timer.running, l.lines.syncDriving)
        = (.frame, true, 0, .none, true, false) := by
  unfold PlanTable.WithinBudget
  decide +kernel

theorem witness_ReceiversJudgeClaims :
    let s := framing joined
    (s.engine.framing, s.engine.transmission, s.fallWaits, s.station.state) = (.frame, .none, false, .joined)
      ∧ (2 : BitVec 5) ≠ BitVec.ofNat 5 s.cfg.address.val
      ∧ (11 : BitVec 4) = BitVec.ofNat 4 (11 : ChannelId).val ∧ (1 : BitVec 10) ≠ 0
      -- a sender that is ABSENT, one whose claim exceeds the budget by 1 LU, and one whose claim reaches it
      ∧ s.table.peers[addressOf 9].present = false
      ∧ (s.table.admission 100 2 11 26 1 11, s.table.admission 100 2 11 26 1 10) = (.refuses, .admits)
      ∧ (framing (at' .quiet .closed plan)).station.state = .quiet
      ∧ (framing (at' .resync .divergence plan)).station.state = .resync := by decide +kernel

theorem witness_ObjectionHasFiveGrounds :
    (Message.announce 2 0 0 (List.replicate 15 ⟨1, 0, 0, 10⟩)).fitsLayout = true
      ∧ (openFrame joined).engine.frame = some { read := [], elapsed := 0 }
      ∧ ((openFrame joined).engine.accumulator, (openFrame joined).engine.objection) = (0xFF, none) := by decide +kernel

/-- The clause on the pull, for an objection and for none. -/
theorem witness_ObjectionHasFiveGrounds_pull :
    let m := Message.rollcall 9
    ∀ check ∈ [m.check, m.check + 1],
      m.fitsLayout = true ∧ (readTo check).engine.frame.map FrameRecord.read = some (m.read check)
        ∧ (readTo check).engine.objection = some (m.objection check)
        ∧ (m.objection m.check, m.objection (m.check + 1)) = (.pass, .object)
        ∧ (readTo check).engine.transmission ≠ .driving ∧ (readTo check).lines.dataDriving = false
        ∧ (readTo check).lines.HoldsLawful := by
  unfold LineInterface.HoldsLawful
  decide +kernel

theorem witness_CommittedAnnouncesReplaceTheSendersHoldings :
    let s := framing (withChannel .starved 300 0 none joined)
    let es : List WireEntry := [⟨11, 63, 63, 1⟩, ⟨0, 25, 1, 59⟩]
    (s.engine.framing, s.engine.transmission, s.fallWaits) = (.frame, .none, false)
      ∧ (2 : BitVec 5) ≠ BitVec.ofNat 5 s.cfg.address.val
      ∧ es.length ≤ 12 ∧ (∀ e ∈ es, e.channel.toNat ≤ 11 ∧ e.rating ≠ 0) ∧ (es.map WireEntry.channel).Nodup
      ∧ s.table.Lawful
      ∧ (∀ k : Slot,
          ((s.table.plan.filter fun h => decide (h.owner ≠ addressOf 2) && h.covers k).map Holding.rating).sum
              + ((es.filter fun e => decide ((k.val + 64 - e.start.toNat) % 64 < e.lengthLess1.toNat + 1)).map
                  fun e => e.rating.toNat).sum
            ≤ s.cfg.budget)
      -- station 2 loses its holding of channel 1, station 9 has none to lose, and channel 3 is STARVED
      ∧ (∃ h ∈ s.table.plan, h.owner = addressOf 2 ∧ ∀ e ∈ es, e.channel.toNat ≠ h.channel.val)
      ∧ (∀ h ∈ s.table.plan, h.owner ≠ addressOf 9) ∧ s.channels[3].state = .starved := by
  unfold PlanTable.Lawful
  decide +kernel

theorem witness_CommittedClaimsReplaceTheirKey :
    let s := framing (withChannel .starved 300 0 none joined)
    let l := framing (at' .listen .config plan)
    let q := framing (at' .quiet .closed plan)
    (s.engine.framing, s.engine.transmission, s.fallWaits, s.lines.dataDriving, s.engine.verdict)
        = (.frame, .none, false, false, none)
      ∧ (2 : BitVec 5) ≠ BitVec.ofNat 5 s.cfg.address.val
      ∧ (1 : BitVec 4) = BitVec.ofNat 4 (1 : ChannelId).val ∧ (60 : BitVec 10) ≠ 0
      ∧ s.station.state.attached = true ∧ s.table.Lawful ∧ s.table.WithinBudget s.cfg.budget
      ∧ s.table.peers[addressOf 2].present = true
      -- the rating that just fills the budget beside station 5's 40 LU, its own holding set aside; slot 27 is lost
      ∧ s.table.fits s.cfg.budget (addressOf 2) 1 (slotOf 26) ((0 : BitVec 6).toNat + 1) (60 : BitVec 10).toNat = true
      ∧ (s.table.find (addressOf 2) 1).map (fun h => h.covers 27) = some true ∧ s.channels[3].state = .starved
      ∧ ((judged .refuses true s).engine.verdict, (judged .refuses true s).lines.dataDriving) = (some .refuses, true)
      ∧ ((judged .admits false s).engine.verdict, (judged .admits false s).lines.dataDriving) = (some .admits, false)
      ∧ (l.engine.framing, l.engine.transmission, l.fallWaits, l.lines.dataDriving, l.engine.verdict, l.station.state)
          = (.frame, .none, false, false, none, .listen)
      ∧ l.table.peers[addressOf 9].present = false
      -- where no REFUSE bit was framed, JOINED and QUIET: a sender that is ABSENT, and one whose claim exceeds the budget by 1 LU
      ∧ s.table.peers[addressOf 9].present = false ∧ (s.station.state = .joined ∧ q.station.state = .quiet)
      ∧ (q.engine.framing, q.engine.transmission, q.fallWaits, q.engine.verdict) = (.frame, .none, false, none)
      ∧ (∃ k : Slot, (k.val + 64 - (26 : BitVec 6).toNat) % 64 < (0 : BitVec 6).toNat + 1
          ∧ s.cfg.budget < s.table.sums[k]
              - (match s.table.find (addressOf 2) 1 with
                  | some h => if h.covers k then h.rating else 0
                  | none => 0)
              + (61 : BitVec 10).toNat) := by
  unfold PlanTable.Lawful PlanTable.WithinBudget
  refine ⟨?_, ?_, ?_, ?_, ?_, ?_, ?_, ?_, ?_, ?_⟩ <;> decide +kernel

theorem witness_CommittedReleasesAndRollcalls :
    let s := framing (withChannel .starved 300 0 none joined)
    let r := driving .rollcall (.rollcall 5) 0 (withQueue [.fresh .rollcall] joined)
    (s.engine.framing, s.engine.transmission, s.fallWaits) = (.frame, .none, false)
      ∧ (2 : BitVec 5) ≠ BitVec.ofNat 5 s.cfg.address.val
      ∧ s.table.Lawful ∧ s.table.WithinBudget s.cfg.budget
      ∧ (∃ h ∈ s.table.plan, h.owner = addressOf 2 ∧ h.channel = 1)
      ∧ (∀ h ∈ s.table.plan, ¬(h.owner = addressOf 2 ∧ h.channel = 3)) ∧ s.channels[3].state = .starved
      ∧ (r.engine.framing, r.fallWaits, r.engine.transmission, r.engine.request)
        = (.frame, false, .driving, some .rollcall)
      ∧ r.sched.composed = some ⟨.rollcall, .rollcall (BitVec.ofNat 5 r.cfg.address.val), 0, .joined⟩ := by
  unfold PlanTable.Lawful PlanTable.WithinBudget
  decide +kernel

theorem witness_VerdictDifferencesLeadToResync :
    let s := framing joined
    let q := framing (at' .quiet .closed plan)
    ((judged .admits false s).engine.verdict, (judged .refuses false s).engine.verdict, s.lines.dataDriving)
        = (some .admits, some .refuses, false)
      ∧ (s.engine.framing, s.engine.transmission, s.station.state, s.fallWaits) = (.frame, .none, .joined, false)
      ∧ (2 : BitVec 5) ≠ BitVec.ofNat 5 s.cfg.address.val
      ∧ (3 : BitVec 4) = BitVec.ofNat 4 (3 : ChannelId).val ∧ (40 : BitVec 10) ≠ 0
      ∧ s.table.Lawful ∧ s.sched.Lawful ∧ (∀ d ∈ s.sched.queue, d.onWire = false)
      ∧ s.table.peers[addressOf 9].present = false
      ∧ (claiming.engine.framing, claiming.engine.transmission, claiming.engine.request, claiming.fallWaits)
          = (.frame, .driving, some (.claim 3), false)
      ∧ claiming.sched.composed.map (fun k => (k.message, k.request)) = some (.claim 5 ⟨3, 25, 2, 40⟩, .claim 3)
      ∧ (5 : BitVec 5) = BitVec.ofNat 5 claiming.cfg.address.val
      ∧ claiming.table.Lawful ∧ claiming.sched.Lawful
      ∧ (∀ d ∈ claiming.sched.queue, d.onWire = true → d.request = .claim 3) ∧ claiming.station.state = .joined
      ∧ (q.engine.framing, q.engine.transmission, q.station.state, q.lines.dataDriving, q.fallWaits)
        = (.frame, .none, .quiet, false, false)
      ∧ [true, false].map (fun refused => (judged (if refused then .admits else .refuses) false q).engine.verdict)
        = [some .admits, some .refuses] := by
  unfold PlanTable.Lawful Scheduler.Lawful
  refine ⟨?_, ?_, ?_, ?_, ?_, ?_, ?_, ?_⟩ <;> decide +kernel

theorem witness_OwnClaimsAndReleasesReachTheirChannel :
    (claiming.engine.framing, claiming.engine.transmission, claiming.engine.request, claiming.channels[3].state,
        claiming.fallWaits) = (.frame, .driving, some (.claim 3), .inFlight, false)
      ∧ claiming.sched.composed = some ⟨.claim 3, .claim 5 ⟨3, 25, 2, 40⟩, 17, .joined⟩
      ∧ claiming.table.Lawful ∧ claiming.table.WithinBudget claiming.cfg.budget
      ∧ claiming.station.state = .joined ∧ claiming.table.peers[claiming.cfg.address].present = true
      ∧ claiming.table.fits claiming.cfg.budget claiming.cfg.address 3 (slotOf 25) ((2 : BitVec 6).toNat + 1) (40 : BitVec 10).toNat
          = true
      ∧ 0 < 17 ∧ claiming.channels[3].target = 17 ∧ (17 + 7) / 8 = (2 : BitVec 6).toNat + 1
      ∧ (releasing.engine.framing, releasing.engine.transmission, releasing.engine.request, releasing.channels[3].state)
          = (.frame, .driving, some (.release 3), .inFlight)
      ∧ releasing.sched.composed = some ⟨.release 3, .release 5 3, 0, .joined⟩
      ∧ releasing.table.Lawful ∧ releasing.table.WithinBudget releasing.cfg.budget
      ∧ releasing.station.state = .joined ∧ releasing.channels[3].target = 0 := by
  unfold PlanTable.Lawful PlanTable.WithinBudget
  decide +kernel

theorem witness_OwnAnnouncesResolve :
    let own : List WireEntry := [⟨3, 25, 1, 40⟩]
    let j := announcing own joined
    let l := { announcing own joined with station := { joined.station with state := .leaving, cause := .request } }
    let c := announcing [] { joined with station := { joined.station with state := .leaving, cause := .request } }
    (j.engine.framing, j.engine.transmission, j.engine.request, j.fallWaits) = (.frame, .driving, some .announce, false)
      ∧ j.sched.composed = some ⟨.announce, .announce 5 j.cfg.digest 7 own, 0, .joined⟩
      ∧ (Message.announce 5 j.cfg.digest 7 own).unacceptable = false
      ∧ j.table.Lawful ∧ j.table.WithinBudget j.cfg.budget ∧ j.table.InRange
      ∧ j.sched.queue.filter (·.onWire) = [{ request := .announce, onWire := true, cancel := false }]
      ∧ own = (j.table.holdingsOf j.cfg.address).map entryOf ∧ j.station.state = .joined
      ∧ l.station.state = .leaving ∧ l.sched.composed.map Composed.station = some .joined
      ∧ c.station.state = .leaving ∧ c.sched.composed = some ⟨.announce, .announce 5 c.cfg.digest 7 [], 0, .leaving⟩
      ∧ c.sched.queue.filter (·.onWire) = [{ request := .announce, onWire := true, cancel := false }] := by
  unfold PlanTable.Lawful PlanTable.WithinBudget PlanTable.InRange
  decide +kernel

theorem witness_ClashesAndMismatchesHalt :
    let s := framing joined
    (s.engine.framing, s.fallWaits) = (.frame, false) ∧ (Message.rollcall 5).unacceptable = false
      ∧ (Message.rollcall 5).sender = BitVec.ofNat 5 s.cfg.address.val
      ∧ ¬(s.engine.transmission = .driving ∧ s.sched.composed.map Composed.message = some (.rollcall 5))
      ∧ (Message.announce 2 (s.cfg.digest + 1) 0 []).unacceptable = false
      ∧ (2 : BitVec 5) ≠ BitVec.ofNat 5 s.cfg.address.val ∧ s.cfg.digest + 1 ≠ s.cfg.digest := by decide +kernel

/-- A plan over the budget of 100 LU in slot 26. -/
def overfull : PlanTable := plan.insert ⟨7, 0, 26, 1, 30⟩

theorem witness_EvictionRemovesTheHighestUntilWithinBudget :
    let s := { joined with table := overfull }
    let own := { s with cfg := { s.cfg with budget := 60 } }
    s.table.Lawful ∧ s.table.sums[(26 : Slot)] = 120
      -- station 7's holding goes; under a budget of 60 LU the own one goes next
      ∧ (evict s).table.plan.map Holding.owner = [2, 5]
      ∧ (evict own).table.plan.map Holding.owner = [2] ∧ own.channels[3].state = .held
      ∧ (evict own).port.events.map EventRecord.kind = [.channelEvicted] := by
  unfold PlanTable.Lawful
  decide +kernel

theorem witness_PlacementTakesTheFirstFit :
    crowded.place 100 5 3 5 40 = some 28 ∧ crowded.peers[(5 : Address)].present = true
      ∧ crowded.place 100 5 3 64 40 = none := by decide +kernel

theorem witness_EqualReplicasStayEqual :
    let s := framing joined
    let s := { s with engine := { s.engine with verdict := some .admits } }
    let u := framing (at' .listen .config plan)
    let u := { u with cfg := { u.cfg with address := 9 } }
    let ms : List Message :=
      [.claim 2 ⟨1, 40, 4, 50⟩, .announce 2 s.cfg.digest 9 [⟨1, 26, 2, 50⟩], .release 2 1, .rollcall 2]
    (∀ m ∈ ms, m.unacceptable = false ∧ m.sender ≠ BitVec.ofNat 5 s.cfg.address.val
        ∧ m.sender ≠ BitVec.ofNat 5 u.cfg.address.val)
      ∧ (s.engine.framing, s.engine.transmission, s.station.state, s.engine.verdict, s.lines.dataDriving, s.fallWaits)
          = (.frame, .none, .joined, some (if false then .refuses else .admits), false, false)
      ∧ (u.engine.framing, u.engine.transmission, u.station.state, u.lines.dataDriving, u.fallWaits)
          = (.frame, .none, .listen, false, false)
      ∧ s.table = u.table ∧ s.cfg.budget = u.cfg.budget ∧ s.cfg.digest = u.cfg.digest := by decide +kernel


theorem witness_ADitherRoundConductsTheDemand : 1 ≤ 1 ∧ 1 ≤ 512 ∧ 512 ≤ 512 := by decide

theorem witness_FramingReadsWhatWasSent :
    (Message.announce 1 2 3 (List.replicate 15 ⟨1, 0, 0, 10⟩)).fitsLayout = true ∧ (Message.rollcall 31).fitsLayout = true := by
  decide +kernel

theorem witness_MessagesAreLaidOutByPosition : 11 < (List.replicate 12 (⟨1, 0, 0, 10⟩ : WireEntry)).length := by decide

/-- The premises of every law but those of an UNCONFIGURED or held station, at a JOINED station with a holding of its own and a
CLAIM of it on the wire. -/
theorem witness_the_laws_at_a_joined_station :
    claiming.table.Lawful ∧ claiming.table.WithinBudget claiming.cfg.budget ∧ claiming.table.InRange
      ∧ claiming.table.OwnersPresent ∧ claiming.table.AgesWithin claiming.expiry ∧ claiming.Configured
      ∧ claiming.StationLawful ∧ claiming.AttachedRuns ∧ claiming.DetachedIdle ∧ claiming.IgnoresUntilOpened
      ∧ claiming.UnconfiguredAtReset
      ∧ claiming.HeldUnconfigured ∧ claiming.SlotLawful ∧ claiming.DriversLawful ∧ claiming.engine.FrameLawful ∧ claiming.EndLawful
      ∧ claiming.lines.HoldsLawful ∧ claiming.sched.Lawful := by
  unfold PlanTable.Lawful PlanTable.WithinBudget PlanTable.InRange PlanTable.OwnersPresent PlanTable.AgesWithin
    State.Configured Configuration.Valid State.StationLawful Station.windowReset State.AttachedRuns State.DetachedIdle
    State.IgnoresUntilOpened State.UnconfiguredAtReset State.HeldUnconfigured State.SlotLawful State.DriversLawful MessageEngine.FrameLawful State.EndLawful LineInterface.HoldsLawful Scheduler.Lawful
  refine ⟨?_, ?_, ?_, ?_, ?_, ?_, ?_, ?_, ?_, ?_, ?_, ?_, ?_, ?_, ?_, ?_, ?_, ?_⟩ <;>
    first
      | decide +kernel
      | exact fun h => absurd h (by decide +kernel)

/-- The law of END, where END has begun and where a bit of it has read dominant. -/
theorem witness_the_law_of_END :
    let s := advance 1535 (nextOf (exec (.dataFall 300) inEnd))
    (inEnd.engine.ending = some ⟨0, false⟩ ∧ inEnd.EndLawful) ∧ s.engine.ending = some ⟨1535, true⟩ ∧ s.EndLawful := by
  have h : inEnd.engine.ending = some ⟨0, false⟩ := by decide +kernel
  have g : (advance 1535 (nextOf (exec (.dataFall 300) inEnd))).engine.ending = some ⟨1535, true⟩ := by decide +kernel
  refine ⟨⟨h, fun r e => ?_⟩, g, fun r e => ?_⟩
  · cases h.symm.trans e; decide +kernel
  · cases g.symm.trans e; decide +kernel

/-- The premises of the agreement of channels, queue and plan, at the same station. -/
theorem witness_ChannelsQueueAndPlanStayInAgreement :
    claiming.WireLawful ∧ claiming.QueueKindsLawful ∧ claiming.ChannelsLawful ∧ claiming.SpansInPlan
      ∧ claiming.SpansWhereHeld ∧ claiming.ComposedLawful ∧ claiming.AnnounceWaits := by
  have idle : ∀ c : ChannelId, c ≠ 3 →
      claiming.channels[c] = Channel.reset ∧ claiming.entriesOf c = [] := by decide +kernel
  have own : claiming.channels[(3 : ChannelId)]
      = { Channel.reset with state := .inFlight, rating := 40, target := 17, held := 13, span := some ⟨25, 2⟩ } := by
    decide +kernel
  refine ⟨?_, trivial, fun c => ?_, ?_, ?_, ?_, ?_⟩
  · unfold State.WireLawful
    exact ⟨_, rfl, rfl, by decide +kernel⟩
  · by_cases h : c = 3
    · subst h
      refine ⟨?_, ?_⟩
      · rw [own]
        unfold Channel.Lawful
        exact ⟨by decide, by decide, by decide, ⟨rfl, by decide⟩, by decide, by decide⟩
      · unfold State.ChannelStateLawful
        rw [own]
        exact ⟨{ request := .claim 3, onWire := true, cancel := false }, by decide +kernel, rfl⟩
    · obtain ⟨hc, he⟩ := idle c h
      refine ⟨?_, ?_⟩
      · rw [hc]
        unfold Channel.Lawful
        exact ⟨by decide, by decide, by decide, rfl, by decide, by decide⟩
      · unfold State.ChannelStateLawful
        rw [hc]
        exact he
  · unfold State.SpansInPlan
    decide +kernel
  · unfold State.SpansWhereHeld
    decide +kernel
  · intro k hk
    obtain rfl : _ = k := Option.some.inj hk
    refine ⟨by decide +kernel, by decide +kernel, ?_⟩
    show _ ∧ _
    decide +kernel
  · unfold State.AnnounceWaits
    decide +kernel

end Sys2Proof.Tests
end

section
/-! What the events of the part do to the plan and the peer table, said once: `PlanTable.Change` lists the single changes, and
`step_replans` says that a step makes some of them one after the other and nothing else. A law of the plan table that every single
change keeps is then kept by every step; the law of R14 is one. -/

namespace Sys2Proof.Machine

/-! ## The changes of the plan table -/

/-- One change of plan and peer table. -/
inductive PlanTable.Change : PlanTable → PlanTable → Prop
  /-- a reset, or an entry into LISTEN, FAULT or HALT (R6, R25, R27, R38) -/
  | empty (t : PlanTable) : Change t .reset
  /-- a RELEASE, or one step of eviction (R15, R21) -/
  | remove {t : PlanTable} {h : Holding} (held : h ∈ t.plan) : Change t (t.remove h)
  /-- an admitted CLAIM of a PRESENT sender (R12) -/
  | claim {t : PlanTable} {h : Holding} (present : t.peers[h.owner].present = true) : Change t (t.insert h)
  /-- an ANNOUNCE: the overwrite and the peer update (R10, R31) -/
  | announce (t : PlanTable) (a : Address) (entries : List WireEntry) {p : Peer} (present : p.present = true) :
      Change t ((t.overwrite a entries).setPeer a p)
  /-- an expiry: the record becomes ABSENT and its owner's holdings leave (R35, R36) -/
  | expire (t : PlanTable) (a : Address) {p : Peer} (absent : p.present = false) : Change t ((t.setPeer a p).removeOwner a)
  /-- an entry into RESYNC (R26, R38) -/
  | keepOwn (t : PlanTable) (own : Address) : Change t (t.keepOwn own)
  /-- the ageing of a SYNC edge (R34) -/
  | age (t : PlanTable) : Change t t.agePeers
  /-- a record's age moves on by itself (R39) -/
  | setAge (t : PlanTable) (a : Address) (n : Nat) : Change t (t.setPeer a { t.peers[a] with age := n })

/-! ## Membership and peers, for every plan table -/

theorem PlanTable.setPeer_get (t : PlanTable) (a b : Address) (p : Peer) :
    (t.setPeer a p).peers[b] = if b = a then p else t.peers[b] := by
  simp only [PlanTable.setPeer, Fin.getElem_fin, Vector.getElem_set, Fin.val_inj, eq_comm]

@[simp] theorem PlanTable.removeAll_peers (t : PlanTable) (hs : List Holding) : (t.removeAll hs).peers = t.peers := by
  induction hs generalizing t with
  | nil => rfl
  | cons h hs ih => exact ih (t.remove h)

theorem PlanTable.removeAll_plan (t : PlanTable) (hs : List Holding) : (t.removeAll hs).plan = t.plan.diff hs := by
  induction hs generalizing t with
  | nil => rfl
  | cons h hs ih => rw [List.diff_cons]; exact ih (t.remove h)

/-- Removing every holding that a test selects leaves those that it does not, whether or not a holding stands twice. -/
theorem PlanTable.mem_removeAll_filter {t : PlanTable} {p : Holding → Bool} {g : Holding}
    (hg : g ∈ (t.removeAll (t.plan.filter p)).plan) : g ∈ t.plan ∧ p g = false := by
  rw [PlanTable.removeAll_plan] at hg
  refine ⟨List.diff_subset _ _ hg, ?_⟩
  by_contra hp
  have hc := List.count_pos_iff.2 hg
  rw [List.count_diff, List.count_filter (by simpa using hp)] at hc
  omega

@[simp] theorem PlanTable.removeOwner_peers (t : PlanTable) (a : Address) : (t.removeOwner a).peers = t.peers := t.removeAll_peers _

theorem PlanTable.mem_removeOwner {t : PlanTable} {a : Address} {g : Holding} (hg : g ∈ (t.removeOwner a).plan) :
    g ∈ t.plan ∧ g.owner ≠ a := by
  obtain ⟨hm, ho⟩ := PlanTable.mem_removeAll_filter (t := t) (p := (·.owner == a)) hg
  exact ⟨hm, by simpa using ho⟩

@[simp] theorem PlanTable.keepOwn_plan (t : PlanTable) (own : Address) : (t.keepOwn own).plan = (t.keepOwner own).plan := by
  simp only [PlanTable.keepOwn]

theorem PlanTable.mem_keepOwn {t : PlanTable} {own : Address} {g : Holding} (hg : g ∈ (t.keepOwn own).plan) :
    g ∈ t.plan ∧ g.owner = own := by
  rw [PlanTable.keepOwn_plan, PlanTable.keepOwner] at hg
  obtain ⟨hm, ho⟩ := PlanTable.mem_removeAll_filter hg
  exact ⟨hm, by simpa using ho⟩

/-- The record of the owner whose holdings stay is kept. -/
theorem PlanTable.keepOwn_peers_owner {t : PlanTable} {own : Address} {g : Holding} (hg : g ∈ (t.keepOwn own).plan) :
    (t.keepOwn own).peers[g.owner] = t.peers[g.owner] := by
  obtain rfl := (PlanTable.mem_keepOwn hg).2
  simp [PlanTable.keepOwn, PlanTable.keepOwner]

@[simp] theorem PlanTable.removeKey_peers (t : PlanTable) (o : Address) (c : ChannelId) : (t.removeKey o c).peers = t.peers := by
  unfold PlanTable.removeKey
  split <;> rfl

@[simp] theorem PlanTable.insert_peers (t : PlanTable) (h : Holding) : (t.insert h).peers = t.peers :=
  t.removeKey_peers h.owner h.channel

theorem PlanTable.mem_removeKey {t : PlanTable} {o : Address} {c : ChannelId} {g : Holding} (hg : g ∈ (t.removeKey o c).plan) :
    g ∈ t.plan := by
  unfold PlanTable.removeKey at hg
  split at hg
  · exact List.mem_of_mem_erase hg
  · exact hg

theorem PlanTable.mem_insert {t : PlanTable} {h g : Holding} (hg : g ∈ (t.insert h).plan) : g = h ∨ g ∈ t.plan := by
  rw [PlanTable.insert_plan, PlanTable.mem_insertSorted] at hg
  exact hg.imp_right PlanTable.mem_removeKey

/-- The overwrite of an ANNOUNCE leaves holdings of other owners as they are, inserts those of the sender alone, and touches no
record. -/
theorem PlanTable.overwrite_mem_peers (t : PlanTable) (a : Address) (entries : List WireEntry) :
    (∀ g ∈ (t.overwrite a entries).plan, g.owner = a ∨ g ∈ t.plan) ∧ (t.overwrite a entries).peers = t.peers := by
  unfold PlanTable.overwrite
  refine List.foldlRecOn entries _
    (motive := fun u : PlanTable => (∀ g ∈ u.plan, g.owner = a ∨ g ∈ t.plan) ∧ u.peers = t.peers)
    ⟨fun g hg => .inr (PlanTable.mem_removeOwner hg).1, t.removeOwner_peers a⟩ fun u ⟨hm, hp⟩ e _ => ?_
  cases channelOf? e.channel with
  | none => exact ⟨hm, hp⟩
  | some c =>
    refine ⟨fun g hg => ?_, (u.insert_peers _).trans hp⟩
    rcases PlanTable.mem_insert hg with rfl | hg
    · exact .inl rfl
    · exact hm g hg

/-! ## The law of R14 -/

/-- The law survives where holdings only leave and no PRESENT record becomes ABSENT. -/
theorem PlanTable.OwnersPresent.shrink {t u : PlanTable} (ho : t.OwnersPresent) (hm : ∀ g ∈ u.plan, g ∈ t.plan)
    (hp : ∀ g ∈ u.plan, t.peers[g.owner].present = true → u.peers[g.owner].present = true) : u.OwnersPresent :=
  fun g hg => hp g hg (ho g (hm g hg))

/-- Every single change keeps the law: a holding comes in only with a PRESENT owner, and a record becomes ABSENT only as its
owner's holdings leave (R14). -/
theorem PlanTable.Change.ownersPresent {t u : PlanTable} (hc : PlanTable.Change t u) (ho : t.OwnersPresent) :
    u.OwnersPresent := by
  cases hc with
  | empty => exact fun g hg => absurd hg (by simp [PlanTable.reset])
  | remove => exact ho.shrink (fun g hg => List.mem_of_mem_erase hg) fun g _ h => h
  | claim present =>
    intro g hg
    rw [PlanTable.insert_peers]
    rcases PlanTable.mem_insert hg with rfl | hg
    · exact present
    · exact ho g hg
  | announce a entries present =>
    obtain ⟨hm, hp⟩ := t.overwrite_mem_peers a entries
    intro g hg
    rw [PlanTable.setPeer_get, hp]
    split
    · exact present
    · next hne => exact ho g ((hm g hg).resolve_left hne)
  | expire a absent =>
    refine ho.shrink (fun g hg => (PlanTable.mem_removeOwner hg).1) fun g hg h => ?_
    rw [PlanTable.removeOwner_peers, PlanTable.setPeer_get, if_neg (PlanTable.mem_removeOwner hg).2]
    exact h
  | keepOwn own =>
    refine ho.shrink (fun g hg => (PlanTable.mem_keepOwn hg).1) fun g hg h => ?_
    rwa [PlanTable.keepOwn_peers_owner hg]
  | age =>
    refine ho.shrink (fun g hg => hg) fun g _ h => ?_
    simp only [Fin.getElem_fin] at h
    simp [PlanTable.agePeers, h]
  | setAge a n =>
    refine ho.shrink (fun g hg => hg) fun g _ h => ?_
    rw [PlanTable.setPeer_get]
    split
    · next e => exact e ▸ h
    · exact h

/-! ## What an operation does to the plan table -/

/-- From `s` to `t` the plan table goes through some changes, one after the other, and nothing else befalls it. -/
def Replans (s t : State) : Prop := Relation.ReflTransGen PlanTable.Change s.table t.table

theorem Replans.of_eq {s t : State} (h : t.table = s.table) : Replans s t := by
  unfold Replans
  rw [h]

theorem Replans.refl (s : State) : Replans s s := .of_eq rfl

theorem Replans.trans {s t u : State} (h : Replans s t) (g : Replans t u) : Replans s u := Relation.ReflTransGen.trans h g

theorem Replans.change {s t : State} (h : PlanTable.Change s.table t.table) : Replans s t := .single h

/-- An entry that empties plan and peer table is one change. -/
theorem Replans.empty {s t : State} (h : t.table = .reset) : Replans s t := .change (h ▸ .empty s.table)

/-- What leaves the plan table alone before an operation or behind it does not matter. -/
theorem Replans.congr {s t u v : State} (h : Replans t u) (before : t.table = s.table) (after : v.table = u.table) :
    Replans s v := by
  unfold Replans at *
  rwa [← before, after]

/-- Both branches of a condition. -/
theorem Replans.ite {p : Prop} [Decidable p] {s t u : State} (h : Replans s t) (g : Replans s u) :
    Replans s (if p then t else u) := by
  split
  · exact h
  · exact g

/-- What happens only under a condition. -/
theorem Replans.guard {p : Prop} [Decidable p] {s t : State} (h : Replans s t) : Replans s (if p then t else s) :=
  h.ite (.refl s)

theorem Replans.foldl {α : Type} {f : State → α → State} (h : ∀ s a, Replans s (f s a)) (as : List α) (s : State) :
    Replans s (as.foldl f s) := by
  induction as generalizing s with
  | nil => exact .refl s
  | cons a as ih => exact (h s a).trans (ih (f s a))

/-- Some changes of the plan table keep the law of R14. -/
theorem Replans.ownersPresent {s t : State} (h : Replans s t) (ho : s.table.OwnersPresent) : t.table.OwnersPresent := by
  unfold Replans at h
  generalize t.table = u at h
  induction h with
  | refl => exact ho
  | tail _ hc ih => exact hc.ownersPresent ih

/-! ## Eviction and expiry -/

theorem evictSteps_replans (n : Nat) (s : State) : Replans s (evictSteps n s) := by
  induction n generalizing s with
  | zero => exact .refl s
  | succ n ih =>
    unfold evictSteps
    have hc := s.table.evictionChoice_cases s.cfg.budget
    cases e : s.table.evictionChoice s.cfg.budget with
    | none => exact .refl s
    | some h =>
      rw [e] at hc
      obtain ⟨held, -⟩ := hc
      have first : Replans s (evictOne h s) := .change (by rw [evictOne_table]; exact .remove held)
      exact first.trans (ih _)

theorem evictAndFree_replans (lost : Bool) {tell : State → State} (ht : ∀ s, (tell s).table = s.table) (s : State) :
    Replans s (evictAndFree lost tell s) := by
  refine (evictSteps_replans s.table.plan.length s).congr rfl ?_
  unfold evictAndFree
  dsimp only
  split <;> simp [ht, evict]

theorem expireRecord_replans (a : Address) (s : State) : Replans s (expireRecord a s) :=
  .change (by rw [expireRecord_table]; exact .expire _ a rfl)

theorem expireAll_replans (as : List Address) (s : State) : Replans s (expireAll as s) := by
  have tells : ∀ s, (as.foldl (fun s a => postExpiry a s) s).table = s.table :=
    fun s => foldl_keeps State.table _ (fun s a => by simp) as s
  exact (Replans.foldl (fun s a => expireRecord_replans a s) as s).trans (evictAndFree_replans _ tells _)

/-! ## The entries into the station states -/

theorem enterResync_replans (cause : Cause) (s : State) : Replans s (enterResync cause s) := by
  have h : (enterResync cause s).table = s.table.keepOwn s.cfg.address := by
    unfold enterResync
    dsimp only
    split <;> simp
  exact .change (h ▸ .keepOwn _ _)

theorem enterFault_replans (cause : Cause) (s : State) : Replans s (enterFault cause s) := .empty rfl

theorem enterHalt_replans (cause : Cause) (s : State) : Replans s (enterHalt cause s) := .empty rfl

theorem recover_replans (s : State) : Replans s (recover s) := .empty rfl

/-! ## The SYNC edge -/

theorem announceDueTest_replans (s : State) : Replans s (announceDueTest s) := .of_eq (by simp)

theorem edgePlan_replans (s : State) : Replans s (edgePlan s) := by
  have aged : Replans s { s with table := s.table.agePeers } := .change (.age _)
  exact (aged.trans (expireAll_replans _ _)).trans (announceDueTest_replans _)

/-- Each of the hand-offs makes changes of the plan table and no more. -/
structure HandOffs.AllReplan (h : HandOffs) : Prop where
  message (s : State) : Replans s (h.message s)
  attempt (s : State) : Replans s (h.attempt s)
  station (s : State) : Replans s (h.station s)

theorem HandOffs.none_allReplan : HandOffs.none.AllReplan := ⟨.refl, .refl, .refl⟩

theorem HandOffs.AllReplan.run {h : HandOffs} (hr : h.AllReplan) (s : State) : Replans s (h.run s) :=
  ((hr.message s).trans (hr.attempt _)).trans (hr.station _)

theorem edgePart_replans {h : HandOffs} (hr : h.AllReplan) (p : EdgePart) (s : State) : Replans s (edgePart h p s) := by
  cases p with
  | planTable => exact edgePlan_replans s
  | driveUnit => exact .of_eq (by simp [edgePart])
  | messageEngine => exact .of_eq (by simp [edgePart])
  | stationController => exact .of_eq (by simp [edgePart])
  | message => exact hr.message s
  | attemptReport => exact hr.attempt s
  | stationReport => exact hr.station s

theorem takeFall_replans (hold : Nat) (order : List EdgePart) {h : HandOffs} (hr : h.AllReplan) (s : State) :
    Replans s (takeFall hold order h s) := by
  unfold takeFall
  split
  · exact (Replans.foldl (fun s p => edgePart_replans hr p s) order (edgeTimer (fallSync hold s))).congr rfl rfl
  · exact .of_eq rfl

theorem ownFall_replans (s : State) : Replans s (ownFall s) := by
  unfold ownFall
  split
  · exact takeFall_replans _ _ HandOffs.none_allReplan s
  · exact .refl s

/-! ## The passing of time -/

theorem TimeKeeps.table {s t : State} (h : TimeKeeps s t) : t.table = s.table := by
  obtain ⟨-, -, ht, -⟩ := h
  exact ht

@[simp] theorem elapse_table (d : Nat) (s : State) : (elapse d s).table = s.table := (elapse_keeps d s).table
@[simp] theorem advance_table (d : Nat) (s : State) : (advance d s).table = s.table := (advance_keeps d s).table
@[simp] theorem advanceInFrame_table (t : Nat) (s : State) : (advanceInFrame t s).table = s.table :=
  (advanceInFrame_keeps t s).table
@[simp] theorem advanceToBit_table (position : Nat) (s : State) : (advanceToBit position s).table = s.table :=
  (advanceToBit_keeps position s).table
@[simp] theorem advanceToLocal_table (t : Nat) (s : State) : (advanceToLocal t s).table = s.table := advance_table ..
@[simp] theorem advanceToPulse_table (t : Nat) (s : State) : (advanceToPulse t s).table = s.table := advance_table ..
@[simp] theorem advanceToIdle_table (s : State) : (advanceToIdle s).table = s.table := advance_table ..
@[simp] theorem advanceToRise_table (s : State) : (advanceToRise s).table = s.table := by
  unfold advanceToRise; split <;> simp
@[simp] theorem advanceToRecessive_table (s : State) : (advanceToRecessive s).table = s.table := by
  unfold advanceToRecessive; split <;> simp
@[simp] theorem advanceToGap_table (gap : Nat) (s : State) : (advanceToGap gap s).table = s.table := by
  unfold advanceToGap; split <;> [skip; split] <;> simp
@[simp] theorem advanceToFall_table (s : State) : (advanceToFall s).table = s.table := by
  unfold advanceToFall; split <;> simp
@[simp] theorem acquireSync_table (s : State) : (acquireSync s).table = s.table := by
  unfold acquireSync; dsimp only; split <;> rfl
@[simp] theorem releasePulse_table (s : State) : (releasePulse s).table = s.table := advance_table ..

/-! ## Message exchange -/

@[simp] theorem tryClaims_table (cs : List ChannelId) (s : State) : (tryClaims cs s).1.table = s.table := by
  induction cs generalizing s with
  | nil => rfl
  | cons c cs ih =>
    unfold tryClaims
    split
    · rfl
    · rw [ih]; rfl

@[simp] theorem selectMessage_table (s : State) : (selectMessage s).1.table = s.table := by
  have claims := tryClaims_table (s.claims.filter fun c => s.station.state.permits (.claim c)) s
  unfold selectMessage
  split
  · rfl
  · split
    · rfl
    · split
      · next e => rw [e] at claims; exact claims
      · next e => rw [e] at claims; split <;> exact claims

@[simp] theorem driveFrame_table (pulls : Bool) (k : Composed) (s : State) : (driveFrame pulls k s).table = s.table := by
  unfold driveFrame
  dsimp only
  split <;> rfl

@[simp] theorem startFrame_table (s : State) : (startFrame s).table = s.table := by
  have h := selectMessage_table s
  unfold startFrame
  split <;> next e => rw [e] at h; simpa using h

@[simp] theorem joinFrame_table (hold : Nat) (s : State) : (joinFrame hold s).table = s.table := by
  have h := selectMessage_table (openFrame (fallData hold s))
  unfold joinFrame
  dsimp only
  split <;> next e => rw [e] at h; simpa using h

@[simp] theorem landFall_table (hold : Nat) (s : State) : (landFall hold s).table = s.table := by
  unfold landFall
  split
  · split <;> simp
  all_goals rfl

@[simp] theorem dataFall_table (hold : Nat) (s : State) : (dataFall hold s).table = s.table := by
  unfold dataFall
  dsimp only
  split <;> simp

@[simp] theorem readback_table (m : Message) (s : State) : (readback m s).table = s.table := by
  unfold readback
  repeat' split
  all_goals simp

@[simp] theorem readObjected_table (t : Nat) (m : Message) (check : BitVec 8) (s : State) :
    (readObjected t m check s).table = s.table := by
  simp [readObjected]

@[simp] theorem refuse_table (sender : BitVec 5) (e : WireEntry) (s : State) : (refuse sender e s).table = s.table := by
  unfold refuse
  dsimp only
  split <;> simp

@[simp] theorem markTraffic_table (s : State) : (markTraffic s).table = s.table := by
  unfold markTraffic; split <;> rfl

theorem HandOffs.objected_allReplan : HandOffs.objected.AllReplan := by
  refine ⟨.refl, fun s => .of_eq ?_, fun s => .of_eq (markTraffic_table s)⟩
  show (reportObjected s).table = s.table
  unfold reportObjected
  split <;> simp

/-! ## The commit -/

theorem applyAnnounce_replans (sender : Address) (cycleAge : BitVec 16) (entries : List WireEntry) (s : State) :
    Replans s (applyAnnounce sender cycleAge entries s) := by
  have written : Replans s
      { s with
        table := (s.table.overwrite sender entries).setPeer sender { present := true, age := 0, cycleAge := cycleAge } } :=
    .change (.announce _ _ _ rfl)
  have tells : ∀ (arrived : Bool) (s : State),
      (if arrived then post .peerArrived (.address sender) s else s).table = s.table := by
    intro arrived s
    split <;> rfl
  exact written.trans (evictAndFree_replans _ (tells _) _)

theorem applyClaim_replans (sender : Address) (c : ChannelId) (e : WireEntry) (s : State) :
    Replans s (applyClaim sender c e s) := by
  unfold applyClaim
  dsimp only
  split
  · next present =>
    have inserted : Replans s { s with table := s.table.insert (holdingOf sender c e) } := .change (.claim present)
    exact inserted.trans (evictAndFree_replans _ (fun _ => rfl) _)
  · exact .refl s

theorem applyRelease_replans (sender : Address) (c : ChannelId) (s : State) : Replans s (applyRelease sender c s) := by
  have removed : Replans s { s with table := s.table.removeKey sender c } := by
    unfold PlanTable.removeKey
    split
    · next e => exact .change (.remove (PlanTable.find_some e).1)
    · exact .refl s
  exact removed.trans (evictAndFree_replans _ (fun _ => rfl) _)

theorem applyMessage_replans (m : Message) (refused : Bool) (s : State) : Replans s (applyMessage m refused s) := by
  cases m with
  | announce => exact applyAnnounce_replans ..
  | release sender channel =>
    unfold applyMessage
    dsimp only
    cases channelOf? channel with
    | none => exact .refl s
    | some c => exact applyRelease_replans ..
  | claim sender e =>
    unfold applyMessage
    dsimp only
    cases channelOf? e.channel with
    | none => exact .refl s
    | some c => exact .ite (.refl s) (applyClaim_replans ..)
  | rollcall =>
    show Replans s (applyRollcall s)
    unfold applyRollcall
    cases s.station.state <;> exact .of_eq rfl

@[simp] theorem reportCommit_table (k : Composed) (refused : Bool) (s : State) : (reportCommit k refused s).table = s.table := by
  unfold reportCommit channelAdmitted channelReleased
  dsimp only
  repeat' split
  all_goals simp

theorem reportRefused_replans (s : State) : Replans s (reportRefused s) := by
  unfold reportRefused
  cases s.station.state with
  | joined | leaving => exact enterResync_replans _ s
  | unconfigured | listen | resync | quiet | fault | halt => exact .refl s

theorem reportDifference_replans (s : State) : Replans s (reportDifference s) := by
  unfold reportDifference
  cases s.station.state with
  | joined | leaving => exact enterResync_replans _ s
  | quiet => exact .of_eq rfl
  | unconfigured | listen | resync | fault | halt => exact .refl s

theorem stationReport_replans (m : Message) (own : Bool) (verdict : Option Verdict) (refused : Bool) (s : State) :
    Replans s (stationReport m own verdict refused s) := by
  cases m with
  | announce => exact .of_eq (markTraffic_table s)
  | release => exact .refl s
  | rollcall sender =>
    show Replans s (markRollcall (addressOf sender) s)
    unfold markRollcall
    split <;> exact .of_eq rfl
  | claim sender e =>
    unfold stationReport
    dsimp only
    exact .ite (.guard (reportRefused_replans s)) (.guard (reportDifference_replans s))

theorem handOver_allReplan (m : Message) (own : Bool) (verdict : Option Verdict) (refused : Bool) (s : State) :
    (handOver m own verdict refused s).AllReplan := by
  unfold handOver
  split
  · exact ⟨enterHalt_replans _, .refl, .refl⟩
  · refine ⟨applyMessage_replans m refused, fun t => ?_, stationReport_replans m own verdict refused⟩
    dsimp only
    cases s.sched.composed with
    | none => exact .refl t
    | some k =>
      dsimp only
      split
      · exact .of_eq (reportCommit_table ..)
      · exact .refl t

/-- Reading a message to its outcome leaves the plan table, and its hand-offs make changes of it and no more. -/
theorem decided_replans (m : Message) (othersRefuse : Bool) (s : State) :
    (decided m othersRefuse s).1.table = s.table ∧ (decided m othersRefuse s).2.AllReplan := by
  unfold decided
  dsimp only
  split
  · exact ⟨readObjected_table .., HandOffs.objected_allReplan⟩
  · exact ⟨by simp, handOver_allReplan ..⟩

theorem objected_replans (m : Message) (check : BitVec 8) (s : State) : Replans s (objected m check s) :=
  (HandOffs.objected_allReplan.run _).congr (readObjected_table ..) rfl

theorem commit_replans (m : Message) (othersRefuse : Bool) (s : State) : Replans s (commit m othersRefuse s) := by
  obtain ⟨ht, hr⟩ := decided_replans m othersRefuse s
  unfold commit
  dsimp only
  split
  · exact (hr.run _).congr ht rfl
  · exact .refl s

theorem fallWith_replans (hold : Nat) (order : List EdgePart) (s : State) : Replans s (fallWith hold order s) := by
  unfold fallWith
  dsimp only
  split
  · next late _ =>
    cases late with
    | committed m refused =>
      obtain ⟨ht, hr⟩ := decided_replans m refused s
      exact (takeFall_replans hold order hr _).congr ht rfl
    | objected m check =>
      exact (takeFall_replans hold order HandOffs.objected_allReplan _).congr (readObjected_table ..) rfl
  · exact takeFall_replans hold order HandOffs.none_allReplan s

/-! ## The local port -/

theorem configAct_replans (a : ConfigArgs) (s : State) : Replans s (configAct a s) := by
  unfold configAct
  exact .ite (.of_eq rfl) (.ite (.empty rfl) (.of_eq rfl))

theorem leaveQuietAct_replans (s : State) : Replans s (leaveQuietAct s) := by
  have entry : Replans s (if s.station.quietStale then enterListen .stale s else enterJoined .returned s) :=
    .ite (.empty rfl) (.of_eq (by simp))
  unfold leaveQuietAct
  exact .ite (entry.congr rfl rfl) (.of_eq rfl)

theorem applyDemand_table (c : ChannelId) (d : Nat) (s : State) : (applyDemand c d s).table = s.table := by
  unfold applyDemand
  dsimp only
  split
  · rfl
  · simp

@[simp] theorem demandAct_table (channel : Byte) (value : BitVec 16) (s : State) :
    (demandAct channel value s).table = s.table := by
  unfold demandAct
  split
  · rfl
  · split
    · rfl
    · split
      · rfl
      · exact applyDemand_table ..

@[simp] theorem clearAct_table (channel mask : Byte) (s : State) : (clearAct channel mask s).table = s.table := by
  unfold clearAct
  repeat' split
  all_goals rfl

@[simp] theorem quietAct_table (s : State) : (quietAct s).table = s.table := by
  unfold quietAct
  split <;> simp

@[simp] theorem channelAct_table (channel : Byte) (s : State) : (channelAct channel s).table = s.table := by
  unfold channelAct
  split <;> rfl

@[simp] theorem slotAct_table (slot : Byte) (s : State) : (slotAct slot s).table = s.table := by
  unfold slotAct
  split <;> rfl

@[simp] theorem holdingsAct_table (owner : Byte) (s : State) : (holdingsAct owner s).table = s.table := by
  unfold holdingsAct
  split <;> rfl

@[simp] theorem peerAct_table (address : Byte) (s : State) : (peerAct address s).table = s.table := by
  unfold peerAct
  split <;> rfl

@[simp] theorem eventAct_table (s : State) : (eventAct s).table = s.table := by
  unfold eventAct
  split <;> rfl

/-- Of the port's commands only CONFIG and LEAVE QUIET touch the plan table. -/
theorem act_replans (s : State) : Replans s (act s) := by
  unfold act
  split
  · exact .refl s
  · exact .ite (configAct_replans ..) <| .ite (.of_eq (demandAct_table ..)) <| .ite (.of_eq (clearAct_table ..)) <|
      .ite (.of_eq (quietAct_table s)) <| .ite (leaveQuietAct_replans s) <| .ite (.of_eq (channelAct_table ..)) <|
      .ite (.of_eq (slotAct_table ..)) <| .ite (.of_eq (holdingsAct_table ..)) <| .ite (.of_eq (peerAct_table ..)) <|
      .ite (.of_eq rfl) <| .ite (.of_eq (eventAct_table s)) (.of_eq rfl)

theorem clockByte_replans (s : State) (b : Byte) : Replans s (clockByte s b) := by
  have acts : ∀ p : LocalPort, Replans s (act { s with port := p }) := fun p =>
    (act_replans { s with port := p }).congr rfl rfl
  unfold clockByte
  cases s.port.phase with
  | none => exact .refl s
  | ignore => exact .refl s
  | command =>
    dsimp only
    split
    · exact .of_eq rfl
    · exact acts _
    · exact .of_eq rfl
  | arguments =>
    dsimp only
    split
    · exact acts _
    · exact .of_eq rfl
  | reply => exact .of_eq rfl

theorem clockBytes_replans (bytes : List Byte) (s : State) : Replans s (clockBytes bytes s) := .foldl clockByte_replans bytes s

/-! ## The rows -/

/-- A row has one next state. -/
theorem Replans.of_next {s t u : State} (h : (Host.Outcome.next u : Host.Outcome State Fault Refusal) = .next t)
    (r : Replans s u) : Replans s t := by
  cases h
  exact r

theorem execSelfExpired_replans {s t : State} (h : execSelfExpired s = .next t) : Replans s t := by
  refine .of_next h (.guard ?_)
  have void : Replans s (if s.engine.transmission = .none then s else edgeEngine s) := by
    split
    · exact .refl s
    · exact .of_eq (by simp)
  exact (void.trans (expireAll_replans _ _)).trans (announceDueTest_replans _)

theorem execAnnounceDue_replans {s t : State} (h : execAnnounceDue s = .next t) : Replans s t := by
  refine .of_next h (.guard ?_)
  have aged : Replans s (ageOwnToInterval s) := by
    unfold ageOwnToInterval
    dsimp only
    split
    · exact .change (.setAge _ _ _)
    · exact .refl s
  exact aged.trans (announceDueTest_replans _)

theorem execSyncEdge_replans {hold : Nat} {order : List EdgePart} {s t : State} (h : execSyncEdge hold order s = .next t) :
    Replans s t := by
  unfold execSyncEdge at h
  have time : (if s.fallWaits then s else advanceToFall s).table = s.table := by split <;> simp
  generalize (if s.fallWaits then s else advanceToFall s) = u at h time
  refine .of_next h ?_
  split
  · exact .refl s
  · exact (fallWith_replans hold (u.edgeOrder order) u).congr time rfl

/-- A row before which an own fall is taken, and which leaves the plan table then. -/
theorem Replans.behind_ownFall {s t u : State} (h : (Host.Outcome.next u : Host.Outcome State Fault Refusal) = .next t)
    (e : u.table = (ownFall s).table) : Replans s t :=
  .of_next h ((ownFall_replans s).trans (.of_eq e))

/-- What a row does to the plan table: some of the listed changes and no other. -/
theorem exec_replans {i : Instr} {s t : State} (h : exec i s = .next t) : Replans s t := by
  cases i with
  | powerOnReset | resetPin => exact .of_next h (.empty rfl)
  | resetRelease => exact .of_next h (.guard (.empty rfl))
  | portReady => exact .of_next h (.of_eq (by split <;> rfl))
  | transactionStart => exact .of_next h (.of_eq (by split <;> [rfl; split <;> rfl]))
  | transactionEnd clocked => exact .of_next h ((clockBytes_replans clocked s).congr rfl rfl)
  | badCommand | config | demand | clear | quiet | leaveQuiet | channel | slot | holdings | peer | station | event =>
    exact .of_next h (clockBytes_replans _ s)
  | eventRecordRemoved => exact .of_next h (.guard (.of_eq rfl))
  | syncEdge => exact execSyncEdge_replans h
  | invalidSyncEdge => exact .of_next h (.of_eq (by split <;> simp))
  | peerExpired => exact .of_next h (.guard (expireAll_replans _ s))
  | selfExpired => exact execSelfExpired_replans h
  | announceDue => exact execAnnounceDue_replans h
  | joinWindowEnd => exact .of_next h (.guard (.of_eq (by simp)))
  | slotStart | guardWindow | syncPulse | syncPulseRelease | syncAcquired | framingIdle | startOfFrame | joinStartOfFrame
  | refuseBit => exact .behind_ownFall h (by split <;> simp)
  | dataFall => exact .behind_ownFall h (by simp)
  | syncStuck | dataStuck | linesIdle => exact .of_next h ((ownFall_replans s).trans (.guard (.empty rfl)))
  | attemptLost => exact .of_next h (.guard (.of_eq (by simp)))
  | messageObjected => exact .of_next h ((ownFall_replans s).trans (.guard (objected_replans ..)))
  | announceCommit | claimCommit | releaseCommit | rollcallCommit =>
    exact .of_next h ((ownFall_replans s).trans (commit_replans ..))
  | mismatchAfterSender => exact .of_next h (.guard (.of_eq rfl))

/-! ## The tick and the step -/

theorem tickStuck_replans (s : State) : Replans s (tickStuck s) := by
  unfold tickStuck
  exact .guard (.ite (enterFault_replans _ s) (.guard (enterFault_replans _ s)))

@[simp] theorem tickFraming_table (s : State) : (tickFraming s).table = s.table := by
  unfold tickFraming; split <;> rfl

@[simp] theorem tickRelease_table (s : State) : (tickRelease s).table = s.table := by
  unfold tickRelease; split <;> simp

@[simp] theorem tickPulse_table (s : State) : (tickPulse s).table = s.table := by
  unfold tickPulse; split <;> [skip; split] <;> simp

@[simp] theorem tickFrame_table (s : State) : (tickFrame s).table = s.table := by
  unfold tickFrame; split <;> simp

theorem tick_replans (s : State) : Replans s (tick s) := by
  unfold tick
  split
  · exact .refl s
  · have time : Replans s (advance 1 (ownFall s)) := (ownFall_replans s).congr rfl (advance_table ..)
    have idle : ∀ u, Replans u (tickIdleLines u) := fun u => .guard (recover_replans u)
    exact ((time.trans (tickStuck_replans _)).trans (idle _)).congr rfl (by simp)

/-- What a step does to the plan table: some of the listed changes and no other. -/
theorem step_replans {s t : State} (h : step s = .next t) : Replans s t := by
  unfold step at h
  cases hp : s.pending with
  | nil =>
    rw [hp] at h
    exact .of_next h (tick_replans s)
  | cons c rest =>
    rw [hp] at h
    exact (exec_replans (s := { s with pending := rest }) h).congr rfl rfl

/-- Settles O53: a step makes single changes of the plan table one after the other, and each of them keeps the law. -/
theorem noHoldingOfAnAbsentOwner : Obligations.NoHoldingOfAnAbsentOwner := by
  unfold Obligations.NoHoldingOfAnAbsentOwner
  intro s t ho h
  exact (step_replans h).ownersPresent ho

end Sys2Proof.Machine
end

section
/-! Eviction (R21, R22): the holdings that it removes, as a list that the plan and the budget alone decide, and what the removal of
such a list does to the plan, the channels, the outputs and the event queue. -/

namespace Sys2Proof.Machine

/-! ## The holdings that eviction removes -/

/-- The holdings that eviction removes from a plan, in order, in at most `fuel` steps. -/
def PlanTable.evictions (budget : Nat) : Nat → PlanTable → List Holding
  | 0, _ => []
  | fuel + 1, t =>
      match t.evictionChoice budget with
      | none => []
      | some h => h :: evictions budget fuel (t.remove h)

/-- The steps of eviction for some holdings, one after the other. -/
def evictEach (hs : List Holding) (s : State) : State := hs.foldl (fun s h => evictOne h s) s

@[simp] theorem evictEach_nil (s : State) : evictEach [] s = s := rfl
@[simp] theorem evictEach_cons (h : Holding) (hs : List Holding) (s : State) :
    evictEach (h :: hs) s = evictEach hs (evictOne h s) := rfl

/-- Eviction takes its steps for the listed holdings. -/
theorem evictSteps_eq_evictEach (n : Nat) (s : State) :
    evictSteps n s = evictEach (s.table.evictions s.cfg.budget n) s := by
  induction n generalizing s with
  | zero => rfl
  | succ n ih =>
    unfold evictSteps PlanTable.evictions
    cases s.table.evictionChoice s.cfg.budget with
    | none => rfl
    | some h =>
      dsimp only
      rw [ih, evictEach_cons, evictOne_table, evictOne_cfg]

theorem evictEach_table (hs : List Holding) (s : State) : (evictEach hs s).table = hs.foldl PlanTable.remove s.table := by
  induction hs generalizing s with
  | nil => rfl
  | cons h hs ih => rw [evictEach_cons, ih, evictOne_table, List.foldl_cons]

theorem PlanTable.evictions_length_le (budget n : Nat) (t : PlanTable) : (t.evictions budget n).length ≤ n := by
  induction n generalizing t with
  | zero => exact Nat.le_refl 0
  | succ n ih =>
    unfold PlanTable.evictions
    cases t.evictionChoice budget with
    | none => exact Nat.zero_le _
    | some h => exact Nat.succ_le_succ (ih _)

/-- The plan as it stands before each step obeys its laws, and the step removes the choice of that plan. -/
theorem PlanTable.Lawful.evictions_split {t : PlanTable} (hl : t.Lawful) {budget n : Nat} {before after : List Holding}
    {h : Holding} (e : t.evictions budget n = before ++ h :: after) :
    (before.foldl PlanTable.remove t).Lawful ∧ (before.foldl PlanTable.remove t).evictionChoice budget = some h := by
  induction n generalizing t before with
  | zero => simp [PlanTable.evictions] at e
  | succ n ih =>
    unfold PlanTable.evictions at e
    have hc := t.evictionChoice_cases budget
    cases hg : t.evictionChoice budget with
    | none => simp [hg] at e
    | some g =>
      rw [hg] at e hc
      obtain ⟨hm, -⟩ := hc
      cases before with
      | nil =>
        obtain ⟨rfl, -⟩ := List.cons.inj e
        exact ⟨hl, hg⟩
      | cons b before =>
        obtain ⟨rfl, rest⟩ := List.cons.inj e
        exact ih (hl.remove hm).1 rest

/-- Eviction removes holdings of the plan, and no key twice. -/
theorem PlanTable.Lawful.evictions_mem_keys {t : PlanTable} (hl : t.Lawful) (budget n : Nat) :
    (∀ g ∈ t.evictions budget n, g ∈ t.plan) ∧ (t.evictions budget n).Pairwise fun g h => g.key ≠ h.key := by
  induction n generalizing t with
  | zero => exact ⟨fun g hg => absurd hg (by simp [PlanTable.evictions]), List.Pairwise.nil⟩
  | succ n ih =>
    unfold PlanTable.evictions
    have hc := t.evictionChoice_cases budget
    cases hg : t.evictionChoice budget with
    | none => exact ⟨fun g hg => absurd hg (by simp), List.Pairwise.nil⟩
    | some h =>
      rw [hg] at hc
      obtain ⟨chosen, -⟩ := hc
      obtain ⟨hr, hp⟩ := hl.remove chosen
      obtain ⟨hm, hk⟩ := ih hr
      have left : ∀ g ∈ (t.remove h).evictions budget n, g ∈ t.plan ∧ g ≠ h := fun g hg => by
        have := hm g hg
        rw [hp, List.mem_filter] at this
        simpa using this
      refine ⟨fun g hg => ?_, List.pairwise_cons.2 ⟨fun g hg e => ?_, hk⟩⟩
      · rcases List.mem_cons.1 hg with rfl | hg
        · exact chosen
        · exact (left g hg).1
      · obtain ⟨gm, gne⟩ := left g hg
        exact gne (hl.key_unique gm chosen e.symm)

/-- A lawful plan holds at most one holding for each of the 384 keys. -/
theorem PlanTable.Lawful.plan_length_le {t : PlanTable} (hl : t.Lawful) : t.plan.length ≤ 384 := by
  have nodup : (t.plan.map Holding.key).Nodup := List.pairwise_map.2 (hl.1.imp fun h => Nat.ne_of_lt h)
  have bound : t.plan.map Holding.key ⊆ List.range 384 := by
    intro k hk
    obtain ⟨h, -, rfl⟩ := List.mem_map.1 hk
    have := h.owner.isLt
    have := h.channel.isLt
    rw [List.mem_range, Holding.key]
    omega
  simpa using (nodup.subperm bound).length_le

/-! ## The choice, in the words of R21 -/

theorem PlanTable.Lawful.coversOverBudget_iff {t : PlanTable} (hl : t.Lawful) (budget : Nat) (h : Holding) :
    t.coversOverBudget budget h = true ↔ ∃ k : Slot, h.covers k = true ∧ budget < t.sumAt k := by
  simp only [PlanTable.coversOverBudget, List.any_eq_true, Bool.and_eq_true, decide_eq_true_eq]
  constructor
  · rintro ⟨k, -, hc, hk⟩
    exact ⟨k, hc, (hl.2 k).1 ▸ hk⟩
  · rintro ⟨k, hc, hk⟩
    exact ⟨k, List.mem_finRange k, hc, (hl.2 k).1.symm ▸ hk⟩

/-- The canonical order is by owner and then by channel. -/
theorem Holding.key_le_iff (g h : Holding) :
    g.key ≤ h.key ↔ g.owner < h.owner ∨ (g.owner = h.owner ∧ g.channel ≤ h.channel) := by
  have := g.channel.isLt
  have := h.channel.isLt
  simp only [Holding.key, Fin.lt_def, Fin.le_def, Fin.ext_iff]
  omega

/-! ## What one step of eviction does to channels, outputs and events -/

/-- The holding is the station's own for channel `c`. -/
abbrev State.ownsFor (s : State) (c : ChannelId) (h : Holding) : Prop := h.owner = s.cfg.address ∧ h.channel = c

/-- The record of a used channel as the loss of its holding by eviction leaves it (R112). -/
def State.evictedChannel (s : State) (c : ChannelId) : Channel :=
  { s.channels[c] with
    span := none, held := 0, evicted := true
    state :=
      if s.channels[c].state = .inFlight then .inFlight
      else if s.channels[c].target = 0 then .idle
      else if holds s.sched.queue (.claim c) = true ∨ s.station.state = .joined then .queued
      else .waiting }

theorem State.evictedChannel_used {s : State} {c : ChannelId} : (s.evictedChannel c).state ≠ .unused := by
  unfold State.evictedChannel
  dsimp only
  repeat' split
  all_goals simp

/-- Entries of a request that a selection keeps stay queued. -/
theorem holds_filter {q : List QueueEntry} {p : QueueEntry → Bool} {r : Request} (h : ∀ e, e.request = r → p e = true) :
    holds (q.filter p) r = holds q r := by
  rw [Bool.eq_iff_iff, holds_iff, holds_iff]
  constructor
  · rintro ⟨e, he, hr⟩
    exact ⟨e, (List.mem_filter.1 he).1, hr⟩
  · rintro ⟨e, he, hr⟩
    exact ⟨e, List.mem_filter.2 ⟨he, h e hr⟩, hr⟩

/-- An offer leaves the requests of other channels as they are. -/
theorem holds_offerTo_of_channel_ne {q : List QueueEntry} {r a : Request} (h : r.channel? ≠ a.channel?) :
    holds (offerTo q r) a = holds q a := by
  have hr : r ≠ a := fun e => h (e ▸ rfl)
  have joins : ∀ q, holds (q ++ [.fresh r]) a = holds q a := fun q => by simp [holds, QueueEntry.fresh, hr]
  unfold offerTo
  split
  · rfl
  · cases ho : r.other with
    | none => exact joins q
    | some o =>
      have hoa : a ≠ o := by
        rintro rfl
        cases r <;> cases ho <;> exact h rfl
      dsimp only
      split
      · rfl
      · rw [joins, holds_filter]
        rintro e rfl
        simpa using hoa

/-- Settling a channel leaves the requests of the others queued or not, as they are. -/
theorem settle_holds_claim_of_ne {c d : ChannelId} (h : d ≠ c) (s : State) :
    holds (settle c s).sched.queue (.claim d) = holds s.sched.queue (.claim d) := by
  have hne : some c ≠ (Request.claim d).channel? := fun e => h (Option.some.inj e).symm
  have withdrawn : holds (withdrawAll c s).sched.queue (.claim d) = holds s.sched.queue (.claim d) :=
    holds_filter fun e he => by simpa [he, Request.channel?] using .inr h
  have placed : ∀ r : Request, r.channel? = some c →
      holds (placeRequest r c s).sched.queue (.claim d) = holds s.sched.queue (.claim d) := by
    intro r hr
    unfold placeRequest
    split
    · exact holds_offerTo_of_channel_ne (hr ▸ hne)
    · exact withdrawn
  rw [settle_eq]
  split
  · rfl
  · split
    · exact placed _ rfl
    · split
      · exact placed _ rfl
      · exact withdrawn

@[simp] theorem loseHolding_drive (b : Bool) (c : ChannelId) (s : State) :
    (loseHolding b c s).drive = (clearDrive c s).drive := by
  unfold loseHolding
  dsimp only
  split
  · rfl
  · cases b <;> simp

/-- CHANNEL_EVICTED is posted for a used channel. -/
theorem loseHolding_evicts_port (c : ChannelId) (s : State) :
    (loseHolding true c s).port
      = if s.channels[c].state = .unused then s.port
        else s.port.post ⟨.channelEvicted, .channel c, s.timer.cycleCounter⟩ := by
  unfold loseHolding
  dsimp only
  rw [clearDrive_channels]
  split <;> simp

/-- A settled channel without a span is IDLE without a target; otherwise its CLAIM is queued, or it waits (R105). -/
theorem settle_get_of_no_span {c : ChannelId} {s : State} (used : s.channels[c].state ≠ .unused)
    (span : s.channels[c].span = none) (held : s.channels[c].held = 0) :
    (settle c s).channels[c]
      = { s.channels[c] with
          state :=
            if s.channels[c].state = .inFlight then .inFlight
            else if s.channels[c].target = 0 then .idle
            else if holds s.sched.queue (.claim c) = true ∨ s.station.state = .joined then .queued
            else .waiting } := by
  have needs : s.channels[c].needsRelease = false := by rw [Channel.needsRelease, span]; simp
  have claims : s.channels[c].needsClaim = true ↔ s.channels[c].target ≠ 0 := by
    rw [Channel.needsClaim, span]
    simp [Nat.pos_iff_ne_zero]
  rw [settle_eq]
  by_cases flight : s.channels[c].state = .inFlight
  · rw [if_pos (.inr flight), if_pos flight, ← flight]
  · rw [if_neg (by tauto), if_neg flight]
    by_cases target : s.channels[c].target = 0
    · rw [if_neg (by tauto), if_neg (by simp only [needs, Bool.false_eq_true, not_false_iff]), mapChannel_get, if_pos rfl,
        if_pos target, withdrawAll_channels]
      dsimp only
      rw [span, target, held]
      rfl
    · rw [if_pos (claims.2 target), placeRequest_get, if_pos rfl, if_neg target]
      simp [StationState.mayQueue]

/-- The loss of a holding by eviction: the record of its channel, where it is used, and no other. -/
theorem loseHolding_evicts_get (c d : ChannelId) (s : State) :
    (loseHolding true c s).channels[d]
      = if d = c ∧ s.channels[c].state ≠ .unused then s.evictedChannel c else s.channels[d] := by
  unfold loseHolding
  dsimp only
  rw [clearDrive_channels]
  by_cases used : s.channels[c].state = .unused
  · rw [if_pos used, if_neg (by tauto), clearDrive_channels]
  · rw [if_neg used, if_pos rfl]
    generalize hu : post .channelEvicted (.channel c)
      ((clearDrive c s).mapChannel c fun ch => { ch with span := none, held := 0, evicted := true }) = u
    have hget : ∀ d : ChannelId, u.channels[d]
        = if d = c then { s.channels[c] with span := none, held := 0, evicted := true } else s.channels[d] := by
      subst hu
      intro d
      rw [post_channels, mapChannel_get, clearDrive_channels]
    by_cases hd : d = c
    · subst hd
      have hc := hget d
      rw [if_pos rfl] at hc
      rw [if_pos ⟨rfl, used⟩, settle_get_of_no_span (by rw [hc]; exact used) (by rw [hc]) (by rw [hc]), hc]
      subst hu
      rfl
    · rw [if_neg (by tauto), settle_get_ne hd, hget, if_neg hd]

theorem loseHolding_evicts_holds_claim_of_ne {c d : ChannelId} (h : d ≠ c) (s : State) :
    holds (loseHolding true c s).sched.queue (.claim d) = holds s.sched.queue (.claim d) := by
  unfold loseHolding
  dsimp only
  split
  · rfl
  · rw [if_pos rfl, settle_holds_claim_of_ne h]
    rfl

/-! ## One step of eviction -/

theorem evictOne_of_own {h : Holding} {s : State} (e : h.owner = s.cfg.address) :
    evictOne h s = loseHolding true h.channel { s with table := s.table.remove h } := if_pos e

theorem evictOne_of_other {h : Holding} {s : State} (e : h.owner ≠ s.cfg.address) :
    evictOne h s = { s with table := s.table.remove h } := if_neg e

theorem evictOne_get (h : Holding) (c : ChannelId) (s : State) :
    (evictOne h s).channels[c]
      = if s.ownsFor c h ∧ s.channels[c].state ≠ .unused then s.evictedChannel c else s.channels[c] := by
  by_cases own : h.owner = s.cfg.address
  · rw [evictOne_of_own own, loseHolding_evicts_get]
    by_cases hc : c = h.channel
    · subst hc
      simp only [State.ownsFor, own, true_and]
      rfl
    · rw [if_neg (by tauto), if_neg (by tauto)]
  · rw [evictOne_of_other own, if_neg (by tauto)]

theorem evictOne_unused_iff (h : Holding) (c : ChannelId) (s : State) :
    (evictOne h s).channels[c].state = .unused ↔ s.channels[c].state = .unused := by
  rw [evictOne_get]
  split
  · next e => exact iff_of_false s.evictedChannel_used e.2
  · rfl

/-- A step for another channel or another station leaves what a later step for the channel does. -/
theorem evictOne_evictedChannel {h : Holding} {c : ChannelId} {s : State} (hn : ¬s.ownsFor c h) :
    (evictOne h s).channels[c] = s.channels[c] ∧ (evictOne h s).evictedChannel c = s.evictedChannel c := by
  have same : (evictOne h s).channels[c] = s.channels[c] := by
    rw [evictOne_get, if_neg (by tauto)]
  have claim : holds (evictOne h s).sched.queue (.claim c) = holds s.sched.queue (.claim c) := by
    by_cases own : h.owner = s.cfg.address
    · rw [evictOne_of_own own]
      exact loseHolding_evicts_holds_claim_of_ne (fun e => hn ⟨own, e.symm⟩) _
    · rw [evictOne_of_other own]
  have station : (evictOne h s).station = s.station := by simp
  refine ⟨same, ?_⟩
  unfold State.evictedChannel
  rw [same, claim, station]

theorem evictOne_drive (h : Holding) (c : ChannelId) (s : State) :
    (evictOne h s).drive.table[c] = (if s.ownsFor c h then none else s.drive.table[c])
      ∧ (evictOne h s).drive.outputs[c] = (if s.ownsFor c h then false else s.drive.outputs[c]) := by
  by_cases own : h.owner = s.cfg.address
  · rw [evictOne_of_own own, loseHolding_drive, clearDrive_drive]
    simp only [State.ownsFor, own, true_and, Fin.getElem_fin, Vector.getElem_set, Fin.val_inj, and_self]
  · rw [evictOne_of_other own]
    simp [own]

/-- The own holding of a used channel: its eviction is reported. -/
def State.reportsEviction (s : State) (h : Holding) : Bool :=
  decide (h.owner = s.cfg.address) && s.channels[h.channel].state != .unused

theorem evictOne_port (h : Holding) (s : State) :
    (evictOne h s).port
      = if s.reportsEviction h then s.port.post ⟨.channelEvicted, .channel h.channel, s.timer.cycleCounter⟩ else s.port := by
  unfold State.reportsEviction
  by_cases own : h.owner = s.cfg.address
  · rw [evictOne_of_own own, loseHolding_evicts_port]
    dsimp only
    by_cases used : s.channels[h.channel].state = .unused
    · rw [if_pos used, used, decide_eq_true own]
      rfl
    · rw [if_neg used, decide_eq_true own, bne_iff_ne.2 used]
      rfl
  · rw [evictOne_of_other own, decide_eq_false own]
    rfl


/-! ## Some steps of eviction -/

theorem evictOne_reportsEviction (h : Holding) (s : State) : (evictOne h s).reportsEviction = s.reportsEviction := by
  funext g
  have unused := evictOne_unused_iff h g.channel s
  unfold State.reportsEviction
  rw [evictOne_cfg]
  congr 1
  rw [Bool.eq_iff_iff, bne_iff_ne, bne_iff_ne, ne_eq, ne_eq, unused]

/-- The reports of the steps follow one another in the event queue, in the order of the steps. -/
theorem evictEach_port (hs : List Holding) (s : State) :
    (evictEach hs s).port
      = (hs.filter s.reportsEviction).foldl
          (fun p h => p.post ⟨.channelEvicted, .channel h.channel, s.timer.cycleCounter⟩) s.port := by
  induction hs generalizing s with
  | nil => rfl
  | cons h hs ih =>
    have timer : (evictOne h s).timer = s.timer := by simp
    rw [evictEach_cons, ih, evictOne_reportsEviction, evictOne_port, timer, List.filter_cons]
    split <;> rfl

theorem evictEach_drive (hs : List Holding) (c : ChannelId) (s : State) :
    (evictEach hs s).drive.table[c] = (if ∃ h ∈ hs, s.ownsFor c h then none else s.drive.table[c])
      ∧ (evictEach hs s).drive.outputs[c] = (if ∃ h ∈ hs, s.ownsFor c h then false else s.drive.outputs[c]) := by
  induction hs generalizing s with
  | nil => simp
  | cons h hs ih =>
    obtain ⟨iht, iho⟩ := ih (evictOne h s)
    obtain ⟨ht, ho⟩ := evictOne_drive h c s
    rw [evictEach_cons, iht, iho, ht, ho]
    simp only [State.ownsFor, evictOne_cfg, List.mem_cons, exists_eq_or_imp]
    by_cases own : h.owner = s.cfg.address ∧ h.channel = c <;> simp [own]

/-- Of some holdings of different keys at most one is the station's own for a channel: its step sets the record of the channel, where
it is used, and no other step does. -/
theorem evictEach_get {hs : List Holding} (keys : hs.Pairwise fun g h => g.key ≠ h.key) (c : ChannelId) (s : State) :
    (evictEach hs s).channels[c]
      = if (∃ h ∈ hs, s.ownsFor c h) ∧ s.channels[c].state ≠ .unused then s.evictedChannel c else s.channels[c] := by
  induction hs generalizing s with
  | nil => simp
  | cons h hs ih =>
    obtain ⟨hne, keys⟩ := List.pairwise_cons.1 keys
    rw [evictEach_cons, ih keys]
    simp only [State.ownsFor, evictOne_cfg, List.mem_cons, exists_eq_or_imp]
    by_cases own : s.ownsFor c h
    · have last : ¬∃ g ∈ hs, g.owner = s.cfg.address ∧ g.channel = c := by
        rintro ⟨g, hg, go, gc⟩
        exact hne g hg (by simp [Holding.key, own.1, own.2, go, gc])
      rw [if_neg fun ⟨later, _⟩ => last later, evictOne_get]
      simp only [State.ownsFor, own.1, own.2, and_self, true_or, true_and]
    · obtain ⟨same, later⟩ := evictOne_evictedChannel own
      rw [same, later]
      simp only [own, false_or]

/-! ## Eviction -/

/-- The holdings that an eviction removes. -/
def State.evictions (s : State) : List Holding := s.table.evictions s.cfg.budget s.table.plan.length

theorem evict_eq_evictEach (s : State) : evict s = evictEach s.evictions s := evictSteps_eq_evictEach ..

/-- A step removes the highest of the holdings that cover a slot over budget, as the sums then stand, and that holding alone (R21). -/
theorem evictions_highest {s : State} (hl : s.table.Lawful) {before after : List Holding} {h : Holding}
    (e : s.evictions = before ++ h :: after) :
    let t := before.foldl PlanTable.remove s.table
    let among (g : Holding) : Prop := g ∈ t.plan ∧ ∃ k : Slot, g.covers k = true ∧ s.cfg.budget < t.sumAt k
    among h ∧ (∀ g, among g → g.owner < h.owner ∨ (g.owner = h.owner ∧ g.channel ≤ h.channel))
      ∧ (t.remove h).plan = t.plan.filter (fun g => decide (g ≠ h)) := by
  intro t among
  obtain ⟨tl, choice⟩ := hl.evictions_split e
  have hc := t.evictionChoice_cases s.cfg.budget
  rw [choice] at hc
  obtain ⟨hm, hover, highest⟩ := hc
  refine ⟨⟨hm, (tl.coversOverBudget_iff _ h).1 hover⟩, fun g ⟨gm, gover⟩ => ?_, (tl.remove hm).2⟩
  exact (g.key_le_iff h).1 (highest g gm ((tl.coversOverBudget_iff _ g).2 gover))

/-- Settles O45: the holdings are those that `State.evictions` lists; each is the choice of its step, and the steps are reported one
after the other. -/
theorem evictionRemovesTheHighestUntilWithinBudget : Obligations.EvictionRemovesTheHighestUntilWithinBudget := by
  unfold Obligations.EvictionRemovesTheHighestUntilWithinBudget
  intro s hl
  obtain ⟨lawful, within⟩ := evict_lawful s hl
  have keys : s.evictions.Pairwise fun g h => g.key ≠ h.key := (hl.evictions_mem_keys ..).2
  refine ⟨s.evictions, ?_, ?_, fun k => ⟨(lawful.2 k).1 ▸ within k, within k⟩, lawful, fun _ _ _ e => evictions_highest hl e, ?_,
    fun c => ?_⟩
  · rw [evict_eq_evictEach, evictEach_table]
  · exact (PlanTable.evictions_length_le ..).trans hl.plan_length_le
  · rw [evict_eq_evictEach, evictEach_port]
    rfl
  · have channel := evictEach_get keys c s
    obtain ⟨entry, output⟩ := evictEach_drive s.evictions c s
    rw [← evict_eq_evictEach] at channel entry output
    by_cases owned : ∃ h ∈ s.evictions, s.ownsFor c h
    · rw [if_pos owned] at entry output
      rw [if_pos owned]
      exact ⟨entry, output, fun used => channel.trans (if_pos ⟨owned, used⟩)⟩
    · rw [if_neg owned] at entry output
      rw [if_neg owned]
      exact ⟨entry, output, channel.trans (if_neg fun ⟨lost, _⟩ => owned lost)⟩

end Sys2Proof.Machine
end


section
/-! Placement (R94, R95): the fit test as a bound on every slot of a span, the candidates in the order of the scan, and the engine's
answer as the first candidate that fits. -/

namespace Sys2Proof.Machine

/-! ## The fit test and the admission check -/

theorem PlanTable.fits_iff (t : PlanTable) (budget : Nat) (owner : Address) (c : ChannelId) (start : Slot) (length rating : Nat) :
    t.fits budget owner c start length rating = true
      ↔ ∀ k : Slot, (k.val + 64 - start.val) % 64 < length → t.sums[k] - t.setAside owner c k + rating ≤ budget := by
  simp only [PlanTable.fits, allSlots, spanCovers, List.all_eq_true, List.mem_finRange, true_imp_iff, Bool.or_eq_true,
    Bool.not_eq_true', decide_eq_false_iff_not, decide_eq_true_eq, ← imp_iff_not_or]

theorem PlanTable.admission_eq_admits {t : PlanTable} {budget : Nat} {owner : Address} {c : ChannelId} {start : Slot}
    {length rating : Nat} (present : t.peers[owner].present = true) (fits : t.fits budget owner c start length rating = true) :
    t.admission budget owner c start length rating = .admits :=
  if_pos (by rw [present, fits]; rfl)

/-! ## The candidates -/

/-- The scan, which adds modulo 64 to its origin, counts on from 2 × own address + 5 × channel. -/
theorem PlanTable.scan_eq (owner : Address) (c : ChannelId) :
    (allSlots.map fun i => origin owner c + i)
      = (List.range 64).map fun i => Fin.ofNat 64 (2 * owner.val + 5 * c.val + i) := by
  rw [← List.map_coe_finRange_eq_range, List.map_map]
  refine List.map_congr_left fun i _ => Fin.ext ?_
  simp only [origin, Fin.val_add, Fin.val_ofNat, Function.comp_apply, Nat.mod_add_mod]

/-- The old start comes first, where there is an old holding. -/
theorem PlanTable.candidates_eq (t : PlanTable) (owner : Address) (c : ChannelId) :
    t.candidates owner c
      = match t.find owner c with
        | some h => h.start :: (List.range 64).map fun i => Fin.ofNat 64 (2 * owner.val + 5 * c.val + i)
        | none => (List.range 64).map fun i => Fin.ofNat 64 (2 * owner.val + 5 * c.val + i) := by
  unfold PlanTable.candidates
  rw [scan_eq]
  cases t.find owner c with
  | none => rfl
  | some h => rfl

/-- The scan alone comes by every start: a start lies as far behind the origin as their difference modulo 64. -/
theorem PlanTable.mem_candidates (t : PlanTable) (owner : Address) (c : ChannelId) (start : Slot) :
    start ∈ t.candidates owner c :=
  List.mem_append_right _
    (List.mem_map.2 ⟨start - origin owner c, List.mem_finRange _, add_sub_cancel (origin owner c) start⟩)

/-! ## The engine's answer -/

theorem PlanTable.place_eq_some_iff (t : PlanTable) (budget : Nat) (own : Address) (c : ChannelId) (length rating : Nat)
    (start : Slot) :
    t.place budget own c length rating = some start
      ↔ t.fits budget own c start length rating = true
        ∧ ∃ before after, t.candidates own c = before ++ start :: after
          ∧ ∀ x ∈ before, ¬t.fits budget own c x length rating = true := by
  simp only [PlanTable.place, List.find?_eq_some_iff_append, Bool.not_eq_true', Bool.not_eq_true]

theorem PlanTable.place_eq_none_iff (t : PlanTable) (budget : Nat) (own : Address) (c : ChannelId) (length rating : Nat) :
    t.place budget own c length rating = none ↔ ∀ start, ¬t.fits budget own c start length rating = true :=
  List.find?_eq_none.trans ⟨fun none_fits start => none_fits start (t.mem_candidates own c start), fun h start _ => h start⟩

/-- Settles O46: the answer is the first of the candidates to pass the fit test, and every start is a candidate. -/
theorem placementTakesTheFirstFit : Obligations.PlacementTakesTheFirstFit := by
  unfold Obligations.PlacementTakesTheFirstFit
  intro t budget own c length rating fit scanned tried
  have fit_iff : ∀ start, t.fits budget own c start length rating = true ↔ fit start :=
    fun start => t.fits_iff budget own c start length rating
  have tried_eq : t.candidates own c = tried := t.candidates_eq own c
  refine ⟨fun start placed => ?_, ?_, fun start placed present => ?_⟩
  · obtain ⟨fits, before, after, split, rejected⟩ := (t.place_eq_some_iff budget own c length rating start).1 placed
    exact ⟨before, after, tried_eq ▸ split, (fit_iff start).1 fits, fun x hx => mt (fit_iff x).2 (rejected x hx)⟩
  · rw [t.place_eq_none_iff]
    exact forall_congr' fun start => not_congr (fit_iff start)
  · exact PlanTable.admission_eq_admits present ((t.place_eq_some_iff budget own c length rating start).1 placed).1

end Sys2Proof.Machine
end

section
/-! Channels, queue and plan do not stay in agreement. `DriversLawful` says of a pulse that has begun only that the station is attached
with sync-acquired set, not that SYNC had been high for its 16 bit times (R51). At such a state SYNC_EDGE ends the frame of an own
message that commits together with the fall (`fallWith`), but the fall is not valid (`takeFall`), so that the attempt is never reported:
the transmission goes on with no frame. -/

namespace Sys2Proof.Machine

open Sys2Proof.Tests

/-- The own ROLLCALL. -/
def ownRollcall : Message := .rollcall 5

/-- An order of the events of an edge that hands the own ROLLCALL over first. -/
def rollcallHandedFirst : List EdgePart :=
  handed (.committed ownRollcall false) ++ EdgePart.usualOrder

/-- Station 5 JOINED with an empty plan, its ROLLCALL on the wire up to the commit point, and its SYNC pulse begun on a line that has
not been high for 16 bit times. -/
def pulsingEarly : State :=
  let s := at' .joined .window (planOf [5] [])
  { s with
    lines := { LineInterface.reset with syncDriving := true, dataDriving := true }
    engine :=
      { MessageEngine.reset with
        framing := .frame, frame := some { read := [], elapsed := 17 * 512 }, transmission := .driving
        request := some .rollcall }
    sched :=
      { queue := [{ request := .rollcall, onWire := true, cancel := false }]
        composed := some { request := .rollcall, message := ownRollcall, target := 0, station := .joined }, voids := 0 }
    pending := [.syncEdge 0 rollcallHandedFirst] }

theorem pulsingEarly_plan_lawful :
    pulsingEarly.table.Lawful ∧ pulsingEarly.table.WithinBudget pulsingEarly.cfg.budget ∧ pulsingEarly.table.InRange
      ∧ pulsingEarly.table.OwnersPresent ∧ pulsingEarly.table.AgesWithin pulsingEarly.expiry := by
  have empty : pulsingEarly.table.plan = [] := rfl
  refine ⟨⟨empty ▸ List.Pairwise.nil, ?_⟩, ?_, ?_, ?_, ?_⟩
  · unfold PlanTable.sumAt PlanTable.countAt; decide
  · unfold PlanTable.WithinBudget; decide
  · intro h hh; simp [empty] at hh
  · intro h hh; simp [empty] at hh
  · unfold PlanTable.AgesWithin; decide

theorem pulsingEarly_station_lawful :
    pulsingEarly.Configured ∧ pulsingEarly.AttachedRuns ∧ pulsingEarly.DetachedIdle ∧ pulsingEarly.DriversLawful
      ∧ pulsingEarly.UnconfiguredAtReset ∧ pulsingEarly.HeldUnconfigured := by
  refine ⟨fun _ => ?_, fun _ => by decide, fun h => absurd h (by decide), by unfold State.DriversLawful; decide,
    fun h => absurd h (by decide), fun h => absurd h (by decide)⟩
  unfold Configuration.Valid
  decide

theorem pulsingEarly_queue_lawful :
    pulsingEarly.sched.Lawful ∧ pulsingEarly.WireLawful ∧ pulsingEarly.QueueKindsLawful := by
  refine ⟨?_, ⟨_, rfl, rfl, by decide⟩, trivial⟩
  unfold Scheduler.Lawful
  decide

theorem pulsingEarly_channel (c : ChannelId) :
    pulsingEarly.channels[c] = if c = 3 then { Channel.reset with state := .idle, rating := 40 } else .reset := by
  revert c; decide

theorem pulsingEarly_channels_lawful :
    pulsingEarly.ChannelsLawful ∧ pulsingEarly.SpansInPlan ∧ pulsingEarly.SpansWhereHeld := by
  have none_held : ∀ c : ChannelId, pulsingEarly.channels[c].span = none := by
    intro c; rw [pulsingEarly_channel]; split <;> rfl
  have no_entry : ∀ c : ChannelId, pulsingEarly.entriesOf c = [] := fun c => rfl
  refine ⟨fun c => ?_, fun c => none_held c, fun _ => none_held⟩
  unfold State.ChannelStateLawful
  rw [no_entry, pulsingEarly_channel]
  split
  · exact ⟨by simp [Channel.Lawful, Channel.reset, Config.greatestDemand], rfl, rfl, rfl⟩
  · exact ⟨by simp [Channel.Lawful, Channel.reset, Config.greatestDemand], rfl⟩

theorem pulsingEarly_composed_lawful : pulsingEarly.ComposedLawful ∧ pulsingEarly.AnnounceWaits := by
  refine ⟨?_, ?_⟩
  · rintro k ⟨⟩
    exact ⟨by decide, by decide, trivial⟩
  · unfold State.AnnounceWaits
    decide

/-- Refutes O58: at `pulsingEarly` the step drops the report of the own attempt, so that a message is sent with no frame. -/
theorem not_channelsQueueAndPlanStayInAgreement : ¬ Obligations.ChannelsQueueAndPlanStayInAgreement := by
  unfold Obligations.ChannelsQueueAndPlanStayInAgreement
  intro h
  obtain ⟨p1, p2, p3, p4, p5⟩ := pulsingEarly_plan_lawful
  obtain ⟨s1, s2, s3, s4, s5, s6⟩ := pulsingEarly_station_lawful
  obtain ⟨q1, q2, q3⟩ := pulsingEarly_queue_lawful
  obtain ⟨c1, c2, c3⟩ := pulsingEarly_channels_lawful
  obtain ⟨k1, k2⟩ := pulsingEarly_composed_lawful
  obtain ⟨-, -, -, -, -, -, -, -, ⟨-, sending, -⟩, -⟩ :=
    h pulsingEarly (nextOf (step pulsingEarly))
      ⟨p1, p2, p3, p4, p5, s1, s2, s3, s4, q1, q2, q3, c1, c2, c3, k1, k2, s5, s6⟩ rfl
  have driving : (nextOf (step pulsingEarly)).engine.transmission = .driving := rfl
  have gap : (nextOf (step pulsingEarly)).engine.framing = .gap := rfl
  have framed := (sending (by rw [driving]; decide)).2
  rw [gap] at framed
  exact absurd framed (by decide)

end Sys2Proof.Machine
end

section
/-! What can befall the part in a step, said once: `Outside` lists what the outside world does to it in any state, `Change` the single
changes of an instant, `Passing` the ways in which time passes, and `EdgeChange` the blocks' parts of a SYNC edge. `step_moves` takes
every step apart into them. A law that each of them keeps is then kept by every step. -/

namespace Sys2Proof.Machine

/-! ## Settling and the plan table do not depend on one another -/

/-- Settling a channel depends on the queue, the channels and the station alone, and changes queue and channels alone. -/
theorem settle_of_eq {s u : State} (c : ChannelId) (hq : u.sched.queue = s.sched.queue) (hc : u.channels = s.channels)
    (hs : u.station = s.station) :
    settle c u
      = { u with
          sched := { u.sched with queue := (settle c s).sched.queue }
          channels := (settle c s).channels } := by
  obtain ⟨i, cfg, table, timer, lines, engine, ⟨q, composed, voids⟩, chs, drive, station, port, pending⟩ := u
  dsimp only at hq hc hs
  subst hq hc hs
  rw [settle_eq, settle_eq c s]
  dsimp only
  unfold placeRequest
  repeat' split
  all_goals rfl

/-- The loss of a holding at its channel does not depend on the plan table. -/
theorem loseHolding_withTable (b : Bool) (c : ChannelId) (s : State) (t : PlanTable) :
    loseHolding b c { s with table := t } = { loseHolding b c s with table := t } := by
  have settled : ∀ u : State, settle c { u with table := t } = { settle c u with table := t } := by
    intro u
    have e : settle c u = _ := settle_of_eq (s := u) c rfl rfl rfl
    have f : settle c { u with table := t } = _ := settle_of_eq (s := u) c rfl rfl rfl
    rw [f, e]
  let lost (ch : Channel) : Channel := { ch with span := none, held := 0, evicted := true }
  unfold loseHolding
  by_cases used : s.channels[c].state = .unused
  · simp only [clearDrive_channels, used, if_true]
    rfl
  · simp only [clearDrive_channels, used, if_false]
    cases b with
    | false => exact settled ((clearDrive c s).mapChannel c lost)
    | true => exact settled (post .channelEvicted (.channel c) ((clearDrive c s).mapChannel c lost))

/-- Some losses of holdings at their channels, one after the other; the flag says whether by eviction. -/
def loseEach (ls : List (Bool × ChannelId)) (s : State) : State := ls.foldl (fun s l => loseHolding l.1 l.2 s) s

theorem loseEach_append (l m : List (Bool × ChannelId)) (s : State) : loseEach (l ++ m) s = loseEach m (loseEach l s) :=
  List.foldl_append

theorem loseEach_withTable (ls : List (Bool × ChannelId)) (s : State) (t : PlanTable) :
    loseEach ls { s with table := t } = { loseEach ls s with table := t } := by
  induction ls generalizing s with
  | nil => rfl
  | cons l ls ih =>
    rw [loseEach, List.foldl_cons, loseHolding_withTable]
    exact ih _

/-- The plan table that eviction leaves. -/
def PlanTable.evicted (budget : Nat) (t : PlanTable) : PlanTable :=
  (t.evictions budget t.plan.length).foldl PlanTable.remove t

theorem evict_table (s : State) : (evict s).table = s.table.evicted s.cfg.budget := by
  rw [evict_eq_evictEach, evictEach_table]
  rfl

theorem evictEach_eq_loseEach (hs : List Holding) (s : State) :
    ∃ ls, evictEach hs s = loseEach ls { s with table := hs.foldl PlanTable.remove s.table } := by
  induction hs generalizing s with
  | nil => exact ⟨[], rfl⟩
  | cons h hs ih =>
    obtain ⟨ls, e⟩ := ih (evictOne h s)
    rw [evictOne_table] at e
    by_cases own : h.owner = s.cfg.address
    · refine ⟨(true, h.channel) :: ls, e.trans (congrArg (loseEach ls) ?_)⟩
      have first := loseHolding_withTable true h.channel s (s.table.remove h)
      have last := loseHolding_withTable true h.channel s ((h :: hs).foldl PlanTable.remove s.table)
      rw [evictOne_of_own own, first]
      exact last.symm
    · exact ⟨ls, e.trans (by rw [evictOne_of_other own]; rfl)⟩

/-- Eviction is one change of the plan table, and then the losses of own holdings at their channels. -/
theorem evict_eq_loseEach (s : State) :
    ∃ ls, evict s = loseEach ls { s with table := s.table.evicted s.cfg.budget } := by
  obtain ⟨ls, e⟩ := evictEach_eq_loseEach s.evictions s
  exact ⟨ls, (evict_eq_evictEach s).trans e⟩

/-- The plan table after the expiry of a record (R35). -/
def PlanTable.expired (expiry : Nat) (t : PlanTable) (a : Address) : PlanTable :=
  (t.setPeer a { t.peers[a] with present := false, age := expiry }).removeOwner a

theorem expireRecords_eq_loseEach (as : List Address) (s : State) :
    ∃ ls, as.foldl (fun s a => expireRecord a s) s
      = loseEach ls { s with table := as.foldl (PlanTable.expired s.expiry) s.table } := by
  induction as generalizing s with
  | nil => exact ⟨[], rfl⟩
  | cons a as ih =>
    have cfg : (expireRecord a s).cfg = s.cfg := by simp
    have expiry : (expireRecord a s).expiry = s.expiry := by unfold State.expiry; rw [cfg]
    have first : ∃ ls, expireRecord a s = loseEach ls { s with table := s.table.expired s.expiry a } := by
      unfold expireRecord
      dsimp only
      split
      · refine ⟨(s.table.holdingsOf a).map fun h => (false, h.channel), ?_⟩
        rw [loseEach, List.foldl_map]
        rfl
      · exact ⟨[], rfl⟩
    obtain ⟨ms, e⟩ := ih (expireRecord a s)
    obtain ⟨ls, f⟩ := first
    have table : (expireRecord a s).table = s.table.expired s.expiry a := expireRecord_table a s
    refine ⟨ls ++ ms, ?_⟩
    rw [List.foldl_cons, e, loseEach_append, expiry, table, f, ← loseEach_withTable, List.foldl_cons]

/-! ## The void of an attempt -/

/-- A void counts below 8, and TX_OBJECTED is posted when the counter reaches 8 (R97). -/
theorem countVoid_eq (cause : Cause) (s : State) :
    countVoid cause s
      = { s with
          sched := { s.sched with voids := if s.sched.voids < 8 then s.sched.voids + 1 else s.sched.voids }
          port :=
            if s.sched.voids = 7 then s.port.post ⟨.txObjected, .cause cause, s.timer.cycleCounter⟩ else s.port } := by
  unfold countVoid Config.voidLimit
  dsimp only
  by_cases below : s.sched.voids < 8
  · by_cases last : s.sched.voids = 7
    · rw [if_pos below, if_pos below, if_pos last, if_pos (by omega)]
      rfl
    · rw [if_pos below, if_pos below, if_neg last, if_neg (by omega)]
  · rw [if_neg below, if_neg below, if_neg (by omega)]

/-- The count of a void and the end of its attempt fall in either order. -/
theorem reportVoid_eq (cause : Cause) (s : State) : reportVoid cause s = endAttempt (countVoid cause s) := by
  have told : ∀ (c : Option ChannelId) (u : State), countVoid cause (tellChannel c u) = tellChannel c (countVoid cause u) := by
    intro c u
    cases c with
    | none => rfl
    | some c =>
      let left (ch : Channel) : Channel := if ch.state = .inFlight then { ch with state := .waiting } else ch
      have before : settle c (u.mapChannel c left) = _ := settle_of_eq (s := u.mapChannel c left) c rfl rfl rfl
      have after : settle c ((countVoid cause u).mapChannel c left) = _ :=
        settle_of_eq (s := u.mapChannel c left) c (by simp) (by simp [State.mapChannel]) (by simp)
      show countVoid cause (settle c (u.mapChannel c left)) = settle c ((countVoid cause u).mapChannel c left)
      rw [after, before, countVoid_eq, countVoid_eq]
      rfl
  unfold reportVoid endAttempt
  dsimp only
  rw [told, countVoid_eq, countVoid_eq]
  rfl

end Sys2Proof.Machine
end

section
/-! What can befall the part in a step, said once: `Outside` lists what the outside world does to it in any state, `Change` the single
changes of an instant, `Passing` the ways in which time passes, and `EdgeChange` the blocks' parts of a SYNC edge. `step_cases` takes
every step apart into them. A law that each of them keeps is then kept by every step. -/

namespace Sys2Proof.Machine

/-! ## The changes of single blocks -/

/-- The plan and the peer table, by one event of the Plan Table with its eviction. -/
inductive PlanTable.Revision (cfg : Configuration) (t : PlanTable) : PlanTable → Prop
  | announce (a : Address) (cycleAge : BitVec 16) {entries : List WireEntry} (rated : ∀ e ∈ entries, e.rating ≠ 0) :
      Revision cfg t
        (((t.overwrite a entries).setPeer a { present := true, age := 0, cycleAge := cycleAge }).evicted cfg.budget)
  | claim {a : Address} (c : ChannelId) {e : WireEntry} (rated : e.rating ≠ 0) (present : t.peers[a].present = true) :
      Revision cfg t ((t.insert (holdingOf a c e)).evicted cfg.budget)
  | release (a : Address) (c : ChannelId) : Revision cfg t ((t.removeKey a c).evicted cfg.budget)
  | expire (as : List Address) :
      Revision cfg t ((as.foldl (PlanTable.expired (3 * cfg.interval)) t).evicted cfg.budget)
  | cycle {as : List Address}
      (due : ∀ a : Address, t.agePeers.peers[a].present = true → 3 * cfg.interval ≤ t.agePeers.peers[a].age → a ∈ as) :
      Revision cfg t ((as.foldl (PlanTable.expired (3 * cfg.interval)) t.agePeers).evicted cfg.budget)

/-- The transmit queue and the records of an attempt, where nothing joins the queue. -/
inductive Scheduler.Sheds (q : Scheduler) : Scheduler → Prop
  | remove {p : Request → Bool} (removable : ∀ r, p r = true → r.removable = true) :
      Sheds q { q with queue := removeEntries p q.queue }
  | withdraw (p : QueueEntry → Bool) : Sheds q { q with queue := q.queue.filter p }
  | endAttempt : Sheds q { q with queue := returnEntry q.queue, composed := none }
  | keepEntry : Sheds q { queue := returnEntry q.queue, composed := none, voids := 0 }
  | resolve : Sheds q { queue := resolveEntry q.queue, composed := none, voids := 0 }

/-- The local port, by the byte machine and chip select, in any station state. -/
inductive LocalPort.Handles (p : LocalPort) : LocalPort → Prop
  | fall (high : p.selectLow = false) (ready : p.ready = true) :
      Handles p { p with selectLow := true, phase := .command, received := [], reply := [], replyPosition := 0 }
  | fallUnready (high : p.selectLow = false) (unready : p.ready = false) : Handles p { p with selectLow := true }
  | rise : Handles p { p with selectLow := false, phase := .none, pendingRemoval := false }
  | receive (taking : p.phase = .command ∨ p.phase = .arguments) (bytes : List Byte) {phase : Phase}
      (still : phase = .command ∨ phase = .arguments) : Handles p { p with received := bytes, phase := phase }
  | respond (taking : p.phase = .command ∨ p.phase = .arguments) (bytes : List Byte) :
      Handles p { p with phase := .reply, reply := bytes, replyPosition := 0 }
  | event (taking : p.phase = .command ∨ p.phase = .arguments) {r : EventRecord} {rest : List EventRecord}
      (head : p.events = r :: rest) :
      Handles p { p with phase := .reply, reply := statusOk :: r.bytes, replyPosition := 0, pendingRemoval := true }
  | shift (replying : p.phase = .reply) (position : Nat) (s : State) (port : s.port = p) :
      Handles p (shiftTo position s).port

/-! ## What the outside world does in any state -/

/-- The valid CONFIG at a part in UNCONFIGURED, which enters LISTEN (R134). -/
def State.configuredTo (a : ConfigArgs) (s : State) : State :=
  awaitSync
    { setStation .listen .config
        (startTimer
          { s with
            cfg := configurationOf a
            channels := Vector.ofFn fun c => s.channels[c].configure a.ratings[c].toNat
            lines := { s.lines with syncHighTime := 0, syncLowTime := 0, dominantTime := 0 }
            port := { s.port with mask := a.mask } }) with
      table := .reset }

/-- What can befall the part in every state, UNCONFIGURED included. -/
inductive Outside (s : State) : State → Prop
  | fallSync (hold : Nat) : Outside s (fallSync hold s)
  | fallData (hold : Nat) : Outside s (fallData hold s)
  | holdSync (low : s.lines.syncLow = true) (n : Nat) : Outside s { s with lines := { s.lines with syncHold := n } }
  | holdData (dominant : s.lines.dataDominant = true) (n : Nat) :
      Outside s { s with lines := { s.lines with dataHold := n } }
  | port {p : LocalPort} (h : s.port.Handles p) : Outside s { s with port := p }
  | ready (released : s.heldInReset = false) : Outside s { s with port := { s.port with ready := true } }
  | configure (a : ConfigArgs) (unconfigured : s.station.state = .unconfigured) (valid : configCheck a = 0)
      (taking : s.port.phase ≠ .none) : Outside s (s.configuredTo a)

/-! ## The changes of an instant -/

/-- The part is in UNCONFIGURED, FAULT or HALT, with all that these states leave at rest. -/
def State.Idle (s : State) : Prop := s.station.state.attached = false ∧ s.DetachedIdle

/-- The single changes of an instant, each with what the model has tested before it. -/
inductive Change (s : State) : State → Prop
  | outside {t : State} (h : Outside s t) : Change s t
  | revise {t : PlanTable} (h : s.table.Revision s.cfg t) (rests : s.Idle → t = s.table) : Change s { s with table := t }
  | ageOwn (state : s.station.state = .joined ∨ s.station.state = .resync) : Change s (ageOwnToInterval s)
  | shed {q : Scheduler} (h : s.sched.Sheds q) : Change s { s with sched := q }
  | offer (r : Request) (may : holds s.sched.queue r = true ∨ s.station.state.attached = true) : Change s (offer r s)
  | countVoid (cause : Cause) (attempt : s.engine.transmission ≠ .none) : Change s (countVoid cause s)
  | channels {v : Vector Channel 12} (rating : ∀ c : ChannelId, v[c].rating = s.channels[c].rating)
      (used : ∀ c : ChannelId, v[c].state = .unused → s.channels[c].state = .unused) : Change s { s with channels := v }
  | post (kind : EventKind) (subject : Subject) : Change s (post kind subject s)
  | clearDrive (c : ChannelId) : Change s (clearDrive c s)
  | drive (pulls : Bool) (k : Composed) (framed : s.engine.framing = .frame) :
      Change s
        { s with
          lines := { s.lines with dataDriving := pulls }
          engine := { s.engine with transmission := .driving, request := some k.request }
          sched := { s.sched with queue := markOnWire k.request s.sched.queue, composed := some k } }
  | endTransmission : Change s (endTransmission s)
  | stopDriving (attempt : s.engine.transmission ≠ .none) : Change s (stopDriving s)
  | fault {cause : Cause} (attached : s.station.state.attached = true) (stuck : cause ∈ StationState.fault.causes) :
      Change s (shutDown .fault cause s)
  | halt {cause : Cause} (clash : cause ∈ StationState.halt.causes) : Change s (shutDown .halt cause s)
  | quiet (leaving : s.station.state = .leaving) :
      Change s
        { clearAllDrive (setStation .quiet .closed s) with
          station := { (setStation .quiet .closed s).station with quietStale := false }
          sched := { s.sched with queue := [] }
          channels := s.channels.map Channel.unspan }
  | recover (fault : s.station.state = .fault) :
      Change s (awaitSync { setStation .listen .recovery (startTimer s) with table := .reset })
  | listen (quiet : s.station.state = .quiet) : Change s (awaitSync { setStation .listen .stale s with table := .reset })
  | join {cause : Cause} (ends : s.windowOpen = true ∨ s.station.state = .quiet) (lawful : cause ∈ StationState.joined.causes) :
      Change s (setStation .joined cause s)
  | leave (joined : s.station.state = .joined) : Change s (setStation .leaving .request s)
  | divert {cause : Cause} (state : s.station.state = .joined ∨ s.station.state = .leaving)
      (lawful : cause ∈ StationState.resync.causes) :
      Change s (awaitSync { setStation .resync cause s with table := s.table.keepOwn s.cfg.address })
  | traffic (window : s.windowOpen = true) : Change s { s with station := { s.station with traffic := true } }
  | rollcall (window : s.windowOpen = true) : Change s { s with station := { s.station with rollcall := .thisCycle } }
  | stale (quiet : s.station.state = .quiet) : Change s { s with station := { s.station with quietStale := true } }
  | openFrame (idle : s.engine.framing = .idle) : Change s (openFrame s)
  | alignGap (gap : s.engine.framing = .gap) :
      Change s { alignEnd s with engine := { (alignEnd s).engine with recessiveTime := 0 } }
  | alignFrame : Change s (alignFrame s)
  | readMessage (m : Message) (check : BitVec 8) (object : Bool) (framed : s.engine.framing = .frame) :
      Change s (readMessage m check object s)
  | endFrame (framed : s.engine.framing = .frame) : Change s (endFrame s)
  | judge (driving : Bool) (verdict : Option Verdict) (framed : s.engine.framing = .frame) :
      Change s
        { s with
          lines := { s.lines with dataDriving := driving }, engine := { s.engine with verdict := verdict } }
  | becomeIdle (gap : s.engine.framing = .gap) : Change s (becomeIdle s)
  | startPulse (due : s.pulseDue = true) : Change s (startPulse s)
  | acquire (running : s.timer.running = true) : Change s { s with timer := { s.timer with syncAcquired := true } }
  | releaseSync : Change s { s with lines := { s.lines with syncDriving := false, pulseTime := 0 } }

/-- Some changes of an instant, one after the other. -/
def Changes (s t : State) : Prop := Relation.ReflTransGen Change s t

theorem Changes.refl {s : State} : Changes s s := Relation.ReflTransGen.refl

theorem Changes.of {s t : State} (h : Change s t) : Changes s t := Relation.ReflTransGen.single h

theorem Changes.trans {s t u : State} (h : Changes s t) (g : Changes t u) : Changes s u := Relation.ReflTransGen.trans h g

/-! ## The SYNC edge -/

/-- The hand-offs that can stand among the events of an edge. -/
inductive HandOffs.Arises : HandOffs → Prop
  | none : Arises .none
  | objected : Arises .objected
  | handOver {m : Message} (acceptable : m.unacceptable = false) (own : Bool) (verdict : Option Verdict) (refused : Bool)
      (s : State) : Arises (handOver m own verdict refused s)

/-- The engine's part of an edge but for the void of an attempt: a message is framed no longer (R64, R77). -/
def dropFrame (s : State) : State :=
  { s with
    lines := { s.lines with dataDriving := false }
    engine :=
      { s.engine with
        framing := .gap, recessiveTime := 0, ending := none, frame := none, objection := none, verdict := none } }

/-- The single changes of a SYNC edge. -/
inductive EdgeChange (s : State) : State → Prop
  | change {t : State} (h : Change s t) : EdgeChange s t
  | timer (running : s.timer.running = true) : EdgeChange s (edgeTimer s)
  | drive : EdgeChange s (edgeDrive s)
  | engine (on : s.engine.framing ≠ .off) : EdgeChange s (dropFrame s)
  | openWindow (state : s.station.state = .listen ∨ s.station.state = .resync) (closed : s.station.opened = false) :
      EdgeChange s (openWindow s)
  | nextCycle (window : s.windowOpen = true) (goes : s.station.count + 1 < s.expiry) :
      EdgeChange s (continueWindow { s with station := { s.station with count := s.station.count + 1 } })

/-- Some changes of an edge, one after the other. -/
def EdgeChanges (s t : State) : Prop := Relation.ReflTransGen EdgeChange s t

theorem EdgeChanges.refl {s : State} : EdgeChanges s s := Relation.ReflTransGen.refl

theorem EdgeChanges.of {s t : State} (h : EdgeChange s t) : EdgeChanges s t := Relation.ReflTransGen.single h

theorem EdgeChanges.trans {s t u : State} (h : EdgeChanges s t) (g : EdgeChanges t u) : EdgeChanges s u := Relation.ReflTransGen.trans h g

/-! ## The passing of time, and the step -/

/-- The ways in which time passes. -/
inductive Passing (s : State) : State → Prop
  | advance (d : Nat) : Passing s (advance d s)
  | inMessage (d : Nat) : Passing s (advanceInMessage d s)
  | toSlot (ahead : s.slotAhead = true) : Passing s (startSlot (elapse (s.nextBoundary - s.timer.localTime) s))

/-- The state is not that of an idle part before CONFIG. -/
def State.Live (s : State) : Prop := s.station.state = .unconfigured → ¬s.DetachedIdle

/-- The hand-offs that stand in an order: but for a commit they are none, or those of an objected message. -/
def HandOffs.Fits (h : HandOffs) (order : List EdgePart) : Prop :=
  h = .none ∨ h = .objected ∨ ∃ m refused, EdgePart.outcomeIn order = some (.committed m refused)

/-- What befalls the part as one event after the other. -/
inductive Move (s : State) : State → Prop
  | outside {t : State} (h : Outside s t) : Move s t
  | passing {t : State} (h : Passing s t) : Move s t
  | live (live : s.Live) {t : State} (h : Changes s t) : Move s t
  | edge (running : s.timer.running = true) (hold : Nat) {order : List EdgePart} (allowed : EdgePart.orderAllowed order = true)
      {h : HandOffs} (arises : h.Arises) (fits : h.Fits order) : Move s (validEdge order h (fallSync hold s))

/-- Some moves, one after the other. -/
def Moves (s t : State) : Prop := Relation.ReflTransGen Move s t

theorem Moves.refl {s : State} : Moves s s := Relation.ReflTransGen.refl

theorem Moves.of {s t : State} (h : Move s t) : Moves s t := Relation.ReflTransGen.single h

theorem Moves.trans {s t u : State} (h : Moves s t) (g : Moves t u) : Moves s u := Relation.ReflTransGen.trans h g

end Sys2Proof.Machine
end

section
/-! Every operation of the model, taken apart into the changes that `Change`, `Passing` and `EdgeChange` list. -/

namespace Sys2Proof.Machine

/-! ## Building chains of changes -/

/-- Changes that a condition guards. -/
theorem Changes.guard {p : Prop} [Decidable p] {s t : State} (h : p → Changes s t) : Changes s (if p then t else s) := by
  split
  · next hp => exact h hp
  · exact .refl

theorem Changes.ite {p : Prop} [Decidable p] {s t u : State} (h : p → Changes s t) (g : ¬p → Changes s u) :
    Changes s (if p then t else u) := by
  split
  · next hp => exact h hp
  · next hp => exact g hp

theorem Changes.foldl {α : Type} {f : State → α → State} (h : ∀ s a, Changes s (f s a)) (as : List α) (s : State) :
    Changes s (as.foldl f s) := by
  induction as generalizing s with
  | nil => exact .refl
  | cons a as ih => exact (h s a).trans (ih _)

/-- One channel record changes; its rating stays, and a used channel stays used. -/
theorem Changes.mapChannel {s : State} {c : ChannelId} {f : Channel → Channel} (rating : (f s.channels[c]).rating = s.channels[c].rating)
    (used : (f s.channels[c]).state = .unused → s.channels[c].state = .unused) : Changes s (s.mapChannel c f) := by
  refine .of (.channels (v := (s.mapChannel c f).channels) (fun d => ?_) (fun d => ?_)) <;>
  · rw [mapChannel_get]
    by_cases e : d = c
    · subst e; rwa [if_pos rfl]
    · rw [if_neg e] <;> exact id

/-! ## The transmit queue and the channels -/

theorem placeRequest_changes (r : Request) (c : ChannelId) (s : State) : Changes s (placeRequest r c s) := by
  have queued (r : Request) (h : s.station.state.mayQueue r = true) : s.station.state.attached = true := by
    cases r <;> revert h <;> cases s.station.state <;> simp [StationState.mayQueue, StationState.attached]
  unfold placeRequest
  split
  · next may =>
    rw [Bool.or_eq_true] at may
    exact (Changes.of (.offer r (may.imp_right (queued r)))).trans (.mapChannel rfl nofun)
  · exact (Changes.of (.shed (.withdraw _))).trans (.mapChannel rfl nofun)

theorem settle_changes (c : ChannelId) (s : State) : Changes s (settle c s) := by
  rw [settle_eq]
  refine .ite (fun _ => .refl) fun _ => .ite (fun _ => placeRequest_changes ..) fun _ =>
    .ite (fun _ => placeRequest_changes ..) fun _ => ?_
  refine (Changes.of (.shed (.withdraw _))).trans (.mapChannel rfl fun h => absurd h ?_)
  dsimp only
  split <;> simp

theorem leaveFlight_changes (c : ChannelId) (s : State) : Changes s (leaveFlight c s) := by
  refine Changes.trans (.mapChannel ?_ ?_) (settle_changes c _) <;> split <;> simp

theorem tellChannel_changes (c : Option ChannelId) (s : State) : Changes s (tellChannel c s) := by
  cases c with
  | none => exact .refl
  | some c => exact leaveFlight_changes c s

theorem settleIfWaiting_changes (c : ChannelId) (s : State) : Changes s (settleIfWaiting c s) := by
  unfold settleIfWaiting
  exact .guard fun _ => settle_changes c s

theorem settleWaiting_changes (s : State) : Changes s (settleWaiting s) :=
  .foldl (f := fun s c => settleIfWaiting c s) (fun s c => settleIfWaiting_changes c s) allChannels s

theorem parkClaims_changes (s : State) : Changes s (parkClaims s) := by
  refine .of (.channels (v := (parkClaims s).channels) (fun c => ?_) (fun c => ?_)) <;>
  · simp only [parkClaims, Fin.getElem_fin, Vector.getElem_ofFn]
    split <;> simp

theorem retryStarved_changes (c : ChannelId) (s : State) : Changes s (retryStarved c s) := by
  unfold retryStarved
  refine .guard fun _ => .ite (fun joined => ?_) fun _ => .mapChannel rfl nofun
  exact (Changes.of (.offer _ (.inr (by rw [joined]; rfl)))).trans (.mapChannel rfl nofun)

theorem freeingNotice_changes (s : State) : Changes s (freeingNotice s) :=
  .foldl (f := fun s c => retryStarved c s) (fun s c => retryStarved_changes c s) allChannels s

/-! ## Losing a holding, eviction and expiry -/

theorem loseHolding_changes (b : Bool) (c : ChannelId) (s : State) : Changes s (loseHolding b c s) := by
  unfold loseHolding
  dsimp only
  refine Changes.trans (.of (.clearDrive c)) (.ite (fun _ => .refl) fun _ => ?_)
  let lost (ch : Channel) : Channel := { ch with span := none, held := 0, evicted := true }
  have reported : Changes (clearDrive c s) ((clearDrive c s).mapChannel c lost) := .mapChannel rfl id
  refine reported.trans (Changes.trans ?_ (settle_changes c _))
  cases b with
  | false => exact .refl
  | true => exact .of (.post _ _)

theorem loseEach_changes (ls : List (Bool × ChannelId)) (s : State) : Changes s (loseEach ls s) :=
  .foldl (f := fun s (l : Bool × ChannelId) => loseHolding l.1 l.2 s) (fun s l => loseHolding_changes l.1 l.2 s) ls s

/-- A change of the plan table with its eviction, its reports and its freeing notice. -/
theorem evictAndFree_changes {s : State} {t : PlanTable} (h : s.table.Revision s.cfg (t.evicted s.cfg.budget))
    (rests : s.Idle → t.evicted s.cfg.budget = s.table) (lost : Bool)
    {tell : State → State} (tells : ∀ s, Changes s (tell s)) (reports : List (Bool × ChannelId)) :
    Changes s (evictAndFree lost tell (loseEach reports { s with table := t })) := by
  have cfg : (loseEach reports { s with table := t }).cfg = s.cfg :=
    foldl_keeps State.cfg _ (fun s l => by simp) reports _
  have table : (loseEach reports { s with table := t }).table = t :=
    foldl_keeps State.table _ (fun s l => by simp) reports _
  have reported := loseEach_withTable reports { s with table := t } (t.evicted s.cfg.budget)
  generalize loseEach reports { s with table := t } = u at *
  have evicted : Changes s (evict u) := by
    obtain ⟨ls, e⟩ := evict_eq_loseEach u
    rw [e, cfg, table]
    have revised : Changes s { u with table := t.evicted s.cfg.budget } :=
      reported ▸ (Changes.of (.revise h rests)).trans (loseEach_changes reports _)
    exact (cfg ▸ revised).trans (loseEach_changes ls _)
  have told := evicted.trans (tells _)
  exact .ite (fun _ => told.trans (freeingNotice_changes _)) fun _ => told

theorem postExpiries_changes (as : List Address) (s : State) : Changes s (as.foldl (fun s a => postExpiry a s) s) :=
  .foldl (fun _ _ => .of (.post _ _)) as s

theorem State.Idle.not_attached {s : State} (h : s.Idle) : s.station.state.attached ≠ true := Bool.eq_false_iff.1 h.1

theorem expireAll_changes (as : List Address) {s : State} (attached : s.station.state.attached = true) :
    Changes s (expireAll as s) := by
  obtain ⟨ls, e⟩ := expireRecords_eq_loseEach as s
  unfold expireAll
  dsimp only
  rw [e]
  exact evictAndFree_changes (.expire as) (fun idle => absurd attached idle.not_attached) _ (postExpiries_changes as) ls

theorem announceDueTest_changes (s : State) : Changes s (announceDueTest s) := by
  refine .guard fun h => .of (.offer _ (.inr ?_))
  simp only [Bool.and_eq_true, Bool.or_eq_true, decide_eq_true_eq] at h
  rcases h.1 with e | e <;> rw [e] <;> rfl

theorem State.Idle.table {s : State} (h : s.Idle) : s.table = .reset := by
  obtain ⟨detached, idle⟩ := h
  obtain ⟨table, -⟩ := idle detached
  exact table

@[simp] theorem PlanTable.reset_peer (a : Address) : PlanTable.reset.peers[a] = .reset := by simp [PlanTable.reset]

theorem PlanTable.agePeers_reset : PlanTable.reset.agePeers = .reset := by
  simp [PlanTable.agePeers, PlanTable.reset, Peer.reset]

/-- An empty plan table that ages stays as it is. -/
theorem State.Idle.dueRecords_aged {s : State} (h : s.Idle) :
    s.table.agePeers = .reset ∧ State.dueRecords { s with table := s.table.agePeers } = [] := by
  have aged : s.table.agePeers = .reset := by rw [h.table, PlanTable.agePeers_reset]
  refine ⟨aged, List.filter_eq_nil_iff.2 fun a _ => ?_⟩
  simp only [aged, PlanTable.reset_peer]
  simp [Peer.reset]

theorem edgePlan_changes (s : State) : Changes s (edgePlan s) := by
  refine Changes.trans ?_ (announceDueTest_changes _)
  let aged : State := { s with table := s.table.agePeers }
  obtain ⟨ls, e⟩ := expireRecords_eq_loseEach aged.dueRecords aged
  show Changes s (expireAll aged.dueRecords aged)
  unfold expireAll
  dsimp only
  rw [e]
  refine evictAndFree_changes (s := s) (.cycle fun a present due => ?_) (fun idle => ?_) _ (postExpiries_changes _) ls
  · refine List.mem_filter.2 ⟨List.mem_finRange a, ?_⟩
    simp only [Bool.and_eq_true, decide_eq_true_eq]
    exact ⟨present, due⟩
  · obtain ⟨reset, none⟩ := idle.dueRecords_aged
    show (aged.dueRecords.foldl _ s.table.agePeers).evicted s.cfg.budget = s.table
    rw [none, reset, idle.table]
    rfl

/-! ## The entries into the station states -/

theorem enterJoined_changes {cause : Cause} {s : State} (ends : s.windowOpen = true ∨ s.station.state = .quiet)
    (lawful : cause ∈ StationState.joined.causes) : Changes s (enterJoined cause s) := by
  have rollcalls : ∀ r, (r == Request.rollcall) = true → r.removable = true := by
    intro r h; rw [eq_of_beq h]; rfl
  let left := (setStation .joined cause s).mapQueue fun q => removeEntries (· == .rollcall) q
  have queued : Changes s (offer .announce left) :=
    (Changes.of (.join ends lawful)).trans ((Changes.of (.shed (.remove rollcalls))).trans
      (.of (.offer .announce (.inr rfl))))
  have settled := queued.trans (settleWaiting_changes _)
  exact settled.trans (.of (.post .joined (.cause cause)))

theorem isClaim_removable (r : Request) (h : r.isClaim = true) : r.removable = true := by
  cases r <;> simp_all [Request.isClaim, Request.removable]

theorem enterResync_changes {cause : Cause} {s : State} (state : s.station.state = .joined ∨ s.station.state = .leaving)
    (lawful : cause ∈ StationState.resync.causes) : Changes s (enterResync cause s) := by
  have diverted : Changes s
      (awaitSync { setStation .resync cause (parkClaims s) with table := s.table.keepOwn s.cfg.address }) :=
    (parkClaims_changes s).trans (.of (.divert (s := parkClaims s) state lawful))
  refine (diverted.trans <| (Changes.of (.shed (.remove isClaim_removable))).trans <|
    (Changes.of (.offer .rollcall (.inr rfl))).trans ?_).trans (.of (.post _ _))
  exact .guard fun _ => settleWaiting_changes _

theorem enterLeaving_changes {s : State} (joined : s.station.state = .joined) : Changes s (enterLeaving s) :=
  (parkClaims_changes s).trans <| (Changes.of (.leave (s := parkClaims s) joined)).trans <|
    (Changes.of (.shed (.remove isClaim_removable))).trans (.of (.offer .announce (.inr rfl)))

theorem enterQuiet_changes {s : State} (leaving : s.station.state = .leaving) : Changes s (enterQuiet s) :=
  (Changes.of (.quiet leaving)).trans (.of (.post _ _))

theorem enterFault_changes {cause : Cause} {s : State} (attached : s.station.state.attached = true)
    (stuck : cause ∈ StationState.fault.causes) : Changes s (enterFault cause s) :=
  (Changes.of (.fault attached stuck)).trans (.of (.post _ _))

theorem enterHalt_changes {cause : Cause} (s : State) (clash : cause ∈ StationState.halt.causes) :
    Changes s (enterHalt cause s) :=
  (Changes.of (.halt clash)).trans (.of (.post _ _))

theorem recover_changes {s : State} (fault : s.station.state = .fault) : Changes s (recover s) :=
  (Changes.of (.recover fault)).trans <| (Changes.of (.offer .rollcall (.inr rfl))).trans (.of (.post _ _))

/-! ## The outcomes of an attempt -/

theorem endAttempt_changes (s : State) : Changes s (endAttempt s) :=
  (Changes.of .endTransmission).trans <| (Changes.of (.shed .endAttempt)).trans (tellChannel_changes ..)

theorem reportVoid_changes (cause : Cause) {s : State} (attempt : s.engine.transmission ≠ .none) :
    Changes s (reportVoid cause s) := by
  rw [reportVoid_eq]
  exact (Changes.of (.countVoid cause attempt)).trans (endAttempt_changes _)

theorem reportObjected_changes (s : State) : Changes s (reportObjected s) :=
  .ite (fun _ => .refl) fun attempt => reportVoid_changes _ attempt

theorem markTraffic_changes (s : State) : Changes s (markTraffic s) := .guard fun window => .of (.traffic window)

/-! ## Message exchange -/

theorem tryClaims_frame (cs : List ChannelId) (s : State) :
    (tryClaims cs s).1.engine = s.engine ∧ (tryClaims cs s).1.lines = s.lines ∧ (tryClaims cs s).1.station = s.station := by
  induction cs generalizing s with
  | nil => exact ⟨rfl, rfl, rfl⟩
  | cons c cs ih =>
    unfold tryClaims
    split
    · exact ⟨rfl, rfl, rfl⟩
    · exact ih _

/-- Selection leaves engine, lines and station alone. -/
theorem selectMessage_frame (s : State) :
    (selectMessage s).1.engine = s.engine ∧ (selectMessage s).1.lines = s.lines ∧ (selectMessage s).1.station = s.station := by
  have claims := tryClaims_frame (s.claims.filter fun c => s.station.state.permits (.claim c)) s
  unfold selectMessage
  split
  · exact ⟨rfl, rfl, rfl⟩
  · split
    · exact ⟨rfl, rfl, rfl⟩
    · split
      · next e => rw [e] at claims; exact claims
      · next e => rw [e] at claims; split <;> exact claims

theorem starve_changes (c : ChannelId) (s : State) : Changes s (starve c s) := by
  have claims : ∀ r, (r == Request.claim c) = true → r.removable = true := by
    intro r h; rw [eq_of_beq h]; rfl
  let starved (ch : Channel) : Channel := { ch with state := .starved, starved := true }
  let left := s.mapQueue fun q => removeEntries (· == .claim c) q
  have marked : Changes left (left.mapChannel c starved) := .mapChannel rfl nofun
  exact (Changes.of (.shed (.remove claims))).trans (marked.trans (.of (.post _ _)))

theorem tryClaims_changes (cs : List ChannelId) (s : State) : Changes s (tryClaims cs s).1 := by
  induction cs generalizing s with
  | nil => exact .refl
  | cons c cs ih =>
    unfold tryClaims
    split
    · exact .refl
    · exact (starve_changes c s).trans (ih _)

theorem selectMessage_changes (s : State) : Changes s (selectMessage s).1 := by
  have claims := tryClaims_changes (s.claims.filter fun c => s.station.state.permits (.claim c)) s
  unfold selectMessage
  split
  · exact .refl
  · split
    · exact .refl
    · split
      · next e => rw [e] at claims; exact claims
      · next e => rw [e] at claims; split <;> exact claims

theorem driveFrame_changes (pulls : Bool) (k : Composed) {s : State} (framed : s.engine.framing = .frame) :
    Changes s (driveFrame pulls k s) := by
  refine (Changes.of (.drive pulls k framed)).trans ?_
  unfold driveFrame
  dsimp only
  cases k.request.channel? with
  | none => exact .refl
  | some c => exact .mapChannel rfl nofun

theorem fallData_changes (hold : Nat) (s : State) : Changes s (fallData hold s) := .of (.outside (.fallData hold))

theorem openFall_changes (hold : Nat) {s : State} (idle : s.engine.framing = .idle) :
    Changes s (openFrame (fallData hold s)) :=
  (fallData_changes hold s).trans (.of (.openFrame idle))

theorem startFrame_changes {s : State} (idle : s.engine.framing = .idle) : Changes s (startFrame s) := by
  have selected := selectMessage_changes s
  obtain ⟨engine, -, -⟩ := selectMessage_frame s
  unfold startFrame
  split
  · next e => rw [e] at selected; exact selected
  · next u k e =>
    rw [e] at selected engine
    exact selected.trans ((openFall_changes 0 ((congrArg MessageEngine.framing engine).trans idle)).trans
      (driveFrame_changes _ _ rfl))

theorem joinFrame_changes (hold : Nat) {s : State} (idle : s.engine.framing = .idle) : Changes s (joinFrame hold s) := by
  have selected := selectMessage_changes (openFrame (fallData hold s))
  obtain ⟨engine, -, -⟩ := selectMessage_frame (openFrame (fallData hold s))
  refine (openFall_changes hold idle).trans ?_
  unfold joinFrame
  dsimp only
  split
  · next e => rw [e] at selected; exact selected
  · next u k e =>
    rw [e] at selected engine
    exact selected.trans (driveFrame_changes _ _ (congrArg MessageEngine.framing engine))

theorem landFall_changes (hold : Nat) (s : State) : Changes s (landFall hold s) := by
  unfold landFall
  split
  · next idle => exact .ite (fun _ => joinFrame_changes hold idle) fun _ => openFall_changes hold idle
  · next gap => exact (fallData_changes hold s).trans (.of (.alignGap (s := fallData hold s) gap))
  · exact (fallData_changes hold s).trans (.of .alignFrame)
  · exact fallData_changes hold s
  · exact fallData_changes hold s

theorem readback_changes (m : Message) (s : State) : Changes s (readback m s) := by
  unfold readback
  split
  · exact .refl
  · next attempt =>
    split
    · exact .refl
    · exact .ite (fun _ => endAttempt_changes s) fun _ => .ite (fun _ => .refl) fun _ => .of (.stopDriving attempt)

@[simp] theorem tellChannel_engine (c : Option ChannelId) (s : State) : (tellChannel c s).engine = s.engine := by simp

/-- The comparison with the wire leaves the framing state and the verdict. -/
theorem readback_framing (m : Message) (s : State) :
    (readback m s).engine.framing = s.engine.framing ∧ (readback m s).engine.verdict = s.engine.verdict := by
  have ended : (reportLost s).engine.framing = s.engine.framing ∧ (reportLost s).engine.verdict = s.engine.verdict := by
    simp [reportLost, endAttempt]
  unfold readback
  split
  · exact ⟨rfl, rfl⟩
  · split
    · exact ⟨rfl, rfl⟩
    · split
      · exact ended
      · split <;> exact ⟨rfl, rfl⟩

end Sys2Proof.Machine
end

section
/-! The commit, the SYNC edge, the local port and the rows, taken apart into moves. -/

namespace Sys2Proof.Machine

/-! ## The commit -/

theorem applyAnnounce_changes (sender : Address) (cycleAge : BitVec 16) {entries : List WireEntry}
    (rated : ∀ e ∈ entries, e.rating ≠ 0) {s : State} (busy : ¬s.Idle) :
    Changes s (applyAnnounce sender cycleAge entries s) := by
  unfold applyAnnounce
  dsimp only
  exact evictAndFree_changes (.announce sender cycleAge rated) (fun idle => absurd idle busy) _ (fun _ => .guard fun _ => .of (.post _ _)) []

theorem applyClaim_changes (sender : Address) (c : ChannelId) {e : WireEntry} (rated : e.rating ≠ 0) {s : State}
    (busy : ¬s.Idle) : Changes s (applyClaim sender c e s) := by
  unfold applyClaim
  dsimp only
  exact .guard fun present => evictAndFree_changes (.claim c rated present) (fun idle => absurd idle busy) _ (fun _ => .refl) []

theorem applyRelease_changes (sender : Address) (c : ChannelId) {s : State} (busy : ¬s.Idle) :
    Changes s (applyRelease sender c s) :=
  evictAndFree_changes (.release sender c) (fun idle => absurd idle busy) _ (fun _ => .refl) []

/-- An acceptable ANNOUNCE or CLAIM gives no rating 0 (R72). -/
theorem Message.rated_of_acceptable {m : Message} (acceptable : m.unacceptable = false) :
    match m with
    | .announce _ _ _ entries => ∀ e ∈ entries, e.rating ≠ 0
    | .claim _ e => e.rating ≠ 0
    | .release _ _ | .rollcall _ => True := by
  cases m with
  | announce sender digest cycleAge entries =>
    simp only [Message.unacceptable, Bool.or_eq_false_iff, List.any_eq_false, Bool.or_eq_true, not_or, beq_iff_eq] at acceptable
    exact fun e he => (acceptable.1.2 e he).2
  | claim sender e =>
    simp only [Message.unacceptable, Bool.or_eq_false_iff, beq_eq_false_iff_ne] at acceptable
    exact acceptable.2
  | release | rollcall => trivial

theorem applyMessage_changes {m : Message} (acceptable : m.unacceptable = false) (refused : Bool) {s : State}
    (busy : ¬s.Idle) : Changes s (applyMessage m refused s) := by
  have rated := Message.rated_of_acceptable acceptable
  cases m with
  | announce => exact applyAnnounce_changes _ _ rated busy
  | release sender channel =>
    unfold applyMessage
    dsimp only
    cases channelOf? channel with
    | none => exact .refl
    | some c => exact applyRelease_changes _ _ busy
  | claim sender e =>
    unfold applyMessage
    dsimp only
    cases channelOf? e.channel with
    | none => exact .refl
    | some c => exact .ite (fun _ => .refl) fun _ => applyClaim_changes _ _ rated busy
  | rollcall =>
    show Changes s (applyRollcall s)
    unfold applyRollcall
    cases e : s.station.state with
    | joined | resync | leaving => exact .of (.offer .announce (.inr (by rw [e]; rfl)))
    | unconfigured | listen | quiet | fault | halt => exact .refl

theorem channelAdmitted_changes (c : ChannelId) (span : Span) (target : Nat) (s : State) :
    Changes s (channelAdmitted c span target s) := by
  let held (ch : Channel) : Channel := { ch with span := some span, held := target }
  have noted : Changes s (s.mapChannel c held) := .mapChannel rfl id
  exact (noted.trans (.of (.post .channelHeld (.channel c)))).trans (leaveFlight_changes c _)

theorem channelReleased_changes (c : ChannelId) (s : State) : Changes s (channelReleased c s) := by
  let gone (ch : Channel) : Channel := { ch with span := none, held := 0 }
  have noted : Changes s (s.mapChannel c gone) := .mapChannel rfl id
  exact noted.trans (leaveFlight_changes c _)

theorem reportCommit_changes (k : Composed) (refused : Bool) (s : State) : Changes s (reportCommit k refused s) := by
  have ended : Changes s (endTransmission s) := .of .endTransmission
  have resolved : Changes s (ownCommitted resolveEntry (endTransmission s)) := ended.trans (.of (.shed .resolve))
  unfold reportCommit
  dsimp only
  split
  · exact resolved.trans (.ite (fun _ => leaveFlight_changes ..) fun _ => channelAdmitted_changes ..)
  · exact resolved.trans (channelReleased_changes ..)
  · refine .ite (fun _ => resolved.trans (.guard fun leaving => enterQuiet_changes leaving)) fun _ => .ite (fun _ => ?_) fun _ => resolved
    exact ended.trans (.of (.shed .keepEntry))
  · exact resolved

theorem reportRefused_changes (s : State) : Changes s (reportRefused s) := by
  unfold reportRefused
  cases e : s.station.state with
  | joined => exact enterResync_changes (.inl e) (by decide)
  | leaving => exact enterResync_changes (.inr e) (by decide)
  | unconfigured | listen | resync | quiet | fault | halt => exact .refl

theorem reportDifference_changes (s : State) : Changes s (reportDifference s) := by
  unfold reportDifference
  cases e : s.station.state with
  | joined => exact enterResync_changes (.inl e) (by decide)
  | leaving => exact enterResync_changes (.inr e) (by decide)
  | quiet => exact .of (.stale e)
  | unconfigured | listen | resync | fault | halt => exact .refl

theorem stationReport_changes (m : Message) (own : Bool) (verdict : Option Verdict) (refused : Bool) (s : State) :
    Changes s (stationReport m own verdict refused s) := by
  cases m with
  | announce => exact markTraffic_changes s
  | release => exact .refl
  | rollcall sender =>
    refine .guard fun h => .of (.rollcall ?_)
    simp only [Bool.and_eq_true] at h
    exact h.1
  | claim sender e =>
    unfold stationReport
    dsimp only
    exact .ite (fun _ => .guard fun _ => reportRefused_changes s) fun _ => .guard fun _ => reportDifference_changes s

/-! ## The hand-offs -/

/-- Eviction and the freeing notice leave what neither the events told between them nor a lost holding can touch. -/
theorem evictAndFree_frame (lost : Bool) {tell : State → State}
    (tells : ∀ s, ∃ port, tell s = { s with port := port }) (s : State) :
    (evictAndFree lost tell s).inputs = s.inputs ∧ (evictAndFree lost tell s).cfg = s.cfg ∧
    (evictAndFree lost tell s).timer = s.timer ∧ (evictAndFree lost tell s).lines = s.lines ∧
    (evictAndFree lost tell s).engine = s.engine ∧ (evictAndFree lost tell s).station = s.station ∧
    (evictAndFree lost tell s).pending = s.pending ∧
    (evictAndFree lost tell s).sched.composed = s.sched.composed ∧ (evictAndFree lost tell s).sched.voids = s.sched.voids := by
  have h := evictAndFree_keeps
    (fun s : State => (s.inputs, s.cfg, s.timer, s.lines, s.engine, s.station, s.pending, s.sched.composed, s.sched.voids)) lost tell s
    (by simp) (fun s => by obtain ⟨port, e⟩ := tells s; rw [e]) (by simp)
  simpa using h

/-- What the Plan Table's event for a committed message leaves as it is. -/
theorem applyMessage_frame (m : Message) (refused : Bool) (s : State) :
    (applyMessage m refused s).inputs = s.inputs ∧ (applyMessage m refused s).cfg = s.cfg ∧
    (applyMessage m refused s).timer = s.timer ∧ (applyMessage m refused s).lines = s.lines ∧
    (applyMessage m refused s).engine = s.engine ∧ (applyMessage m refused s).station = s.station ∧
    (applyMessage m refused s).pending = s.pending ∧
    (applyMessage m refused s).sched.composed = s.sched.composed ∧ (applyMessage m refused s).sched.voids = s.sched.voids := by
  have same : s.inputs = s.inputs ∧ s.cfg = s.cfg ∧ s.timer = s.timer ∧ s.lines = s.lines ∧ s.engine = s.engine ∧
      s.station = s.station ∧ s.pending = s.pending ∧ s.sched.composed = s.sched.composed ∧ s.sched.voids = s.sched.voids := by simp
  unfold applyMessage
  cases m with
  | announce =>
    unfold applyAnnounce
    exact evictAndFree_frame _ (fun s => by split <;> [exact ⟨_, rfl⟩; exact ⟨s.port, rfl⟩]) _
  | release sender channel =>
    dsimp only
    cases channelOf? channel with
    | none => exact same
    | some c => exact evictAndFree_frame _ (fun s => ⟨s.port, rfl⟩) _
  | claim sender e =>
    dsimp only
    cases channelOf? e.channel with
    | none => exact same
    | some c =>
      dsimp only
      split
      · exact same
      · unfold applyClaim
        split
        · exact evictAndFree_frame _ (fun s => ⟨s.port, rfl⟩) _
        · exact same
  | rollcall =>
    dsimp only [applyRollcall]
    split <;> simp

theorem applyMessage_timer (m : Message) (refused : Bool) (s : State) : (applyMessage m refused s).timer = s.timer := by
  obtain ⟨-, -, timer, -⟩ := applyMessage_frame m refused s
  exact timer

theorem reportCommit_timer (k : Composed) (refused : Bool) (s : State) : (reportCommit k refused s).timer = s.timer := by
  unfold reportCommit
  dsimp only
  split
  · split
    · simp
    · simp [channelAdmitted]
  · simp [channelReleased]
  · split
    · split <;> simp
    · split <;> simp
  · simp

theorem stationReport_timer (m : Message) (own : Bool) (verdict : Option Verdict) (refused : Bool) (s : State) :
    (stationReport m own verdict refused s).timer = s.timer := by
  have refusal : (reportRefused s).timer = s.timer := by unfold reportRefused; split <;> simp
  have difference : (reportDifference s).timer = s.timer := by unfold reportDifference; split <;> simp
  cases m with
  | announce => dsimp only [stationReport, markTraffic]; split <;> rfl
  | release => rfl
  | rollcall => dsimp only [stationReport, markRollcall]; split <;> rfl
  | claim =>
    dsimp only [stationReport]
    split
    · split
      · exact refusal
      · rfl
    · generalize (if refused then Verdict.admits else .refuses) = differing
      split
      · exact difference
      · rfl

/-- Each of some hand-offs is made of changes, of which no one but a HALT stops the timer. -/
structure HandOffs.Changing (h : HandOffs) : Prop where
  message : (∀ s, Changes s (h.message s)) ∨ (∀ s, ¬s.Idle → Changes s (h.message s)) ∧ ∀ s, (h.message s).timer = s.timer
  attempt (s : State) : Changes s (h.attempt s)
  station (s : State) : Changes s (h.station s)
  attempt_timer (s : State) : (h.attempt s).timer = s.timer
  station_timer (s : State) : (h.station s).timer = s.timer

theorem State.haltCause_lawful {m : Message} {own : Bool} {s : State} {cause : Cause} (h : s.haltCause m own = some cause) :
    cause ∈ StationState.halt.causes := by
  unfold State.haltCause at h
  split at h
  · cases h; decide
  · cases m with
    | announce => dsimp only at h; split at h <;> cases h; decide
    | release | claim | rollcall => cases h

theorem handOver_attempt (m : Message) (own : Bool) (verdict : Option Verdict) (refused : Bool) (s : State) :
    (handOver m own verdict refused s).attempt = id ∨ ∃ k, (handOver m own verdict refused s).attempt = reportCommit k refused := by
  unfold handOver
  split
  · exact .inl rfl
  · dsimp only
    split
    · next k _ =>
      cases own with
      | false => exact .inl rfl
      | true => exact .inr ⟨k, rfl⟩
    · exact .inl rfl

theorem handOver_changing {m : Message} (acceptable : m.unacceptable = false) (own : Bool) (verdict : Option Verdict) (refused : Bool)
    (s : State) : (handOver m own verdict refused s).Changing := by
  have attempt (t : State) : Changes t ((handOver m own verdict refused s).attempt t)
      ∧ ((handOver m own verdict refused s).attempt t).timer = t.timer := by
    rcases handOver_attempt m own verdict refused s with e | ⟨k, e⟩ <;> rw [e]
    · exact ⟨.refl, rfl⟩
    · exact ⟨reportCommit_changes k refused t, reportCommit_timer k refused t⟩
  refine ⟨?_, fun t => (attempt t).1, fun t => ?_, fun t => (attempt t).2, fun t => ?_⟩
  all_goals unfold handOver; split
  · next e => exact .inl fun t => enterHalt_changes t (State.haltCause_lawful e)
  · exact .inr ⟨fun t => applyMessage_changes acceptable refused, applyMessage_timer m refused⟩
  · exact .refl
  · exact stationReport_changes m own verdict refused t
  · rfl
  · exact stationReport_timer m own verdict refused t

theorem HandOffs.Arises.changing {h : HandOffs} (arises : h.Arises) : h.Changing := by
  have nothing (s : State) : Changes s s := .refl
  cases arises with
  | none => exact ⟨.inl nothing, nothing, nothing, fun _ => rfl, fun _ => rfl⟩
  | objected =>
    refine ⟨.inl nothing, reportObjected_changes, markTraffic_changes, fun s => ?_, fun s => ?_⟩
    · dsimp only [HandOffs.objected, reportObjected]
      split <;> simp
    · dsimp only [HandOffs.objected, markTraffic]
      split <;> rfl
  | handOver acceptable own verdict refused s => exact handOver_changing acceptable own verdict refused s

theorem HandOffs.Changing.message_changes {h : HandOffs} (hc : h.Changing) {s : State} (busy : ¬s.Idle) : Changes s (h.message s) := by
  rcases hc.message with always | ⟨busied, -⟩
  · exact always s
  · exact busied s busy

theorem HandOffs.Changing.run {h : HandOffs} (hc : h.Changing) {s : State} (busy : ¬s.Idle) : Changes s (h.run s) :=
  (hc.message_changes busy).trans ((hc.attempt _).trans (hc.station _))

/-! ## Chains of moves -/

theorem Moves.live {s t : State} (live : s.Live) (h : Changes s t) : Moves s t := .of (.live live h)

theorem Moves.outside {s t : State} (h : Outside s t) : Moves s t := .of (.outside h)

theorem Moves.passing {s t : State} (h : Passing s t) : Moves s t := .of (.passing h)

theorem Moves.advance (d : Nat) (s : State) : Moves s (advance d s) := .passing (.advance d)

theorem Moves.guard {p : Prop} [Decidable p] {s t : State} (h : p → Moves s t) : Moves s (if p then t else s) := by
  split
  · next hp => exact h hp
  · exact .refl

theorem Moves.ite {p : Prop} [Decidable p] {s t u : State} (h : p → Moves s t) (g : ¬p → Moves s u) :
    Moves s (if p then t else u) := by
  split
  · next hp => exact h hp
  · next hp => exact g hp

theorem Moves.foldl {α : Type} {f : State → α → State} (h : ∀ s a, Moves s (f s a)) (as : List α) (s : State) :
    Moves s (as.foldl f s) := by
  induction as generalizing s with
  | nil => exact .refl
  | cons a as ih => exact (h s a).trans (ih _)

/-! ## What makes a part live -/

theorem State.Live.of_state {s : State} (h : s.station.state ≠ .unconfigured) : s.Live := fun e => absurd e h

theorem State.Live.of_attached {s : State} (h : s.station.state.attached = true) : s.Live :=
  .of_state fun e => by rw [e] at h; exact absurd h (by decide)

/-- What an idle detached part does not have. -/
theorem State.Live.of_item {s : State} {p : Prop} (h : p) (idle : s.DetachedIdle → s.station.state.attached = false → ¬p) :
    s.Live := fun e di => idle di (by rw [e]; rfl) h

theorem State.DetachedIdle.framing_off {s : State} (h : s.DetachedIdle) (d : s.station.state.attached = false) :
    s.engine.framing = .off := by
  obtain ⟨-, -, -, -, -, -, -, hf, -⟩ := h d
  exact hf

theorem State.DetachedIdle.no_transmission {s : State} (h : s.DetachedIdle) (d : s.station.state.attached = false) :
    s.engine.transmission = .none := by
  obtain ⟨-, -, -, -, -, -, -, -, -, -, -, -, ht, -⟩ := h d
  exact ht

theorem State.DetachedIdle.not_running {s : State} (h : s.DetachedIdle) (d : s.station.state.attached = false) :
    s.timer.running = false := by
  obtain ⟨-, hr, -⟩ := h d
  exact hr

theorem State.DetachedIdle.no_pulse {s : State} (h : s.DetachedIdle) (d : s.station.state.attached = false) :
    s.lines.syncDriving = false := by
  obtain ⟨-, -, -, -, -, hp, -⟩ := h d
  exact hp

theorem State.Live.of_framing {s : State} (h : s.engine.framing ≠ .off) : s.Live :=
  .of_item h fun di d => not_not.2 (di.framing_off d)

theorem State.Live.of_transmission {s : State} (h : s.engine.transmission ≠ .none) : s.Live :=
  .of_item h fun di d => not_not.2 (di.no_transmission d)

theorem State.Live.of_running {s : State} (h : s.timer.running = true) : s.Live :=
  .of_item h fun di d e => by rw [di.not_running d] at e; cases e

theorem State.Live.of_pulse {s : State} (h : s.lines.syncDriving = true) : s.Live :=
  .of_item h fun di d e => by rw [di.no_pulse d] at e; cases e

/-! ## The SYNC edge -/

theorem EdgeChanges.of_changes {s t : State} (h : Changes s t) : EdgeChanges s t :=
  Relation.ReflTransGen.mono (fun _ _ => EdgeChange.change) _ _ h

/-- The engine's part of an edge drops what is framed, and voids an own message on the wire. -/
theorem edgeEngine_cases (s : State) :
    edgeEngine s = s ∨ s.engine.framing ≠ .off ∧ Changes (dropFrame s) (edgeEngine s) := by
  have dropped : Changes (dropFrame s) (if s.engine.framing = .frame ∧ s.engine.transmission ≠ .none then reportVoid .sync (dropFrame s)
      else dropFrame s) := .guard fun h => reportVoid_changes .sync h.2
  unfold edgeEngine
  cases e : s.engine.framing with
  | off => exact .inl rfl
  | awaitSync | gap | idle | frame => rw [e] at dropped; exact .inr ⟨nofun, dropped⟩

theorem edgeEngine_changes (s : State) : EdgeChanges s (edgeEngine s) := by
  rcases edgeEngine_cases s with same | ⟨on, changes⟩
  · rw [same]; exact .refl
  · exact (EdgeChanges.of (.engine on)).trans (.of_changes changes)

theorem State.windowEnd_lawful {s : State} {cause : Cause} (h : s.windowEnd = some cause) :
    cause ∈ StationState.joined.causes := by
  unfold State.windowEnd at h
  split at h
  · cases h; decide
  · split at h
    · cases h; decide
    · cases h

theorem State.windowEnd_none {s : State} (h : s.windowEnd = none) : s.station.count < s.expiry := by
  unfold State.windowEnd at h
  split at h
  · cases h
  · split at h
    · cases h
    · next hc => exact Nat.lt_of_not_le hc

theorem edgeStation_changes (s : State) : EdgeChanges s (edgeStation s) := by
  have window (state : s.station.state = .listen ∨ s.station.state = .resync) :
      EdgeChanges s (if !s.station.opened then openWindow s
        else match State.windowEnd { s with station := { s.station with count := s.station.count + 1 } } with
          | some cause => enterJoined cause { s with station := { s.station with count := s.station.count + 1 } }
          | none => continueWindow { s with station := { s.station with count := s.station.count + 1 } }) := by
    cases opened : s.station.opened with
    | false => exact .of (.openWindow state opened)
    | true =>
      have isOpen : s.windowOpen = true := by
        unfold State.windowOpen
        rcases state with e | e <;> simp [e, opened]
      simp only [Bool.not_true, Bool.false_eq_true, if_false]
      split
      · next cause e =>
        exact .of_changes (enterJoined_changes (s := s) (.inl isOpen) (State.windowEnd_lawful e))
      · next e => exact .of (.nextCycle isOpen (State.windowEnd_none e))
  unfold edgeStation
  cases e : s.station.state with
  | listen => rw [e] at window; exact window (.inl rfl)
  | resync => rw [e] at window; exact window (.inr rfl)
  | unconfigured | joined | leaving | quiet | fault | halt => exact .refl

theorem State.Idle.not_running {s : State} (h : s.Idle) : s.timer.running = false := h.2.not_running h.1

theorem edgePart_changes {h : HandOffs} (hc : h.Changing) (p : EdgePart) {s : State}
    (message : Changes s (h.message s)) : EdgeChanges s (edgePart h p s) := by
  cases p with
  | planTable => exact .of_changes (edgePlan_changes s)
  | driveUnit => exact .of .drive
  | messageEngine => exact edgeEngine_changes s
  | stationController => exact edgeStation_changes s
  | message => exact .of_changes message
  | attemptReport => exact .of_changes (hc.attempt s)
  | stationReport => exact .of_changes (hc.station s)

/-- No event of an edge but a HALT stops the timer. -/
theorem edgePart_timer {h : HandOffs} (hc : h.Changing) (message : ∀ s, (h.message s).timer = s.timer) (p : EdgePart) (s : State) :
    (edgePart h p s).timer = s.timer := by
  cases p with
  | planTable => simp [edgePart]
  | driveUnit => simp [edgePart]
  | messageEngine => simp [edgePart]
  | stationController => simp [edgePart]
  | message => exact message s
  | attemptReport => exact hc.attempt_timer s
  | stationReport => exact hc.station_timer s

/-- The parts of an edge, taken one by one: each is made of changes. `I rest` is what holds while the parts `rest` are still to come. -/
theorem edgeParts_induction {h : HandOffs} (hc : h.Changing) {I : List EdgePart → State → Prop}
    (part : ∀ p rest s, I (p :: rest) s → EdgeChanges s (edgePart h p s) → I rest (edgePart h p s))
    (order : List EdgePart) {s : State} (running : s.timer.running = true) (start : I order s) :
    I [] (order.foldl (fun s p => edgePart h p s) s) := by
  rcases hc.message with always | ⟨busied, timer⟩
  · clear running
    induction order generalizing s with
    | nil => exact start
    | cons p ps ih => exact ih (part p ps s start (edgePart_changes hc p (always s)))
  · induction order generalizing s with
    | nil => exact start
    | cons p ps ih =>
      have busy : ¬s.Idle := fun idle => by rw [idle.not_running] at running; cases running
      exact ih (by rw [edgePart_timer hc timer]; exact running) (part p ps s start (edgePart_changes hc p (busied s busy)))

/-- The events of an edge behind the timer's own are made of the single changes of an edge. -/
theorem edgeParts_changes {h : HandOffs} (hc : h.Changing) (order : List EdgePart) {s : State} (running : s.timer.running = true) :
    EdgeChanges s (order.foldl (fun s p => edgePart h p s) s) :=
  edgeParts_induction hc (I := fun _ u => EdgeChanges s u) (fun _ _ _ before part => before.trans part) order running .refl

theorem validEdge_changes {h : HandOffs} (hc : h.Changing) (order : List EdgePart) {s : State} (running : s.timer.running = true) :
    EdgeChanges s (validEdge order h s) :=
  (EdgeChanges.of (.timer running)).trans (edgeParts_changes hc order running)

theorem takeFall_moves (hold : Nat) {order : List EdgePart} (allowed : EdgePart.orderAllowed order = true) {h : HandOffs}
    (arises : h.Arises) (fits : h.Fits order) (s : State) : Moves s (takeFall hold order h s) := by
  refine .ite (fun valid => ?_) fun _ => .outside (.fallSync hold)
  simp only [State.fallIsValid, Bool.and_eq_true] at valid
  exact .of (.edge valid.1 hold allowed arises fits)

theorem ownFall_moves (s : State) : Moves s (ownFall s) := .guard fun _ => takeFall_moves 0 (by decide) .none (.inl rfl) s

/-! ## The outcome of a message -/

theorem advanceInFrame_moves (t : Nat) (s : State) : Moves s (advanceInFrame t s) := by
  unfold advanceInFrame
  split
  · exact .passing (.inMessage _)
  · exact .refl

/-- Time passes in a message, and what then befalls it is made of changes. -/
theorem Moves.inFrame {s u : State} (framed : s.engine.framing = .frame) (t : Nat)
    (h : (advanceInFrame t s).engine.framing = .frame → Changes (advanceInFrame t s) u) : Moves s u := by
  obtain ⟨-, -, -, -, -, -, -, -, -, -, -, -, -, framing, -⟩ := advanceInFrame_keeps t s
  have still := framing.trans framed
  exact (advanceInFrame_moves t s).trans (.live (.of_framing (by rw [still]; decide)) (h still))

theorem readMessage_changes (m : Message) (check : BitVec 8) (object : Bool) {s : State} (framed : s.engine.framing = .frame) :
    Changes s (endFrame (readMessage m check object (readback m s))) := by
  have still := (readback_framing m s).1.trans framed
  exact (readback_changes m s).trans <| (Changes.of (.readMessage m check object still)).trans (.of (.endFrame still))

theorem readObjected_moves (t : Nat) (m : Message) (check : BitVec 8) {s : State} (framed : s.engine.framing = .frame) :
    Moves s (readObjected t m check s) :=
  .inFrame framed t fun still => readMessage_changes m check false still

theorem endFrame_live (s : State) : (endFrame s).Live := .of_framing nofun

theorem endFrame_busy (s : State) : ¬(endFrame s).Idle := fun idle => nomatch idle.2.framing_off idle.1

theorem decided_moves (m : Message) (othersRefuse : Bool) {s : State} (framed : s.engine.framing = .frame) :
    Moves s (decided m othersRefuse s).1 ∧ ((decided m othersRefuse s).1.Live ∧ ¬(decided m othersRefuse s).1.Idle) ∧ (decided m othersRefuse s).2.Arises := by
  unfold decided
  dsimp only
  cases acceptable : m.unacceptable with
  | true => exact ⟨readObjected_moves _ m m.check framed, ⟨endFrame_live _, endFrame_busy _⟩, .objected⟩
  | false => exact ⟨.inFrame framed _ fun still => readMessage_changes m m.check true still, ⟨endFrame_live _, endFrame_busy _⟩, .handOver acceptable ..⟩

theorem objected_moves (m : Message) (check : BitVec 8) {s : State} (framed : s.engine.framing = .frame) :
    Moves s (objected m check s) :=
  (readObjected_moves _ m check framed).trans (.live (endFrame_live _) (HandOffs.Arises.objected.changing.run (endFrame_busy _)))

theorem commit_moves (m : Message) (othersRefuse : Bool) (s : State) : Moves s (commit m othersRefuse s) := by
  refine .guard fun framed => ?_
  obtain ⟨moves, ⟨live, busy⟩, arises⟩ := decided_moves m othersRefuse framed
  exact moves.trans (.live live (arises.changing.run busy))

theorem fallWith_moves (hold : Nat) {order : List EdgePart} (allowed : EdgePart.orderAllowed order = true) {s : State}
    (meets : ∀ late, EdgePart.outcomeIn order = some late → s.engine.framing = .frame) : Moves s (fallWith hold order s) := by
  unfold fallWith
  dsimp only
  cases e : EdgePart.outcomeIn order with
  | none => exact takeFall_moves hold allowed .none (.inl rfl) s
  | some late =>
    cases late with
    | committed m refused =>
      obtain ⟨moves, -, arises⟩ := decided_moves m refused (meets _ e)
      exact moves.trans (takeFall_moves hold allowed arises (.inr (.inr ⟨_, _, e⟩)) _)
    | objected m check => exact (readObjected_moves _ m check (meets _ e)).trans (takeFall_moves hold allowed .objected (.inr (.inl rfl)) _)

theorem refuse_moves (sender : BitVec 5) (e : WireEntry) {s : State} (framed : s.engine.framing = .frame) :
    Moves s (refuse sender e s) := by
  refine .inFrame framed (s.bits Config.refusePosition) fun still => ?_
  have heard := (readback_framing (.claim sender e) (advanceToBit Config.refusePosition s)).1.trans still
  refine (readback_changes (.claim sender e) _).trans <|
    (Changes.of (.readMessage (.claim sender e) (Message.claim sender e).check true heard)).trans ?_
  exact .ite (fun _ => .refl) fun _ => .of (.judge _ _ heard)

end Sys2Proof.Machine
end

section
/-! The local port, the rows that time brings and the tick, taken apart into moves; and with them the step. -/

namespace Sys2Proof.Machine

/-! ## The local port -/

theorem handles_moves {s : State} {p : LocalPort} (h : s.port.Handles p) : Moves s { s with port := p } := .outside (.port h)

/-- The port takes the bytes of a command. -/
def State.Taking (s : State) : Prop := s.port.phase = .command ∨ s.port.phase = .arguments

theorem respond_moves {s : State} (taking : s.Taking) (bytes : List Byte) : Moves s (respond bytes s) :=
  handles_moves (.respond taking bytes)

/-- A command acts with changes that leave the port's phase, and responds. -/
theorem Moves.respond {s t : State} (h : Moves s t) (taking : s.Taking) (phase : t.port.phase = s.port.phase)
    (bytes : List Byte) : Moves s (respond bytes t) :=
  h.trans (respond_moves (by unfold State.Taking; rw [phase]; exact taking) bytes)

theorem configAct_moves (a : ConfigArgs) {s : State} (taking : s.Taking) : Moves s (configAct a s) := by
  unfold configAct
  refine .ite (fun _ => respond_moves taking _) fun unconfigured => .ite (fun valid => ?_) fun _ => respond_moves taking _
  have isOpen : s.port.phase ≠ .none := by rcases taking with e | e <;> rw [e] <;> decide
  have configured := Moves.outside (.configure a (not_not.1 unconfigured) valid isOpen)
  exact (configured.trans (.live (.of_attached rfl) (.of (.offer .rollcall (.inr rfl))))).respond (t := applyConfig a s) taking rfl _

theorem applyDemand_changes (c : ChannelId) (d : Nat) (s : State) : Changes s (applyDemand c d s) := by
  unfold applyDemand
  dsimp only
  refine .ite (fun _ => .mapChannel rfl id) fun _ => Changes.trans ?_ (settle_changes c _)
  exact .mapChannel rfl id

theorem applyDemand_port (c : ChannelId) (d : Nat) (s : State) : (applyDemand c d s).port = s.port := by
  unfold applyDemand
  dsimp only
  split
  · rfl
  · simp

theorem demandAct_moves (channel : Byte) (value : BitVec 16) {s : State} (taking : s.Taking) :
    Moves s (demandAct channel value s) := by
  unfold demandAct
  refine .ite (fun _ => respond_moves taking _) fun state => ?_
  cases channelByte? channel with
  | none => exact respond_moves taking _
  | some c =>
    refine .ite (fun _ => respond_moves taking _) fun _ => ?_
    exact (Moves.live (.of_state fun e => state (.inl e)) (applyDemand_changes ..)).respond taking (by rw [applyDemand_port]) _

theorem clearAct_moves (channel mask : Byte) {s : State} (taking : s.Taking) : Moves s (clearAct channel mask s) := by
  unfold clearAct
  refine .ite (fun _ => respond_moves taking _) fun state => ?_
  cases channelByte? channel with
  | none => exact respond_moves taking _
  | some c => exact (Moves.live (.of_state state) (.mapChannel (f := Channel.clearFlags mask) rfl id)).respond taking rfl _

theorem quietAct_moves {s : State} (taking : s.Taking) : Moves s (quietAct s) := by
  refine .ite (fun joined => ?_) fun _ => respond_moves taking _
  exact (Moves.live (.of_state (by rw [joined]; decide)) (enterLeaving_changes joined)).respond taking rfl _

@[simp] theorem LocalPort.post_phase (p : LocalPort) (r : EventRecord) : (p.post r).phase = p.phase := by
  unfold LocalPort.post
  repeat' split
  all_goals rfl

theorem enterJoined_port (cause : Cause) (s : State) :
    (enterJoined cause s).port = s.port.post ⟨.joined, .cause cause, s.timer.cycleCounter⟩ := by
  simp [enterJoined]

theorem leaveQuietAct_moves {s : State} (taking : s.Taking) : Moves s (leaveQuietAct s) := by
  refine .ite (fun quiet => ?_) fun _ => respond_moves taking _
  have live : s.Live := .of_state (by rw [quiet]; decide)
  cases s.station.quietStale with
  | true => exact (Moves.live live ((Changes.of (.listen quiet)).trans (.of (.offer .rollcall (.inr rfl))))).respond
              (t := enterListen .stale s) taking rfl _
  | false =>
    exact (Moves.live live (enterJoined_changes (.inr quiet) (by decide))).respond (t := enterJoined .returned s) taking
      (by rw [enterJoined_port, LocalPort.post_phase]) _

theorem eventAct_moves {s : State} (taking : s.Taking) : Moves s (eventAct s) := by
  unfold eventAct
  split
  · exact respond_moves taking _
  · next e => exact handles_moves (.event taking e)

theorem act_moves {s : State} (taking : s.Taking) : Moves s (act s) := by
  have replies (bytes : List Byte) := respond_moves taking bytes
  have channelReads (b : Byte) : Moves s (channelAct b s) := by unfold channelAct; split <;> exact replies _
  have slotReads (b : Byte) : Moves s (slotAct b s) := by unfold slotAct; split <;> exact replies _
  have holdingsReads (b : Byte) : Moves s (holdingsAct b s) := by unfold holdingsAct; split <;> exact replies _
  have peerReads (b : Byte) : Moves s (peerAct b s) := by unfold peerAct; split <;> exact replies _
  unfold act
  split
  · exact .refl
  · exact .ite (fun _ => configAct_moves _ taking) fun _ => .ite (fun _ => demandAct_moves _ _ taking) fun _ =>
      .ite (fun _ => clearAct_moves _ _ taking) fun _ => .ite (fun _ => quietAct_moves taking) fun _ =>
      .ite (fun _ => leaveQuietAct_moves taking) fun _ => .ite (fun _ => channelReads _) fun _ =>
      .ite (fun _ => slotReads _) fun _ => .ite (fun _ => holdingsReads _) fun _ => .ite (fun _ => peerReads _) fun _ =>
      .ite (fun _ => replies _) fun _ => .ite (fun _ => eventAct_moves taking) fun _ => replies _

theorem shiftTo_moves {s : State} (replying : s.port.phase = .reply) (position : Nat) : Moves s (shiftTo position s) :=
  handles_moves (.shift replying position s rfl)

theorem clockByte_moves (s : State) (b : Byte) : Moves s (clockByte s b) := by
  have received (taking : s.Taking) (bytes : List Byte) : Moves s { s with port := { s.port with received := bytes } } :=
    handles_moves (.receive taking bytes (phase := s.port.phase) taking)
  unfold clockByte
  cases phase : s.port.phase with
  | none => exact .refl
  | ignore => exact .refl
  | command =>
    have taking : s.Taking := .inl phase
    dsimp only
    split
    · exact (received taking [b]).respond taking rfl _
    · exact (received taking [b]).trans (act_moves taking)
    · exact handles_moves (.receive taking [b] (.inr rfl))
  | arguments =>
    have taking : s.Taking := .inr phase
    have got := received taking (s.port.received ++ [b])
    dsimp only
    split
    · exact got.trans (act_moves taking)
    · exact got
  | reply => exact shiftTo_moves phase _

theorem clockBytes_moves (bytes : List Byte) (s : State) : Moves s (clockBytes bytes s) := .foldl clockByte_moves bytes s

/-! ## The falls of the two lines -/

theorem advanceToRecessive_moves (s : State) : Moves s (advanceToRecessive s) := .guard fun _ => .advance ..

theorem landFall_moves (hold : Nat) (s : State) : Moves s (landFall hold s) := by
  by_cases off : s.engine.framing = .off
  · unfold landFall
    rw [off]
    exact .outside (.fallData hold)
  · exact .live (.of_framing off) (landFall_changes hold s)

theorem dataFall_moves (hold : Nat) (s : State) : Moves s (dataFall hold s) := by
  refine (advanceToRecessive_moves s).trans (.ite (fun dominant => .outside (.holdData dominant _)) fun _ => landFall_moves ..)

theorem advanceToRise_moves (s : State) : Moves s (advanceToRise s) := .guard fun _ => .advance ..

theorem advanceToFall_moves (s : State) : Moves s (advanceToFall s) :=
  .ite (fun _ => .advance ..) fun _ => advanceToRise_moves s

theorem advanceToGap_moves (gap : Nat) (s : State) : Moves s (advanceToGap gap s) :=
  .ite (fun _ => .advance ..) fun _ => .ite (fun _ => .refl) fun _ => .advance ..

theorem edgeOrder_meets {s : State} {order : List EdgePart} {late : LateOutcome}
    (h : EdgePart.outcomeIn (s.edgeOrder order) = some late) : s.canMeet late = true := by
  unfold State.edgeOrder at h
  dsimp only at h
  split at h
  · next all => rw [h] at all; exact all
  · cases h

theorem syncEdge_moves (hold : Nat) (order : List EdgePart) (s : State) :
    Moves s (let t := if s.fallWaits then s else advanceToFall s
      if t.lines.syncLow then s else fallWith hold (t.edgeOrder order) t) := by
  have time : Moves s (if s.fallWaits then s else advanceToFall s) := .ite (fun _ => .refl) fun _ => advanceToFall_moves s
  dsimp only
  generalize (if s.fallWaits then s else advanceToFall s) = t at *
  refine .ite (fun _ => .refl) fun _ => time.trans (fallWith_moves hold (edgeOrder_allowed t order) fun late h => ?_)
  have meets := edgeOrder_meets h
  simp only [State.canMeet, Bool.and_eq_true, decide_eq_true_eq] at meets
  exact meets.1

/-! ## The rows that time brings -/

theorem State.opportunity_idle {s : State} {gap : Nat} (h : s.opportunity gap = true) : s.engine.framing = .idle := by
  simp only [State.opportunity, Bool.and_eq_true, decide_eq_true_eq] at h
  exact h.1.1.1.1

theorem State.Live.of_opportunity {s : State} {gap : Nat} (h : s.opportunity gap = true) : s.Live :=
  .of_framing (by rw [State.opportunity_idle h]; decide)

theorem State.pulseDue_attached {s : State} (h : s.pulseDue = true) : s.station.state.attached = true := by
  simp only [State.pulseDue, Bool.and_eq_true] at h
  exact h.1.1.1.1.1

theorem startPulse_moves {s : State} (due : s.pulseDue = true) : Moves s (startPulse s) :=
  .live (.of_attached (State.pulseDue_attached due)) (.of (.startPulse due))

theorem releasePulse_moves {s : State} (driving : s.lines.syncDriving = true) : Moves s (releasePulse s) :=
  (Moves.live (.of_pulse driving) (.of .releaseSync)).trans (.advance 0 _)

theorem acquireSync_moves {s : State} (running : s.timer.running = true) : Moves s (acquireSync s) :=
  (Moves.live (.of_running running) (.of (.acquire running))).trans (.guard startPulse_moves)

theorem startFrame_moves {s : State} (h : s.opportunity Config.idleGapBits = true) : Moves s (startFrame s) :=
  .live (.of_opportunity h) (startFrame_changes (State.opportunity_idle h))

theorem becomeIdle_moves {s : State} (gap : s.engine.framing = .gap) : Moves s (becomeIdle s) :=
  .live (.of_framing (by rw [gap]; decide)) (.of (.becomeIdle gap))

theorem enterFault_moves {cause : Cause} {s : State} (attached : s.station.state.attached = true)
    (stuck : cause ∈ StationState.fault.causes) : Moves s (enterFault cause s) :=
  .live (.of_attached attached) (enterFault_changes attached stuck)

theorem recover_moves {s : State} (fault : s.station.state = .fault) : Moves s (recover s) :=
  .live (.of_state (by rw [fault]; decide)) (recover_changes fault)

theorem advance_station (d : Nat) (s : State) : (advance d s).station = s.station := by
  obtain ⟨-, -, -, -, -, station, -⟩ := advance_keeps d s
  exact station

theorem advance_running (d : Nat) (s : State) : (advance d s).timer.running = s.timer.running := by
  obtain ⟨-, -, -, -, -, -, -, -, -, running, -⟩ := advance_keeps d s
  exact running

theorem advance_syncDriving (d : Nat) (s : State) : (advance d s).lines.syncDriving = s.lines.syncDriving := by
  obtain ⟨-, -, -, -, -, -, -, -, -, -, -, -, driving, -⟩ := advance_keeps d s
  exact driving

theorem advance_framing (d : Nat) (s : State) : (advance d s).engine.framing = s.engine.framing := by
  obtain ⟨-, -, -, -, -, -, -, -, -, -, -, -, -, framing, -⟩ := advance_keeps d s
  exact framing

theorem advanceToGap_framing (gap : Nat) (s : State) : (advanceToGap gap s).engine.framing = s.engine.framing := by
  unfold advanceToGap
  split
  · exact advance_framing ..
  · split
    · rfl
    · exact advance_framing ..

theorem syncStuck_moves {s : State} (h : (s.station.state.attached && s.lines.syncLow) = true) (d n : Nat) :
    Moves s (enterFault .syncStuck (advance d { s with lines := { s.lines with syncHold := n } })) := by
  rw [Bool.and_eq_true] at h
  exact ((Moves.outside (.holdSync h.2 n)).trans (.advance ..)).trans
    (enterFault_moves (by rw [advance_station]; exact h.1) (by decide))

theorem dataStuck_moves {s : State} (h : (s.station.state.attached && s.lines.dataDominant) = true) (d n : Nat) :
    Moves s (enterFault .dataStuck (advance d { s with lines := { s.lines with dataHold := n } })) := by
  rw [Bool.and_eq_true] at h
  exact ((Moves.outside (.holdData h.2 n)).trans (.advance ..)).trans
    (enterFault_moves (by rw [advance_station]; exact h.1) (by decide))

/-! ## The rows -/

/-- A row has one next state. -/
theorem Moves.of_next {s t u : State} (h : (Host.Outcome.next u : Host.Outcome State Fault Refusal) = .next t) (m : Moves s u) :
    Moves s t := by
  cases h
  exact m

/-- A row before which an own fall is taken. -/
theorem Moves.behind_ownFall {s t u : State} (h : (Host.Outcome.next u : Host.Outcome State Fault Refusal) = .next t)
    (m : Moves (ownFall s) u) : Moves s t :=
  .of_next h ((ownFall_moves s).trans m)

end Sys2Proof.Machine

/-- The rows that reset the part. -/
def Sys2Proof.Instr.resets : Instr → Prop
  | .powerOnReset | .resetPin | .resetRelease => True
  | _ => False

namespace Sys2Proof.Machine

/-- What a row other than a reset row and SELF_EXPIRED is made of. -/
theorem exec_moves {i : Instr} {s t : State} (h : exec i s = .next t) (noReset : ¬i.resets) (notSelf : i ≠ .selfExpired) :
    Moves s t := by
  cases i with
  | powerOnReset | resetPin | resetRelease => exact absurd trivial noReset
  | selfExpired => exact absurd rfl notSelf
  | portReady =>
    refine .of_next h (.ite (fun _ => .refl) fun released => .outside (.ready ?_))
    exact Bool.eq_false_iff.2 released
  | transactionStart =>
    refine .of_next h (.ite (fun _ => .refl) fun high => ?_)
    have isHigh := Bool.eq_false_iff.2 high
    exact .ite (fun ready => handles_moves (.fall isHigh ready)) fun unready =>
      handles_moves (.fallUnready isHigh (Bool.eq_false_iff.2 unready))
  | transactionEnd clocked => exact .of_next h ((clockBytes_moves clocked s).trans (handles_moves .rise))
  | badCommand | config | demand | clear | quiet | leaveQuiet | channel | slot | holdings | peer | station | event =>
    exact .of_next h (clockBytes_moves _ s)
  | eventRecordRemoved => exact .of_next h (.guard fun reply => shiftTo_moves reply.1 _)
  | syncEdge hold order => exact .of_next h (syncEdge_moves hold order s)
  | invalidSyncEdge hold =>
    exact .of_next h (.ite (fun _ => .refl) fun _ => (advanceToRise_moves s).trans (.outside (.fallSync hold)))
  | peerExpired a =>
    refine .of_next h (.guard fun may => ?_)
    have expires := may.2
    simp only [State.mayExpire, Bool.and_eq_true] at expires
    exact .live (.of_attached expires.1) (expireAll_changes _ expires.1)
  | announceDue =>
    refine .of_next h (.guard fun state => ?_)
    simp only [Bool.or_eq_true, decide_eq_true_eq] at state
    have live : s.Live := .of_state (by rcases state with e | e <;> rw [e] <;> decide)
    exact .live live ((Changes.of (.ageOwn state)).trans (announceDueTest_changes _))
  | joinWindowEnd =>
    refine .of_next h (.guard fun window => .live (.of_state fun e => ?_) (enterJoined_changes (.inl window) ?_))
    · simp [State.windowOpen, e] at window
    · split <;> decide
  | slotStart => exact .behind_ownFall h (.guard fun ahead => .passing (.toSlot ahead))
  | guardWindow => exact .behind_ownFall h (.guard fun _ => .advance ..)
  | syncPulse => exact .behind_ownFall h (.ite (fun due => (Moves.advance ..).trans (startPulse_moves due)) fun _ => .refl)
  | syncPulseRelease =>
    refine .behind_ownFall h (.guard fun driving => (Moves.advance ..).trans (releasePulse_moves ?_))
    rw [advance_syncDriving]
    exact driving
  | syncAcquired =>
    refine .behind_ownFall h (.guard fun due => (Moves.advance ..).trans (acquireSync_moves ?_))
    rw [Bool.and_eq_true] at due
    rw [advance_running]
    exact due.1
  | syncStuck => exact .behind_ownFall h (.guard fun stuck => syncStuck_moves stuck ..)
  | dataStuck => exact .behind_ownFall h (.guard fun stuck => dataStuck_moves stuck ..)
  | linesIdle =>
    refine .behind_ownFall h (.guard fun fault => (Moves.advance ..).trans (recover_moves ?_))
    rw [advance_station]
    exact fault
  | framingIdle =>
    refine .behind_ownFall h (.guard fun gap => (advanceToGap_moves ..).trans (becomeIdle_moves ?_))
    rw [advanceToGap_framing]
    exact gap
  | startOfFrame => exact .behind_ownFall h (.ite (fun may => (advanceToGap_moves ..).trans (startFrame_moves may)) fun _ => .refl)
  | joinStartOfFrame =>
    exact .behind_ownFall h (.ite
      (fun may => (advanceToGap_moves ..).trans (.live (.of_opportunity may) (joinFrame_changes _ (State.opportunity_idle may))))
      fun _ => dataFall_moves ..)
  | attemptLost => exact .of_next h (.guard fun driving => .live (.of_transmission (by rw [driving]; decide)) (endAttempt_changes s))
  | messageObjected => exact .behind_ownFall h (.guard fun framed => objected_moves _ _ framed)
  | announceCommit | claimCommit | releaseCommit | rollcallCommit => exact .behind_ownFall h (commit_moves ..)
  | dataFall => exact .behind_ownFall h (dataFall_moves ..)
  | refuseBit => exact .behind_ownFall h (.guard fun framed => refuse_moves _ _ framed)
  | mismatchAfterSender =>
    refine .of_next h (.guard fun driving => ?_)
    have attempt : s.engine.transmission ≠ .none := by rw [driving]; decide
    exact .live (.of_transmission attempt) (.of (.stopDriving attempt))

/-- SELF_EXPIRED: an own attempt is void as at an edge, and then the record expires. -/
theorem execSelfExpired_changes {s t : State} (h : execSelfExpired s = .next t) :
    t = s ∨ s.station.state.attached = true
      ∧ Changes (if s.engine.transmission = .none then s else edgeEngine s) t := by
  cases h
  by_cases may : s.mayExpire s.cfg.address = true
  · rw [if_pos may]
    simp only [State.mayExpire, Bool.and_eq_true] at may
    refine .inr ⟨may.1, (expireAll_changes _ ?_).trans (announceDueTest_changes _)⟩
    split
    · exact may.1
    · obtain ⟨-, -, -, -, -, station, -⟩ := edgeEngine_frame s
      rw [station]
      exact may.1
  · exact .inl (if_neg may)

/-! ## The tick and the step -/

theorem tickStuck_moves (s : State) : Moves s (tickStuck s) :=
  .guard fun attached => .ite (fun _ => enterFault_moves attached (by decide)) fun _ =>
    .guard fun _ => enterFault_moves attached (by decide)

theorem tickIdleLines_moves (s : State) : Moves s (tickIdleLines s) := by
  refine .guard fun h => recover_moves ?_
  simp only [Bool.and_eq_true, decide_eq_true_eq] at h
  exact h.1

theorem tickFraming_moves (s : State) : Moves s (tickFraming s) := by
  refine .guard fun h => becomeIdle_moves ?_
  simp only [Bool.and_eq_true, decide_eq_true_eq] at h
  exact h.1.1

theorem tickRelease_moves (s : State) : Moves s (tickRelease s) := by
  refine .guard fun h => releasePulse_moves ?_
  rw [Bool.and_eq_true] at h
  exact h.1

theorem tickPulse_moves (s : State) : Moves s (tickPulse s) := by
  refine .ite (fun h => acquireSync_moves ?_) fun _ => .guard startPulse_moves
  simp only [Bool.and_eq_true] at h
  exact h.1.1

theorem tickFrame_moves (s : State) : Moves s (tickFrame s) := .guard startFrame_moves

theorem tick_moves (s : State) : Moves s (tick s) :=
  .ite (fun _ => .refl) fun _ => (ownFall_moves s).trans <| (Moves.advance 1 _).trans <| (tickStuck_moves _).trans <|
    (tickIdleLines_moves _).trans <| (tickRelease_moves _).trans <| (tickPulse_moves _).trans <|
    (tickFraming_moves _).trans (tickFrame_moves _)

/-- The state on which the front command acts. -/
def State.popped (s : State) : State := { s with pending := s.pending.tail }

/-- A step is a reset, or SELF_EXPIRED, or moves. -/
theorem step_cases {s t : State} (h : step s = .next t) :
    (∃ i, s.pending.head? = some i ∧ i.resets ∧ ∃ inputs, t = resetKeepingPins inputs s.popped ∨ t = s.popped)
      ∨ (s.station.state.attached = true ∧ Changes (if s.engine.transmission = .none then s.popped else edgeEngine s.popped) t)
      ∨ Moves s.popped t := by
  unfold State.popped
  unfold step at h
  cases pending : s.pending with
  | nil =>
    rw [pending] at h
    refine .inr (.inr ?_)
    have same : { s with pending := [] } = s := by rw [← pending]
    rw [List.tail_nil, same]
    exact .of_next h (tick_moves s)
  | cons c rest =>
    rw [pending] at h
    rw [List.tail_cons, List.head?_cons]
    by_cases self : c = .selfExpired
    · subst self
      rcases execSelfExpired_changes h with rfl | expires
      · exact .inr (.inr .refl)
      · exact .inr (.inl expires)
    · by_cases reset : c.resets
      · refine .inl ⟨c, rfl, reset, ?_⟩
        cases c with
        | powerOnReset => cases h; exact ⟨_, .inl rfl⟩
        | resetPin => cases h; exact ⟨_, .inl rfl⟩
        | resetRelease =>
          cases h
          refine ⟨⟨false, false⟩, ?_⟩
          split
          · exact .inl rfl
          · exact .inr rfl
        | _ => exact absurd reset id
      · exact .inr (.inr (exec_moves h reset self))

end Sys2Proof.Machine
end

section
/-! What every step keeps: a law is kept by every step where each single change, the passing of time and reset keep it. -/

namespace Sys2Proof.Machine

/-- What one step keeps, some steps keep. -/
theorem reflTransGen_keeps {α : Type} {r : α → α → Prop} {P : α → Prop} (keep : ∀ {a b}, P a → r a b → P b) {a b : α}
    (h : Relation.ReflTransGen r a b) (ha : P a) : P b := by
  induction h with
  | refl => exact ha
  | tail _ one ih => exact keep ih one

/-- A law that the single changes, the passing of time and reset keep. -/
structure Kept (P : State → Prop) : Prop where
  edge {s t : State} : P s → EdgeChange s t → P t
  passing {s t : State} : P s → Passing s t → P t
  reset {s : State} (inputs : ResetInputs) : P s → P (resetKeepingPins inputs s)

theorem EdgeChanges.keeps {P : State → Prop} (keep : ∀ {s t}, P s → EdgeChange s t → P t) {s t : State} (h : EdgeChanges s t)
    (hs : P s) : P t := reflTransGen_keeps (r := EdgeChange) keep h hs

theorem Changes.keeps {P : State → Prop} (keep : ∀ {s t}, P s → Change s t → P t) {s t : State} (h : Changes s t) (hs : P s) : P t :=
  reflTransGen_keeps (r := Change) keep h hs

theorem Moves.keeps {P : State → Prop} (keep : ∀ {s t}, P s → Move s t → P t) {s t : State} (h : Moves s t) (hs : P s) : P t :=
  reflTransGen_keeps (r := Move) keep h hs

/-- An edge is the fall of SYNC and then the single changes of its blocks. -/
theorem Move.edge_changes {s : State} (running : s.timer.running = true) (hold : Nat) (order : List EdgePart) {h : HandOffs}
    (arises : h.Arises) : EdgeChanges s (validEdge order h (fallSync hold s)) :=
  (EdgeChanges.of (.change (.outside (.fallSync hold)))).trans (validEdge_changes arises.changing order running)

theorem Kept.move {P : State → Prop} (k : Kept P) {s t : State} (h : P s) (m : Move s t) : P t := by
  cases m with
  | outside o => exact k.edge h (.change (.outside o))
  | passing p => exact k.passing h p
  | live _ c => exact (EdgeChanges.of_changes c).keeps k.edge h
  | edge running hold allowed arises _ => exact (Move.edge_changes running hold _ arises).keeps k.edge h

/-- A kept law holds behind every step. `h` is the law at the state whose front command has been taken off: of most laws the law
itself, since they say nothing of the commands that wait. -/
theorem Kept.step {P : State → Prop} (k : Kept P) {s t : State} (h : P s.popped) (hs : step s = .next t) : P t := by
  rcases step_cases hs with ⟨_, _, _, inputs, rfl | rfl⟩ | ⟨_, changes⟩ | moves
  · exact k.reset inputs h
  · exact h
  · refine (EdgeChanges.of_changes changes).keeps k.edge ?_
    split
    · exact h
    · exact (edgeEngine_changes _).keeps k.edge h
  · exact moves.keeps k.move h

/-! ## The passing of time -/

theorem Passing.keeps {s t : State} (h : Passing s t) : TimeKeeps s t := by
  cases h with
  | advance d => exact advance_keeps d s
  | inMessage d => exact advanceInMessage_keeps d s
  | toSlot => exact (elapse_keeps (s.nextBoundary - s.timer.localTime) s).trans (by simp [TimeKeeps, startSlot, setOutputs])

theorem TimeKeeps.cfg {s t : State} (h : TimeKeeps s t) : t.cfg = s.cfg := by
  obtain ⟨-, cfg, -⟩ := h
  exact cfg

theorem TimeKeeps.inputs {s t : State} (h : TimeKeeps s t) : t.inputs = s.inputs := by
  obtain ⟨inputs, -⟩ := h
  exact inputs

theorem TimeKeeps.sched {s t : State} (h : TimeKeeps s t) : t.sched = s.sched := by
  obtain ⟨-, -, -, sched, -⟩ := h
  exact sched

theorem TimeKeeps.channels {s t : State} (h : TimeKeeps s t) : t.channels = s.channels := by
  obtain ⟨-, -, -, -, channels, -⟩ := h
  exact channels

theorem TimeKeeps.station {s t : State} (h : TimeKeeps s t) : t.station = s.station := by
  obtain ⟨-, -, -, -, -, station, -⟩ := h
  exact station

theorem TimeKeeps.syncDriving {s t : State} (h : TimeKeeps s t) : t.lines.syncDriving = s.lines.syncDriving := by
  obtain ⟨-, -, -, -, -, -, -, -, -, -, -, -, driving, -⟩ := h
  exact driving

theorem TimeKeeps.framing {s t : State} (h : TimeKeeps s t) : t.engine.framing = s.engine.framing := by
  obtain ⟨-, -, -, -, -, -, -, -, -, -, -, -, -, framing, -⟩ := h
  exact framing

theorem TimeKeeps.frame {s t : State} (h : TimeKeeps s t) : t.engine.frame.isSome = s.engine.frame.isSome := by
  obtain ⟨-, -, -, -, -, -, -, -, -, -, -, -, -, -, -, -, -, frame⟩ := h
  exact frame

theorem TimeKeeps.running {s t : State} (h : TimeKeeps s t) : t.timer.running = s.timer.running := by
  obtain ⟨-, -, -, -, -, -, -, -, -, running, -⟩ := h
  exact running

theorem TimeKeeps.port {s t : State} (h : TimeKeeps s t) : t.port = s.port := by
  obtain ⟨-, -, -, -, -, -, port, -⟩ := h
  exact port

end Sys2Proof.Machine
end

section
/-! The plan table at every step: what a change can make of it, and the laws of R3 to R5 with the budget. -/

namespace Sys2Proof.Machine

/-! ## What a change can make of the plan table -/

/-- What a change that leaves the configuration can make of the plan table, but for emptying it. -/
inductive PlanTable.Becomes (cfg : Configuration) (t : PlanTable) : PlanTable → Prop
  | same : Becomes cfg t t
  | revised {u : PlanTable} (h : t.Revision cfg u) : Becomes cfg t u
  | keepOwn : Becomes cfg t (t.keepOwn cfg.address)
  | ageOwn (present : t.peers[cfg.address].present = true) :
      Becomes cfg t
        (t.setPeer cfg.address { t.peers[cfg.address] with age := max t.peers[cfg.address].age cfg.interval })

/-- The plan table is empty, or it becomes what the event makes of it under the same configuration. -/
def State.TableMoves (s t : State) : Prop := t.table = .reset ∨ t.cfg = s.cfg ∧ s.table.Becomes s.cfg t.table

theorem State.TableMoves.of_eq {s t : State} (table : t.table = s.table) (cfg : t.cfg = s.cfg) : s.TableMoves t :=
  .inr ⟨cfg, table ▸ .same⟩

theorem Outside.table {s t : State} (h : Outside s t) : s.TableMoves t := by
  cases h with
  | configure => exact .inl rfl
  | fallSync | fallData | holdSync | holdData | port | ready => exact .of_eq rfl rfl

theorem Change.table {s t : State} (h : Change s t) : s.TableMoves t := by
  cases h with
  | outside h => exact h.table
  | revise h _ => exact .inr ⟨rfl, .revised h⟩
  | ageOwn =>
    unfold ageOwnToInterval
    dsimp only
    split
    · next present => exact .inr ⟨rfl, .ageOwn present⟩
    · exact .of_eq rfl rfl
  | fault | halt | recover | listen => exact .inl rfl
  | divert => exact .inr ⟨rfl, .keepOwn⟩
  | countVoid => rw [countVoid_eq]; exact .of_eq rfl rfl
  | shed | offer | channels | post | clearDrive | drive | endTransmission | stopDriving | quiet | join | leave | traffic | rollcall
  | stale | openFrame | alignGap | alignFrame | readMessage | endFrame | judge | becomeIdle | startPulse | acquire | releaseSync =>
    exact .of_eq rfl rfl

theorem EdgeChange.table {s t : State} (h : EdgeChange s t) : s.TableMoves t := by
  cases h with
  | change h => exact h.table
  | drive => exact .of_eq (by simp) (by simp)
  | timer | engine | openWindow | nextCycle => exact .of_eq rfl rfl

/-! ## The laws of the plan -/

theorem PlanTable.Lawful.setPeer {t : PlanTable} (hl : t.Lawful) (a : Address) (p : Peer) : (t.setPeer a p).Lawful := hl.of_eq rfl rfl rfl

theorem PlanTable.Lawful.overwrite {t : PlanTable} (hl : t.Lawful) (a : Address) (entries : List WireEntry) :
    (t.overwrite a entries).Lawful := by
  unfold PlanTable.overwrite
  refine List.foldlRecOn entries _ (motive := PlanTable.Lawful) (hl.removeOwner a).1 fun u lawful e _ => ?_
  cases channelOf? e.channel with
  | none => exact lawful
  | some c => exact (lawful.insert _).1

theorem PlanTable.Lawful.keepOwn {t : PlanTable} (hl : t.Lawful) (own : Address) : (t.keepOwn own).Lawful :=
  (hl.keepOwner own).1.of_eq (by simp only [PlanTable.keepOwn]) (by simp only [PlanTable.keepOwn]) (by simp only [PlanTable.keepOwn])

/-- Every single change of the plan table keeps its laws. -/
theorem PlanTable.Change.lawful {t u : PlanTable} (h : PlanTable.Change t u) (hl : t.Lawful) : u.Lawful := by
  cases h with
  | empty => exact PlanTable.reset_lawful
  | remove held => exact (hl.remove held).1
  | claim => exact (hl.insert _).1
  | announce a entries => exact (hl.overwrite a entries).setPeer _ _
  | expire a => exact ((hl.setPeer _ _).removeOwner a).1
  | keepOwn own => exact hl.keepOwn own
  | age => exact hl.of_eq rfl rfl rfl
  | setAge a n => exact hl.setPeer _ _

theorem step_lawful {s t : State} (hl : s.table.Lawful) (h : step s = .next t) : t.table.Lawful :=
  reflTransGen_keeps (r := PlanTable.Change) (fun lawful change => change.lawful lawful) (step_replans h) hl

/-! ## The budget -/

/-- Eviction ends with the laws kept and no slot over budget (R20, R21). -/
theorem PlanTable.Lawful.evicted {t : PlanTable} (hl : t.Lawful) (budget : Nat) :
    (t.evicted budget).Lawful ∧ (t.evicted budget).WithinBudget budget := by
  have := evict_lawful { State.reset with table := t, cfg := { Configuration.reset with budget := budget } } hl
  rwa [evict_table] at this

theorem PlanTable.Lawful.expired {t : PlanTable} (hl : t.Lawful) (expiry : Nat) (as : List Address) :
    (as.foldl (PlanTable.expired expiry) t).Lawful :=
  List.foldlRecOn as _ hl fun _ lawful a _ => ((lawful.setPeer _ _).removeOwner a).1

/-- Every event of the Plan Table ends with its eviction. -/
theorem PlanTable.Revision.lawful {cfg : Configuration} {t u : PlanTable} (h : t.Revision cfg u) (hl : t.Lawful) :
    u.Lawful ∧ u.WithinBudget cfg.budget := by
  cases h with
  | announce a cycleAge => exact ((hl.overwrite a _).setPeer _ _).evicted _
  | claim c => exact (hl.insert _).1.evicted _
  | release a c => exact (hl.removeKey a c).1.evicted _
  | expire as => exact (hl.expired _ as).evicted _
  | cycle =>
    have aged : t.agePeers.Lawful := hl.of_eq rfl rfl rfl
    exact (aged.expired _ _).evicted _

theorem PlanTable.WithinBudget.removeAll {t : PlanTable} {budget : Nat} (h : t.WithinBudget budget) (hs : List Holding) :
    (t.removeAll hs).WithinBudget budget :=
  List.foldlRecOn hs _ h fun _ within g _ => within.remove g

theorem PlanTable.reset_withinBudget (budget : Nat) : PlanTable.reset.WithinBudget budget := by
  intro k
  simp [PlanTable.reset]

/-- Behind every event the plan is lawful and within the budget. -/
theorem State.TableMoves.within {s t : State} (m : s.TableMoves t) (h : s.table.Lawful ∧ s.table.WithinBudget s.cfg.budget) :
    t.table.Lawful ∧ t.table.WithinBudget t.cfg.budget := by
  obtain ⟨lawful, within⟩ := h
  rcases m with empty | ⟨cfg, becomes⟩
  · rw [empty]
    exact ⟨PlanTable.reset_lawful, PlanTable.reset_withinBudget _⟩
  · rw [cfg]
    generalize t.table = u at becomes
    cases becomes with
    | same => exact ⟨lawful, within⟩
    | revised h => exact h.lawful lawful
    | keepOwn =>
      refine ⟨lawful.keepOwn _, fun k => ?_⟩
      simp only [PlanTable.keepOwn]
      exact within.removeAll _ k
    | ageOwn => exact ⟨lawful.setPeer _ _, within⟩

theorem kept_withinBudget : Kept fun s => s.table.Lawful ∧ s.table.WithinBudget s.cfg.budget where
  edge h e := e.table.within h
  passing h p := by rw [p.keeps.table, p.keeps.cfg]; exact h
  reset _ _ := ⟨PlanTable.reset_lawful, PlanTable.reset_withinBudget _⟩

/-- A lawful plan holds at most one holding for each of an owner's 12 channels. -/
theorem PlanTable.Lawful.owned_length_le {t : PlanTable} (hl : t.Lawful) (a : Address) :
    (t.plan.filter fun h => decide (h.owner = a)).length ≤ 12 := by
  have nodup : ((t.plan.filter fun h => decide (h.owner = a)).map Holding.channel).Nodup := by
    refine List.pairwise_map.2 ((hl.1.filter _).imp_of_mem fun {g h} hg hh lt same => ?_)
    obtain ⟨-, ownerG⟩ := List.mem_filter.1 hg
    obtain ⟨-, ownerH⟩ := List.mem_filter.1 hh
    rw [decide_eq_true_eq] at ownerG ownerH
    rw [Holding.key, Holding.key, ownerG, ownerH, same] at lt
    exact lt_irrefl _ lt
  have := nodup.length_le_card
  rwa [List.length_map, Fintype.card_fin] at this

/-- Settles O52: eviction ends every event of the Plan Table, and nothing else raises a slot sum. -/
theorem thePlanStaysLawfulAndWithinBudget : Obligations.ThePlanStaysLawfulAndWithinBudget :=
  ⟨fun _ _ hl => step_lawful hl, fun _ _ lawful within h => (kept_withinBudget.step ⟨lawful, within⟩ h).2,
    fun _ lawful => ⟨lawful.plan_length_le, lawful.owned_length_le⟩⟩

end Sys2Proof.Machine
end

section
/-! The station at every step: what a change can make of the station state and the configuration, what the detached states leave at rest,
and the laws of a configured station. -/

namespace Sys2Proof.Machine

/-! ## What a change can make of the configuration and the station state -/

/-- A part that is configured stays so, with its configuration, its event mask and its ratings; and HALT stays HALT. -/
structure State.StaysConfigured (s t : State) : Prop where
  configured : s.station.state ≠ .unconfigured → t.station.state ≠ .unconfigured
  cfg : s.station.state ≠ .unconfigured → t.cfg = s.cfg
  mask : s.station.state ≠ .unconfigured → t.port.mask = s.port.mask
  rating (c : ChannelId) : s.station.state ≠ .unconfigured → t.channels[c].rating = s.channels[c].rating
  halted : s.station.state = .halt → t.station.state = .halt

theorem State.StaysConfigured.of_eq {s t : State} (station : t.station.state = s.station.state) (cfg : t.cfg = s.cfg)
    (mask : t.port.mask = s.port.mask) (channels : t.channels = s.channels) : s.StaysConfigured t :=
  ⟨fun h => station ▸ h, fun _ => cfg, fun _ => mask, fun c _ => by rw [channels], fun h => station.trans h⟩

theorem State.StaysConfigured.trans {s t u : State} (h : s.StaysConfigured t) (g : t.StaysConfigured u) : s.StaysConfigured u where
  configured n := g.configured (h.configured n)
  cfg n := (g.cfg (h.configured n)).trans (h.cfg n)
  mask n := (g.mask (h.configured n)).trans (h.mask n)
  rating c n := (g.rating c (h.configured n)).trans (h.rating c n)
  halted e := g.halted (h.halted e)

theorem LocalPort.post_mask (p : LocalPort) (r : EventRecord) : (p.post r).mask = p.mask := by
  unfold LocalPort.post LocalPort.store
  repeat' split
  all_goals rfl

theorem shiftTo_mask (position : Nat) (s : State) : (shiftTo position s).port.mask = s.port.mask := by
  unfold shiftTo LocalPort.removeHead
  dsimp only
  repeat' split
  all_goals rfl

theorem LocalPort.Handles.mask {p q : LocalPort} (h : p.Handles q) : q.mask = p.mask := by
  cases h with
  | shift replying position s port => rw [shiftTo_mask, port]
  | fall | fallUnready | rise | receive | respond | event => rfl

theorem Channel.unspan_rating (ch : Channel) : ch.unspan.rating = ch.rating := by
  unfold Channel.unspan
  split <;> rfl

/-- An entry into another state than UNCONFIGURED, but for HALT. -/
theorem State.StaysConfigured.enters {s t : State} (station : t.station.state ≠ .unconfigured) (cfg : t.cfg = s.cfg)
    (mask : t.port.mask = s.port.mask) (rating : ∀ c : ChannelId, t.channels[c].rating = s.channels[c].rating)
    (notHalt : s.station.state ≠ .halt ∨ t.station.state = .halt) : s.StaysConfigured t :=
  ⟨fun _ => station, fun _ => cfg, fun _ => mask, fun c _ => rating c, fun h => notHalt.resolve_left (absurd h)⟩

theorem State.windowOpen_state {s : State} (h : s.windowOpen = true) :
    (s.station.state = .listen ∨ s.station.state = .resync) ∧ s.station.opened = true := by
  simpa [State.windowOpen] using h

theorem Outside.staysConfigured {s t : State} (h : Outside s t) : s.StaysConfigured t := by
  cases h with
  | configure a unconfigured =>
    exact ⟨fun n => absurd unconfigured n, fun n => absurd unconfigured n, fun n => absurd unconfigured n,
      fun _ n => absurd unconfigured n, fun e => by rw [unconfigured] at e; cases e⟩
  | port h => exact .of_eq rfl rfl h.mask rfl
  | fallSync | fallData | holdSync | holdData | ready => exact .of_eq rfl rfl rfl rfl

theorem Change.staysConfigured {s t : State} (h : Change s t) : s.StaysConfigured t := by
  have unspanned (c : ChannelId) : (s.channels.map Channel.unspan)[c].rating = s.channels[c].rating := by
    simp [Channel.unspan_rating]
  cases h with
  | outside h => exact h.staysConfigured
  | ageOwn => unfold ageOwnToInterval; dsimp only; split <;> exact .of_eq rfl rfl rfl rfl
  | countVoid =>
    rw [countVoid_eq]
    refine .of_eq rfl rfl ?_ rfl
    dsimp only
    split
    · exact LocalPort.post_mask ..
    · rfl
  | channels rating => exact ⟨id, fun _ => rfl, fun _ => rfl, fun c _ => rating c, id⟩
  | post => exact .of_eq rfl rfl (LocalPort.post_mask ..) rfl
  | fault attached => exact .enters nofun rfl rfl unspanned (.inl fun e => by rw [e] at attached; cases attached)
  | halt => exact .enters nofun rfl rfl unspanned (.inr rfl)
  | quiet leaving => exact .enters nofun rfl rfl unspanned (.inl (by rw [leaving]; decide))
  | recover fault => exact .enters nofun rfl rfl (fun _ => rfl) (.inl (by rw [fault]; decide))
  | listen quiet => exact .enters nofun rfl rfl (fun _ => rfl) (.inl (by rw [quiet]; decide))
  | join ends =>
    refine .enters nofun rfl rfl (fun _ => rfl) (.inl ?_)
    rcases ends with window | quiet
    · rcases (State.windowOpen_state window).1 with e | e <;> rw [e] <;> decide
    · rw [quiet]; decide
  | leave joined => exact .enters nofun rfl rfl (fun _ => rfl) (.inl (by rw [joined]; decide))
  | divert state => exact .enters nofun rfl rfl (fun _ => rfl) (.inl (by rcases state with e | e <;> rw [e] <;> decide))
  | revise | shed | offer | clearDrive | drive | endTransmission | stopDriving | traffic | rollcall
  | stale | openFrame | alignGap | alignFrame | readMessage | endFrame | judge | becomeIdle | startPulse | acquire | releaseSync =>
    exact .of_eq rfl rfl rfl rfl

theorem EdgeChange.staysConfigured {s t : State} (h : EdgeChange s t) : s.StaysConfigured t := by
  cases h with
  | change h => exact h.staysConfigured
  | drive => exact .of_eq (by simp) (by simp) (by simp) (by simp)
  | timer | engine | openWindow | nextCycle => exact .of_eq rfl rfl rfl rfl

theorem Passing.staysConfigured {s t : State} (h : Passing s t) : s.StaysConfigured t :=
  .of_eq (by rw [h.keeps.station]) h.keeps.cfg (by rw [h.keeps.port]) h.keeps.channels

theorem Move.staysConfigured {s t : State} (h : Move s t) : s.StaysConfigured t := by
  have same (u : State) : u.StaysConfigured u := .of_eq rfl rfl rfl rfl
  cases h with
  | outside h => exact h.staysConfigured
  | passing h => exact h.staysConfigured
  | live _ h => exact Changes.keeps (P := s.StaysConfigured) (fun g c => g.trans c.staysConfigured) h (same s)
  | edge running hold allowed arises _ =>
    exact EdgeChanges.keeps (P := s.StaysConfigured) (fun g c => g.trans c.staysConfigured) (Move.edge_changes running hold _ arises) (same s)

/-- Every step but a reset leaves a part configured as it is. -/
theorem step_staysConfigured {s t : State} (h : step s = .next t) (noReset : ∀ c ∈ s.pending.head?, ¬c.resets) :
    s.StaysConfigured t := by
  have popped : s.StaysConfigured s.popped := .of_eq rfl rfl rfl rfl
  have edges {u v : State} (c : EdgeChanges u v) : s.StaysConfigured u → s.StaysConfigured v :=
    EdgeChanges.keeps (fun g c => g.trans c.staysConfigured) c
  rcases step_cases h with ⟨i, front, reset, -⟩ | ⟨-, changes⟩ | moves
  · exact absurd reset (noReset i front)
  · refine edges (EdgeChanges.of_changes changes) ?_
    split
    · exact popped
    · exact edges (edgeEngine_changes _) popped
  · exact Moves.keeps (P := s.StaysConfigured) (fun g m => g.trans m.staysConfigured) moves popped

/-- Settles O60: no row but a reset leaves HALT or touches what a CONFIG has fixed. -/
theorem onlyResetLeavesHaltOrChangesTheConfiguration : Obligations.OnlyResetLeavesHaltOrChangesTheConfiguration := by
  intro s t h noReset
  have stays := step_staysConfigured h fun c front resets => by
    obtain ⟨notPower, notPin, notRelease⟩ := noReset c front
    cases c with
    | powerOnReset => exact notPower rfl
    | resetPin => exact notPin rfl
    | resetRelease => exact notRelease rfl
    | _ => exact resets
  exact ⟨fun _ => stays.halted, fun n => ⟨stays.cfg n, stays.mask n, stays.configured n, fun c => stays.rating c n⟩⟩

end Sys2Proof.Machine
end

section
/-! The laws that a part in UNCONFIGURED and a configured part keep apart from each other: the ranges of the announce ages and the
configuration, the causes and window items, and the reset values of UNCONFIGURED. -/

namespace Sys2Proof.Machine

/-- The law `W` in UNCONFIGURED and the law `Q` in every other state. -/
def State.Apart (W Q : State → Prop) (s : State) : Prop :=
  (s.station.state = .unconfigured → W s) ∧ (s.station.state ≠ .unconfigured → Q s)

theorem State.Apart.waits {W Q : State → Prop} {s : State} (unconfigured : s.station.state = .unconfigured) (h : W s) : s.Apart W Q :=
  ⟨fun _ => h, fun n => absurd unconfigured n⟩

theorem State.Apart.runs {W Q : State → Prop} {s : State} (configured : s.station.state ≠ .unconfigured) (h : Q s) : s.Apart W Q :=
  ⟨fun e => absurd e configured, fun _ => h⟩

/-- What keeps the two laws: in UNCONFIGURED only the outside world acts and time passes, until CONFIG. -/
structure KeptApart (W Q : State → Prop) : Prop where
  idle {s : State} : W s → s.DetachedIdle
  outside {s t : State} : s.station.state = .unconfigured → W s → Outside s t → t.Apart W Q
  waiting {s t : State} : W s → Passing s t → W t
  edge {s t : State} : s.station.state ≠ .unconfigured → Q s → EdgeChange s t → Q t
  passing {s t : State} : Q s → Passing s t → Q t
  reset (s : State) (inputs : ResetInputs) : W (resetKeepingPins inputs s)

theorem KeptApart.edges {W Q : State → Prop} (k : KeptApart W Q) {s t : State} (configured : s.station.state ≠ .unconfigured)
    (h : EdgeChanges s t) (hs : Q s) : t.Apart W Q := by
  have both := h.keeps (P := fun s => s.station.state ≠ .unconfigured ∧ Q s)
    (fun ⟨n, q⟩ e => ⟨e.staysConfigured.configured n, k.edge n q e⟩) ⟨configured, hs⟩
  exact .runs both.1 both.2

theorem KeptApart.move {W Q : State → Prop} (k : KeptApart W Q) {s t : State} (h : s.Apart W Q) (m : Move s t) : t.Apart W Q := by
  obtain ⟨waits, runs⟩ := h
  by_cases unconfigured : s.station.state = .unconfigured
  · have w := waits unconfigured
    have idle := k.idle w
    cases m with
    | outside o => exact k.outside unconfigured w o
    | passing p => exact .waits (by rw [p.keeps.station]; exact unconfigured) (k.waiting w p)
    | live live => exact absurd idle (live unconfigured)
    | edge running => rw [idle.not_running (by rw [unconfigured]; rfl)] at running; cases running
  · have q := runs unconfigured
    cases m with
    | outside o => exact k.edges unconfigured (.of (.change (.outside o))) q
    | passing p => exact .runs (by rw [p.keeps.station]; exact unconfigured) (k.passing q p)
    | live _ c => exact k.edges unconfigured (.of_changes c) q
    | edge running hold allowed arises _ => exact k.edges unconfigured (Move.edge_changes running hold _ arises) q

/-- Every step keeps the two laws. -/
theorem KeptApart.step {W Q : State → Prop} (k : KeptApart W Q) {s t : State} (h : s.popped.Apart W Q) (hs : step s = .next t) :
    t.Apart W Q := by
  rcases step_cases hs with ⟨_, _, _, inputs, rfl | rfl⟩ | ⟨attached, changes⟩ | moves
  · exact .waits rfl (k.reset ..)
  · exact h
  · have configured : s.popped.station.state ≠ .unconfigured := fun e => by
      rw [show s.station.state = .unconfigured from e] at attached
      cases attached
    have q := h.2 configured
    split at changes
    · exact k.edges configured (.of_changes changes) q
    · exact k.edges configured ((edgeEngine_changes _).trans (.of_changes changes)) q
  · exact moves.keeps k.move h

/-! ## UNCONFIGURED -/

theorem resetKeepingPins_idle (inputs : ResetInputs) (s : State) : (resetKeepingPins inputs s).DetachedIdle := by
  simp [State.DetachedIdle, resetKeepingPins, State.reset, CycleTimer.reset, LineInterface.reset, MessageEngine.reset]

/-- What the outside world does in UNCONFIGURED but for CONFIG leaves every block but the pins, the line levels and the port alone. -/
theorem Outside.cases_unconfigured {s t : State} (h : Outside s t) :
    (∃ a, configCheck a = 0 ∧ s.port.phase ≠ .none ∧ t = s.configuredTo a)
      ∨ t = { s with lines := t.lines, port := t.port }
        ∧ t.lines.syncDriving = s.lines.syncDriving ∧ t.lines.dataDriving = s.lines.dataDriving := by
  cases h with
  | configure a _ valid taking => exact .inl ⟨a, valid, taking, rfl⟩
  | fallSync | fallData | holdSync | holdData | port | ready => exact .inr ⟨rfl, rfl, rfl⟩

/-! ## Time at a part that frames nothing and whose timer stands -/

theorem elapse_of_no_frame {s : State} (noFrame : s.engine.frame = none) (d : Nat) :
    elapse d s = passData false d (passClocks d s) := by
  have still : (passClocks d s).engine.frame = none := noFrame
  have pulls : (passClocks d s).pullsData = false := by unfold State.pullsData; rw [still]
  unfold elapse Config.longestFrame
  rw [passBits, still, pulls]

theorem passSlots_of_stopped {s : State} (stopped : s.timer.running = false) : passSlots s = s := by simp [passSlots, stopped]

/-- An idle part stays idle where its pins, its line levels and its port alone change. -/
theorem State.DetachedIdle.of_still {s t : State} (h : s.DetachedIdle)
    (still : t = { s with lines := t.lines, port := t.port }
      ∧ t.lines.syncDriving = s.lines.syncDriving ∧ t.lines.dataDriving = s.lines.dataDriving) : t.DetachedIdle := by
  obtain ⟨same, sync, data⟩ := still
  intro detached
  rw [same] at detached ⊢
  have := h detached
  rw [← sync, ← data] at this
  exact this

theorem passData_timer_running (p : Bool) (d : Nat) (s : State) : (passData p d (passClocks d s)).timer.running = s.timer.running := by
  rw [passData_timer, passClocks_timer]
  split <;> rfl

theorem Passing.at_rest {s t : State} (h : Passing s t) (stopped : s.timer.running = false) (noFrame : s.engine.frame = none) :
    ∃ d, t = passData false d (passClocks d s) := by
  have inMessage (d : Nat) : advanceInMessage d s = passData false d (passClocks d s) :=
    passSlots_of_stopped (by rw [passData_timer_running]; exact stopped)
  cases h with
  | advance d =>
    refine ⟨d, ?_⟩
    rw [← inMessage, Machine.advance, elapse_of_no_frame noFrame]
    rfl
  | inMessage d => exact ⟨d, inMessage d⟩
  | toSlot ahead => rw [State.slotAhead, stopped] at ahead; cases ahead

/-- Time leaves an engine that is OFF as it is. -/
theorem passData_engine_off {s : State} (framing : s.engine.framing = .off) (ending : s.engine.ending = none)
    (noFrame : s.engine.frame = none) (p : Bool) (d : Nat) : (passData p d s).engine = s.engine := by
  have measure : s.recessiveAfter d = s.engine.recessiveTime := by simp [State.recessiveAfter, framing]
  have noEnd : s.endAfter d = none := by simp [State.endAfter, ending]
  rw [passData_engine, measure, noEnd, noFrame, ← ending]
  show { s.engine with frame := none } = s.engine
  rw [← noFrame]

theorem LineInterface.advanceSync_measures {l : LineInterface} (high : l.syncHighTime = 0) (low : l.syncLowTime = 0) (d : Nat)
    {counting : Bool} (idle : counting = false) :
    (l.advanceSync d counting).syncHighTime = 0 ∧ (l.advanceSync d counting).syncLowTime = 0 := by
  subst idle
  unfold LineInterface.advanceSync
  split
  · split
    · exact ⟨high, rfl⟩
    · exact ⟨rfl, rfl⟩
  · exact ⟨rfl, low⟩

theorem LineInterface.advanceData_measures (l : LineInterface) (d : Nat) (p : Bool) {counting : Bool} (idle : counting = false) :
    (l.advanceData d counting p).dominantTime = 0 ∧ (l.advanceData d counting p).syncHighTime = l.syncHighTime
      ∧ (l.advanceData d counting p).syncLowTime = l.syncLowTime := by
  subst idle
  unfold LineInterface.advanceData
  split <;> exact ⟨rfl, rfl, rfl⟩

/-- Time leaves an idle part as it is, but for the levels and the measures of the two lines; and before CONFIG these do not count. -/
theorem Passing.idle {s t : State} (h : Passing s t) (idle : s.DetachedIdle) (detached : s.station.state.attached = false) :
    t = { s with lines := t.lines } ∧ t.lines.syncDriving = s.lines.syncDriving ∧ t.lines.dataDriving = s.lines.dataDriving
      ∧ (s.station.state = .unconfigured → s.lines.syncHighTime = 0 → s.lines.syncLowTime = 0 →
        t.lines.syncHighTime = 0 ∧ t.lines.syncLowTime = 0 ∧ t.lines.dominantTime = 0) := by
  obtain ⟨-, stopped, -, -, -, -, -, framing, ending, noFrame, -, -, transmission, -⟩ := idle detached
  have driving := h.keeps.syncDriving
  obtain ⟨d, rfl⟩ := h.at_rest stopped noFrame
  have timer : (passData false d (passClocks d s)).timer = s.timer := by rw [passData_timer, passClocks_timer, stopped]; rfl
  have engine : (passData false d (passClocks d s)).engine = s.engine :=
    passData_engine_off (s := passClocks d s) framing ending noFrame false d
  refine ⟨?_, driving, ?_, fun unconfigured high low => ?_⟩
  · rw [State.mk.injEq]
    exact ⟨rfl, rfl, rfl, timer, rfl, engine, rfl, rfl, rfl, rfl, rfl, rfl⟩
  · have kept : (passClocks d s).lines.dataDriving = s.lines.dataDriving := (passClocks_data d s).2.2
    show ((passClocks d s).lines.dataDriving || (decide (s.engine.transmission = .driving) && _)) = _
    rw [kept, transmission]
    simp
  · have counting : s.counting = false := by simp [State.counting, unconfigured]
    obtain ⟨clockHigh, clockLow⟩ := LineInterface.advanceSync_measures high low d counting
    obtain ⟨dominant, dataHigh, dataLow⟩ :=
      (passClocks d s).lines.advanceData_measures d false (counting := (passClocks d s).counting) counting
    exact ⟨dataHigh.trans clockHigh, dataLow.trans clockLow, dominant⟩

theorem State.DetachedIdle.passing {s t : State} (h : s.DetachedIdle) (p : Passing s t) : t.DetachedIdle := by
  intro detached
  rw [p.keeps.station] at detached
  obtain ⟨same, sync, data, -⟩ := p.idle h detached
  refine h.of_still ⟨?_, sync, data⟩ (by rw [p.keeps.station]; exact detached)
  rw [same]

/-! ## The ranges of the holdings (R1) -/

theorem PlanTable.mem_foldl_remove {hs : List Holding} {t : PlanTable} {g : Holding} (h : g ∈ (hs.foldl PlanTable.remove t).plan) :
    g ∈ t.plan := by
  have plan := t.removeAll_plan hs
  rw [PlanTable.removeAll] at plan
  rw [plan] at h
  exact List.diff_subset _ _ h

theorem PlanTable.mem_evicted {t : PlanTable} {budget : Nat} {g : Holding} (h : g ∈ (t.evicted budget).plan) : g ∈ t.plan :=
  PlanTable.mem_foldl_remove h

theorem PlanTable.mem_expired {as : List Address} {t : PlanTable} {expiry : Nat} {g : Holding}
    (h : g ∈ (as.foldl (PlanTable.expired expiry) t).plan) : g ∈ t.plan :=
  List.foldlRecOn as (PlanTable.expired expiry) (motive := fun u : PlanTable => g ∈ u.plan → g ∈ t.plan) id
    (fun _ ih _ _ m => ih (PlanTable.mem_removeOwner m).1) h

/-- The ranges of R1. -/
def Holding.InRange (h : Holding) : Prop := 1 ≤ h.length ∧ h.length ≤ 64 ∧ 1 ≤ h.rating ∧ h.rating ≤ 1023

theorem holdingOf_inRange (a : Address) (c : ChannelId) {e : WireEntry} (rated : e.rating ≠ 0) : (holdingOf a c e).InRange := by
  have length := e.lengthLess1.isLt
  have rating := e.rating.isLt
  have positive : e.rating.toNat ≠ 0 := fun zero => rated (BitVec.eq_of_toNat_eq zero)
  simp only [Holding.InRange, holdingOf]
  omega

theorem PlanTable.InRange.overwrite {t : PlanTable} (h : t.InRange) (a : Address) {entries : List WireEntry}
    (rated : ∀ e ∈ entries, e.rating ≠ 0) : (t.overwrite a entries).InRange := by
  unfold PlanTable.overwrite
  refine List.foldlRecOn entries _ (motive := PlanTable.InRange) (fun g m => h g (PlanTable.mem_removeOwner m).1) fun u ranged e he => ?_
  cases channelOf? e.channel with
  | none => exact ranged
  | some c =>
    intro g m
    rcases PlanTable.mem_insert m with rfl | m
    · exact holdingOf_inRange a c (rated e he)
    · exact ranged g m

theorem PlanTable.Revision.inRange {cfg : Configuration} {t u : PlanTable} (h : t.Revision cfg u) (ranged : t.InRange) : u.InRange := by
  intro g m
  cases h with
  | announce a cycleAge rated => 
    have announced : g ∈ ((t.overwrite a _).setPeer a _).plan := PlanTable.mem_evicted m
    exact ranged.overwrite a rated g announced
  | claim c rated =>
    rcases PlanTable.mem_insert (PlanTable.mem_evicted m) with rfl | m
    · exact holdingOf_inRange _ c rated
    · exact ranged g m
  | release a c => exact ranged g (PlanTable.mem_removeKey (PlanTable.mem_evicted m))
  | expire as => exact ranged g (PlanTable.mem_expired (PlanTable.mem_evicted m))
  | cycle =>
    have aged : g ∈ t.agePeers.plan := PlanTable.mem_expired (PlanTable.mem_evicted m)
    exact ranged g aged

theorem State.TableMoves.inRange {s t : State} (m : s.TableMoves t) (h : s.table.InRange) : t.table.InRange := by
  rcases m with empty | ⟨-, becomes⟩
  · rw [empty]
    exact fun g m => absurd m List.not_mem_nil
  · generalize t.table = u at becomes
    cases becomes with
    | same => exact h
    | revised r => exact r.inRange h
    | keepOwn => exact fun g m => h g (PlanTable.mem_keepOwn m).1
    | ageOwn => exact h

theorem kept_inRange : Kept fun s => s.table.InRange where
  edge h e := e.table.inRange h
  passing h p := by rw [p.keeps.table]; exact h
  reset _ _ := fun _ m => absurd m List.not_mem_nil

/-! ## The announce ages (R29, R35) -/

@[simp] theorem PlanTable.evicted_peers (budget : Nat) (t : PlanTable) : (t.evicted budget).peers = t.peers := t.removeAll_peers _

theorem PlanTable.expired_peers (as : List Address) (expiry : Nat) (t : PlanTable) (a : Address) :
    (as.foldl (PlanTable.expired expiry) t).peers[a]
      = if a ∈ as then { t.peers[a] with present := false, age := expiry } else t.peers[a] := by
  induction as generalizing t with
  | nil => rfl
  | cons b bs ih =>
    rw [List.foldl_cons, ih]
    have first : (t.expired expiry b).peers[a]
        = if a = b then { t.peers[b] with present := false, age := expiry } else t.peers[a] := by
      rw [PlanTable.expired, PlanTable.removeOwner_peers, PlanTable.setPeer_get]
    by_cases e : a = b
    · subst e
      simp [first]
    · simp [first, e]

theorem PlanTable.agePeers_get (t : PlanTable) (a : Address) :
    t.agePeers.peers[a] = if t.peers[a].present then { t.peers[a] with age := t.peers[a].age + 1 } else t.peers[a] := by
  simp [PlanTable.agePeers]

/-- An announce age is 0 to E, and below E at a PRESENT record. -/
def Peer.AgeWithin (expiry : Nat) (p : Peer) : Prop := p.age ≤ expiry ∧ (p.present = true → p.age < expiry)

theorem Peer.reset_ageWithin (expiry : Nat) : Peer.reset.AgeWithin expiry := ⟨Nat.zero_le _, nofun⟩

theorem PlanTable.AgesWithin.setPeer {t : PlanTable} {expiry : Nat} (h : t.AgesWithin expiry) (a : Address) {p : Peer}
    (within : p.AgeWithin expiry) : (t.setPeer a p).AgesWithin expiry := by
  intro b
  rw [PlanTable.setPeer_get]
  split
  · exact within
  · exact h b

theorem PlanTable.AgesWithin.of_peers {t u : PlanTable} {expiry : Nat} (h : t.AgesWithin expiry) (peers : u.peers = t.peers) :
    u.AgesWithin expiry := by
  unfold PlanTable.AgesWithin
  rw [peers]
  exact h

theorem PlanTable.AgesWithin.expired {t : PlanTable} {expiry : Nat} {as : List Address}
    (h : ∀ a ∉ as, t.peers[a].AgeWithin expiry) : (as.foldl (PlanTable.expired expiry) t).AgesWithin expiry := by
  intro a
  rw [PlanTable.expired_peers]
  split
  · exact ⟨Nat.le_refl _, nofun⟩
  · next left => exact h a left

theorem PlanTable.Revision.agesWithin {cfg : Configuration} (valid : cfg.Valid) {t u : PlanTable} (h : t.Revision cfg u)
    (within : t.AgesWithin (3 * cfg.interval)) : u.AgesWithin (3 * cfg.interval) := by
  obtain ⟨-, -, -, -, positive, -⟩ := valid
  cases h with
  | announce a cycleAge =>
    refine PlanTable.AgesWithin.of_peers ?_ (PlanTable.evicted_peers ..)
    exact (within.of_peers (t.overwrite_mem_peers a _).2).setPeer a ⟨Nat.zero_le _, fun _ => by dsimp only; omega⟩
  | claim c => exact within.of_peers (by simp)
  | release a c => exact within.of_peers (by simp)
  | expire as => exact (PlanTable.AgesWithin.expired fun a _ => within a).of_peers (PlanTable.evicted_peers ..)
  | cycle due =>
    refine (PlanTable.AgesWithin.expired fun a left => ?_).of_peers (PlanTable.evicted_peers ..)
    have young (present : t.agePeers.peers[a].present = true) : t.agePeers.peers[a].age < 3 * cfg.interval :=
      Nat.lt_of_not_le fun old => left (due a present old)
    have was := within a
    rw [PlanTable.agePeers_get] at young ⊢
    by_cases present : t.peers[a].present = true
    · rw [if_pos present] at young ⊢
      exact ⟨Nat.le_of_lt (young present), young⟩
    · rw [if_neg present]
      exact was

theorem PlanTable.reset_agesWithin (expiry : Nat) : PlanTable.reset.AgesWithin expiry := by
  intro a
  rw [PlanTable.reset_peer]
  exact Peer.reset_ageWithin expiry

/-- The checks of R154 fix the ranges of the configuration. -/
theorem configCheck_valid {a : ConfigArgs} (h : configCheck a = 0) : (configurationOf a).Valid := by
  unfold configCheck at h
  split_ifs at h with address rate slot budget interval cycle
  have code : (configurationOf a).rateCode.val = a.rateCode.toNat := Nat.mod_eq_of_lt (by omega)
  unfold Configuration.Valid
  rw [code]
  simp only [configurationOf]
  omega

theorem State.TableMoves.agesWithin {s t : State} (m : s.TableMoves t) (valid : s.cfg.Valid) (h : s.table.AgesWithin s.expiry) :
    t.table.AgesWithin t.expiry := by
  rcases m with empty | ⟨cfg, becomes⟩
  · rw [empty]
    exact PlanTable.reset_agesWithin _
  · unfold State.expiry at *
    rw [cfg]
    generalize t.table = u at becomes
    have positive := valid
    obtain ⟨-, -, -, -, positive, -⟩ := positive
    cases becomes with
    | same => exact h
    | revised r => exact r.agesWithin valid h
    | keepOwn =>
      intro a
      have peer : (s.table.keepOwn s.cfg.address).peers[a] = if a = s.cfg.address then s.table.peers[a] else .reset := by
        simp [PlanTable.keepOwn, PlanTable.keepOwner]
      rw [peer]
      split
      · exact h a
      · exact Peer.reset_ageWithin _
    | ageOwn present =>
      refine h.setPeer _ ⟨?_, fun _ => ?_⟩
      · have := (h s.cfg.address).1
        dsimp only
        omega
      · have := (h s.cfg.address).2 present
        dsimp only
        omega

theorem keptApart_ages : KeptApart State.DetachedIdle fun s => s.cfg.Valid ∧ s.table.AgesWithin s.expiry where
  idle := id
  outside unconfigured idle o := by
    rcases o.cases_unconfigured with ⟨a, valid, -, rfl⟩ | still
    · exact .runs nofun ⟨configCheck_valid valid, PlanTable.reset_agesWithin _⟩
    · exact .waits (by rw [still.1]; exact unconfigured) (idle.of_still still)
  waiting w p := w.passing p
  edge configured h e := ⟨by rw [e.staysConfigured.cfg configured]; exact h.1, e.table.agesWithin h.1 h.2⟩
  passing h p := by
    unfold State.expiry
    rw [p.keeps.table, p.keeps.cfg]
    exact h
  reset s inputs := resetKeepingPins_idle inputs s

/-- Settles O54: a configured part keeps the ages by every change of its plan table, and before CONFIG the peer table is empty. -/
theorem holdingsAndAgesStayInRange : Obligations.HoldingsAndAgesStayInRange := by
  refine ⟨fun s t h hs => kept_inRange.step h hs, fun s t ages configured idle hs => ?_⟩
  have before : s.popped.Apart State.DetachedIdle fun s => s.cfg.Valid ∧ s.table.AgesWithin s.expiry :=
    ⟨fun _ => idle, fun n => ⟨configured n, ages⟩⟩
  obtain ⟨waits, runs⟩ := keptApart_ages.step before hs
  refine ⟨?_, fun n => (runs n).1⟩
  by_cases n : t.station.state = .unconfigured
  · obtain ⟨empty, -⟩ := waits n (by rw [n]; rfl)
    rw [empty]
    exact PlanTable.reset_agesWithin _
  · exact (runs n).2

end Sys2Proof.Machine
end

section
/-! Causes and window items (R131, R135 to R137), and the reset values of UNCONFIGURED, at every step. -/

namespace Sys2Proof.Machine

/-! ## Causes and window items -/

/-- An entry into a station state leaves a lawful station: the cause is one of the state's and the window items are reset. -/
theorem State.StationLawful.entered {s : State} (reset : s.station.windowReset) (lawful : s.station.cause ∈ s.station.state.causes) :
    s.StationLawful := by
  refine ⟨lawful, fun _ => reset, fun window => ?_⟩
  have opened := (State.windowOpen_state window).2
  rw [reset.1] at opened
  cases opened

/-- The law says something of the station and of E alone. -/
theorem State.StationLawful.of_eq {s t : State} (h : s.StationLawful) (station : t.station = s.station) (expiry : t.expiry = s.expiry) :
    t.StationLawful := by
  unfold State.StationLawful State.windowOpen at *
  rw [station, expiry]
  exact h

/-- The marks of an open window are free. -/
theorem State.StationLawful.marked {s t : State} (h : s.StationLawful) (window : s.windowOpen = true)
    (marked : ∃ traffic rollcall, t.station = { s.station with traffic := traffic, rollcall := rollcall }) (expiry : t.expiry = s.expiry) :
    t.StationLawful := by
  obtain ⟨traffic, rollcall, e⟩ := marked
  have still : t.windowOpen = s.windowOpen := by unfold State.windowOpen; rw [e]
  obtain ⟨cause, -, count⟩ := h
  refine ⟨by rw [e]; exact cause, fun closed => ?_, fun _ => ?_⟩
  · rw [still, window] at closed
    cases closed
  · rw [expiry, e]
    exact count window

theorem Outside.stationLawful {s t : State} (o : Outside s t) (h : s.StationLawful) : t.StationLawful := by
  rcases o.cases_unconfigured with ⟨a, -, -, rfl⟩ | ⟨same, -⟩
  · exact .entered ⟨rfl, rfl, rfl, rfl⟩ (.head _)
  · exact h.of_eq (by rw [same]) (by rw [same]; rfl)

theorem Change.stationLawful {s t : State} (c : Change s t) (h : s.StationLawful) : t.StationLawful := by
  cases c with
  | outside o => exact o.stationLawful h
  | ageOwn => unfold ageOwnToInterval; dsimp only; split <;> exact h
  | countVoid => rw [countVoid_eq]; exact h
  | fault _ stuck => exact .entered ⟨rfl, rfl, rfl, rfl⟩ stuck
  | halt clash => exact .entered ⟨rfl, rfl, rfl, rfl⟩ clash
  | quiet => exact .entered ⟨rfl, rfl, rfl, rfl⟩ (.head _)
  | recover => exact .entered ⟨rfl, rfl, rfl, rfl⟩ (by decide : Cause.recovery ∈ StationState.listen.causes)
  | listen => exact .entered ⟨rfl, rfl, rfl, rfl⟩ (by decide : Cause.stale ∈ StationState.listen.causes)
  | join _ lawful => exact .entered ⟨rfl, rfl, rfl, rfl⟩ lawful
  | leave => exact .entered ⟨rfl, rfl, rfl, rfl⟩ (.head _)
  | divert _ lawful => exact .entered ⟨rfl, rfl, rfl, rfl⟩ lawful
  | traffic window => exact h.marked window ⟨_, _, rfl⟩ rfl
  | rollcall window => exact h.marked window ⟨_, _, rfl⟩ rfl
  | stale => exact h
  | revise | shed | offer | channels | post | clearDrive | drive | endTransmission | stopDriving
  | openFrame | alignGap | alignFrame | readMessage | endFrame | judge | becomeIdle | startPulse | acquire | releaseSync =>
    exact h

theorem EdgeChange.stationLawful {s t : State} (e : EdgeChange s t) (expiry : 0 < s.expiry) (h : s.StationLawful) : t.StationLawful := by
  cases e with
  | change c => exact c.stationLawful h
  | timer | engine => exact h
  | drive => exact h.of_eq (by simp) (by simp [State.expiry])
  | openWindow state closed =>
    have isOpen : (Machine.openWindow s).windowOpen = true := by
      unfold State.windowOpen Machine.openWindow
      rcases state with e | e <;> simp [e]
    obtain ⟨cause, reset, -⟩ := h
    refine ⟨cause, fun shut => ?_, fun _ => ?_⟩
    · rw [isOpen] at shut
      cases shut
    · obtain ⟨-, count, -⟩ := reset (by simp [State.windowOpen, closed])
      show s.station.count < s.expiry
      rw [count]
      exact expiry
  | nextCycle window goes =>
    obtain ⟨cause, -⟩ := h
    refine ⟨cause, fun shut => ?_, fun _ => goes⟩
    rw [show s.windowOpen = false from shut] at window
    cases window

theorem Passing.stationLawful {s t : State} (p : Passing s t) (h : s.StationLawful) : t.StationLawful :=
  h.of_eq p.keeps.station (by unfold State.expiry; rw [p.keeps.cfg])

theorem keptApart_station :
    KeptApart (fun s => s.DetachedIdle ∧ s.StationLawful) fun s => s.cfg.Valid ∧ s.StationLawful where
  idle := And.left
  outside unconfigured w o := by
    have lawful := o.stationLawful w.2
    rcases o.cases_unconfigured with ⟨a, valid, -, rfl⟩ | still
    · exact .runs nofun ⟨configCheck_valid valid, lawful⟩
    · exact .waits (by rw [still.1]; exact unconfigured) ⟨w.1.of_still still, lawful⟩
  waiting w p := ⟨w.1.passing p, p.stationLawful w.2⟩
  edge configured h e := by
    obtain ⟨-, -, -, -, positive, -⟩ := h.1
    exact ⟨by rw [e.staysConfigured.cfg configured]; exact h.1, e.stationLawful (by unfold State.expiry; omega) h.2⟩
  passing h p := ⟨by rw [p.keeps.cfg]; exact h.1, p.stationLawful h.2⟩
  reset s inputs := ⟨resetKeepingPins_idle inputs s, .entered ⟨rfl, rfl, rfl, rfl⟩ (.head _)⟩

/-- Settles O55: every entry takes a cause of its state and resets the window items, and an edge counts an open window on only below E. -/
theorem causesAndWindowItemsStayLawful : Obligations.CausesAndWindowItemsStayLawful := by
  intro s t lawful configured idle hs
  have before : s.popped.Apart (fun s => s.DetachedIdle ∧ s.StationLawful) fun s => s.cfg.Valid ∧ s.StationLawful :=
    ⟨fun _ => ⟨idle, lawful⟩, fun n => ⟨configured n, lawful⟩⟩
  obtain ⟨waits, runs⟩ := keptApart_station.step before hs
  refine ⟨?_, fun n => (runs n).1⟩
  by_cases n : t.station.state = .unconfigured
  · exact (waits n).2
  · exact (runs n).2

/-! ## The reset values of UNCONFIGURED -/

/-- The part waits for CONFIG with every item at its reset value, and its port does nothing while it is held in reset. -/
def State.Untouched (s : State) : Prop :=
  s.AtReset ∧ (s.heldInReset = true → s.port.phase = .none ∧ s.port.ready = false)

theorem State.AtReset.idle {s : State} (h : s.AtReset) : s.DetachedIdle := by
  obtain ⟨-, table, timer, engine, sched, -, drive, -, sync, data, -⟩ := h
  intro _
  rw [table, timer, engine, sched, drive]
  exact ⟨rfl, rfl, rfl, rfl, rfl, sync, data, rfl, rfl, rfl, rfl, rfl, rfl, rfl, rfl, rfl⟩

theorem State.AtReset.unconfigured {s : State} (h : s.AtReset) : s.station.state = .unconfigured := by
  obtain ⟨-, -, -, -, -, -, -, station, -⟩ := h
  rw [station]
  rfl

theorem LocalPort.Handles.untouched {p q : LocalPort} (h : p.Handles q)
    (quiet : p.events = [] ∧ p.pendingRemoval = false ∧ p.mask = 0 ∧ p.attn = false) :
    q.events = [] ∧ q.pendingRemoval = false ∧ q.mask = 0 ∧ q.attn = false := by
  obtain ⟨events, removal, mask, attn⟩ := quiet
  cases h with
  | event _ head => rw [events] at head; cases head
  | rise => exact ⟨events, rfl, mask, attn⟩
  | shift replying position s port =>
    subst port
    unfold shiftTo
    simp only [removal, Bool.false_and, Bool.false_eq_true, if_false]
    split <;> exact ⟨events, rfl, mask, attn⟩
  | fall | fallUnready | receive | respond => exact ⟨events, removal, mask, attn⟩

theorem LocalPort.Handles.held {p q : LocalPort} (h : p.Handles q) (held : p.phase = .none ∧ p.ready = false) :
    q.phase = .none ∧ q.ready = false := by
  obtain ⟨phase, unready⟩ := held
  cases h with
  | fall _ ready => rw [unready] at ready; cases ready
  | fallUnready => exact ⟨phase, unready⟩
  | rise => exact ⟨rfl, unready⟩
  | receive taking => rw [phase] at taking; rcases taking with e | e <;> cases e
  | respond taking => rw [phase] at taking; rcases taking with e | e <;> cases e
  | event taking => rw [phase] at taking; rcases taking with e | e <;> cases e
  | shift replying => rw [phase] at replying; cases replying

theorem Outside.untouched {s t : State} (o : Outside s t) (w : s.Untouched) :
    t.Untouched ∨ s.heldInReset = false ∧ ∃ a, t = s.configuredTo a := by
  obtain ⟨reset, held⟩ := w
  have items := reset
  obtain ⟨cfg, table, timer, engine, sched, channels, drive, station, sync, data, high, low, dominant, quiet⟩ := items
  cases o with
  | configure a _ _ taking =>
    refine .inr ⟨?_, a, rfl⟩
    by_contra isHeld
    exact taking (held (Bool.of_not_eq_false isHeld)).1
  | fallSync => exact .inl ⟨⟨cfg, table, timer, engine, sched, channels, drive, station, sync, data, rfl, rfl, dominant, quiet⟩, held⟩
  | fallData => exact .inl ⟨⟨cfg, table, timer, engine, sched, channels, drive, station, sync, data, high, low, rfl, quiet⟩, held⟩
  | holdSync | holdData => exact .inl ⟨reset, held⟩
  | port h =>
    have still := h.untouched quiet
    exact .inl ⟨⟨cfg, table, timer, engine, sched, channels, drive, station, sync, data, high, low, dominant, still⟩,
      fun isHeld => h.held (held isHeld)⟩
  | ready released =>
    exact .inl ⟨reset, fun isHeld => by rw [show s.heldInReset = true from isHeld] at released; cases released⟩

theorem Passing.untouched {s t : State} (p : Passing s t) (w : s.Untouched) : t.Untouched := by
  obtain ⟨reset, held⟩ := w
  have unconfigured := reset.unconfigured
  obtain ⟨same, driving, pulling, measures⟩ := p.idle reset.idle (by rw [unconfigured]; rfl)
  obtain ⟨cfg, table, timer, engine, sched, channels, drive, station, sync, data, high, low, -, quiet⟩ := reset
  obtain ⟨high, low, dominant⟩ := measures unconfigured high low
  rw [same]
  exact ⟨⟨cfg, table, timer, engine, sched, channels, drive, station, driving.trans sync, pulling.trans data, high, low, dominant, quiet⟩,
    held⟩

theorem resetKeepingPins_untouched (inputs : ResetInputs) (s : State) : (resetKeepingPins inputs s).Untouched := by
  refine ⟨?_, fun _ => ⟨rfl, rfl⟩⟩
  simp [State.AtReset, resetKeepingPins, State.reset, LineInterface.reset, LocalPort.reset]

theorem Outside.inputs {s t : State} (o : Outside s t) : t.inputs = s.inputs := by
  cases o <;> rfl

theorem Change.inputs {s t : State} (c : Change s t) : t.inputs = s.inputs := by
  cases c with
  | outside o => exact o.inputs
  | ageOwn => unfold ageOwnToInterval; dsimp only; split <;> rfl
  | countVoid => rw [countVoid_eq]
  | _ => rfl

theorem EdgeChange.inputs {s t : State} (e : EdgeChange s t) : t.inputs = s.inputs := by
  cases e with
  | change c => exact c.inputs
  | drive => simp
  | _ => rfl

theorem keptApart_reset : KeptApart State.Untouched fun s => s.heldInReset = false where
  idle w := w.1.idle
  outside unconfigured w o := by
    rcases o.untouched w with w | ⟨released, a, rfl⟩
    · exact .waits w.1.unconfigured w
    · exact .runs nofun released
  waiting w p := p.untouched w
  edge _ h e := by unfold State.heldInReset at *; rw [e.inputs]; exact h
  passing h p := by unfold State.heldInReset at *; rw [p.keeps.inputs]; exact h
  reset s inputs := resetKeepingPins_untouched inputs s

theorem step_unconfiguredAtReset {s t : State} (reset : s.UnconfiguredAtReset) (held : s.HeldUnconfigured) (h : step s = .next t) :
    t.UnconfiguredAtReset ∧ t.HeldUnconfigured := by
  have before : s.popped.Apart State.Untouched fun s => s.heldInReset = false := by
    refine ⟨fun e => ⟨reset e, fun isHeld => (held isHeld).2⟩, fun n => ?_⟩
    by_contra isHeld
    exact n (held (Bool.of_not_eq_false isHeld)).1
  obtain ⟨waits, runs⟩ := keptApart_reset.step before h
  refine ⟨fun e => (waits e).1, fun isHeld => ?_⟩
  have unconfigured : t.station.state = .unconfigured := by
    by_contra n
    rw [runs n] at isHeld
    cases isHeld
  exact ⟨unconfigured, (waits unconfigured).2 isHeld⟩

end Sys2Proof.Machine
end

section
/-! What the attached and the detached states hold at every step (R48, R55, R62, R63, R82, R88, R127). -/

namespace Sys2Proof.Machine

/-! ## The attached states -/

theorem State.windowOpen_attached {s : State} (h : s.windowOpen = true) : s.station.state.attached = true := by
  rcases (State.windowOpen_state h).1 with e | e <;> rw [e] <;> rfl

theorem Outside.attachedRuns {s t : State} (o : Outside s t) (h : s.AttachedRuns) : t.AttachedRuns := by
  cases o with
  | configure => exact fun _ => ⟨rfl, nofun⟩
  | fallSync | fallData | holdSync | holdData | port | ready => exact h

theorem Change.attachedRuns {s t : State} (c : Change s t) (h : s.AttachedRuns) : t.AttachedRuns := by
  have runs (framing : Framing) (still : framing ≠ .off) (attached : s.station.state.attached = true) :
      s.timer.running = true ∧ framing ≠ .off := ⟨(h attached).1, still⟩
  cases c with
  | outside o => exact o.attachedRuns h
  | ageOwn => unfold ageOwnToInterval; dsimp only; split <;> exact h
  | countVoid => rw [countVoid_eq]; exact h
  | fault => exact fun attached => nomatch attached
  | halt => exact fun attached => nomatch attached
  | quiet leaving => exact fun _ => h (by rw [leaving]; rfl)
  | recover => exact fun _ => ⟨rfl, nofun⟩
  | listen quiet => exact fun _ => runs .awaitSync nofun (by rw [quiet]; rfl)
  | join ends =>
    refine fun _ => h ?_
    rcases ends with window | quiet
    · exact State.windowOpen_attached window
    · rw [quiet]; rfl
  | leave joined => exact fun _ => h (by rw [joined]; rfl)
  | divert state => exact fun _ => runs .awaitSync nofun (by rcases state with e | e <;> rw [e] <;> rfl)
  | openFrame => exact runs .frame nofun
  | endFrame => exact runs .gap nofun
  | becomeIdle => exact runs .idle nofun
  | revise | shed | offer | channels | post | clearDrive | drive | endTransmission | stopDriving | traffic | rollcall | stale
  | alignGap | alignFrame | readMessage | judge | startPulse | acquire | releaseSync => exact h

theorem EdgeChange.attachedRuns {s t : State} (e : EdgeChange s t) (h : s.AttachedRuns) : t.AttachedRuns := by
  cases e with
  | change c => exact c.attachedRuns h
  | timer => exact h
  | drive =>
    obtain ⟨-, -, -, timer, -, engine, station, -⟩ := edgeDrive_frame s
    unfold State.AttachedRuns
    rw [station, timer, engine]
    exact h
  | engine => exact fun attached => ⟨(h attached).1, nofun⟩
  | openWindow | nextCycle => exact h

/-! ## The detached states -/

theorem Scheduler.Sheds.reset {q : Scheduler} (h : Scheduler.reset.Sheds q) : q = .reset := by
  cases h <;> rfl

theorem clearDrive_reset (c : ChannelId) :
    ({ table := DriveUnit.reset.table.set c none, outputs := DriveUnit.reset.outputs.set c false } : DriveUnit) = .reset := by
  unfold DriveUnit.reset
  congr 1 <;> ext i _ <;> simp

theorem setOutputs_reset {s : State} (h : s.drive = .reset) (k : Slot) : (setOutputs k s).drive = .reset := by
  show ({ s.drive with outputs := _ } : DriveUnit) = .reset
  rw [h]
  rfl

/-- A change to a detached part that changes none of what it leaves at rest. -/
theorem State.DetachedIdle.vacuous {s : State} (attached : s.station.state.attached = true) : s.DetachedIdle :=
  fun detached => by rw [attached] at detached; cases detached

theorem shutDown_idle (state : StationState) (cause : Cause) (s : State) : (shutDown state cause s).DetachedIdle :=
  fun _ => ⟨rfl, rfl, rfl, rfl, rfl, rfl, rfl, rfl, rfl, rfl, rfl, rfl, rfl, rfl, rfl, rfl⟩

theorem Outside.detachedIdle {s t : State} (o : Outside s t) (h : s.DetachedIdle) : t.DetachedIdle := by
  rcases o.cases_unconfigured with ⟨a, -, -, rfl⟩ | still
  · exact .vacuous rfl
  · exact h.of_still still

theorem Change.detachedIdle {s t : State} (c : Change s t) (h : s.DetachedIdle) : t.DetachedIdle := by
  by_cases attached : s.station.state.attached = true
  · have stays (state : t.station.state = s.station.state) : t.DetachedIdle := .vacuous (by rw [state]; exact attached)
    cases c with
    | outside o => exact o.detachedIdle h
    | ageOwn => exact stays (by unfold ageOwnToInterval; dsimp only; split <;> rfl)
    | countVoid => exact stays (by rw [countVoid_eq])
    | fault => exact shutDown_idle _ _ s
    | halt => exact shutDown_idle _ _ s
    | quiet | recover | listen | join | leave | divert => exact .vacuous rfl
    | _ => exact stays rfl
  · have detached := Bool.eq_false_iff.2 attached
    have idle := h detached
    obtain ⟨table, running, time, slot, acquired, sync, data, framing, ending, frame, objection, verdict, transmission, request, sched,
      drive⟩ := idle
    cases c with
    | outside o => exact o.detachedIdle h
    | revise _ rests => rw [rests ⟨detached, h⟩]; exact h
    | ageOwn state => exact absurd (by rcases state with e | e <;> rw [e] <;> rfl) attached
    | shed sheds =>
      rw [sched] at sheds
      rw [sheds.reset, ← sched]
      exact h
    | offer r may =>
      rcases may with held | on
      · rw [sched] at held; cases held
      · exact absurd on attached
    | countVoid _ attempt => exact absurd transmission attempt
    | stopDriving attempt => exact absurd transmission attempt
    | channels | post => exact h
    | clearDrive c =>
      have still : (Machine.clearDrive c s).drive = .reset := by rw [clearDrive_drive, drive]; exact clearDrive_reset c
      exact fun _ => ⟨table, running, time, slot, acquired, sync, data, framing, ending, frame, objection, verdict, transmission, request,
        sched, still⟩
    | drive _ _ framed | endFrame framed => rw [framing] at framed; cases framed
    | readMessage _ _ _ framed | judge _ _ framed => rw [framing] at framed; cases framed
    | openFrame idle => rw [framing] at idle; cases idle
    | alignGap gap | becomeIdle gap => rw [framing] at gap; cases gap
    | alignFrame =>
      have none : (Machine.alignFrame s).engine.frame = none := by
        unfold Machine.alignFrame
        rw [frame]
        rfl
      exact fun _ => ⟨table, running, time, slot, acquired, sync, data, framing, ending, none, objection, verdict, transmission, request,
        sched, drive⟩
    | endTransmission =>
      exact fun _ => ⟨table, running, time, slot, acquired, sync, rfl, framing, ending, frame, objection, verdict, rfl, rfl, sched, drive⟩
    | fault => exact shutDown_idle _ _ s
    | halt => exact shutDown_idle _ _ s
    | quiet leaving => exact absurd (by rw [leaving]; rfl) attached
    | recover | listen | join | leave | divert => exact .vacuous rfl
    | traffic window | rollcall window => exact absurd (State.windowOpen_attached window) attached
    | stale quiet => exact absurd (by rw [quiet]; rfl) attached
    | startPulse due => exact absurd (State.pulseDue_attached due) attached
    | acquire run => rw [running] at run; cases run
    | releaseSync =>
      exact fun _ => ⟨table, running, time, slot, acquired, rfl, data, framing, ending, frame, objection, verdict, transmission, request,
        sched, drive⟩

theorem EdgeChange.detachedIdle {s t : State} (e : EdgeChange s t) (h : s.DetachedIdle) : t.DetachedIdle := by
  cases e with
  | change c => exact c.detachedIdle h
  | timer running => exact fun detached => by rw [h.not_running detached] at running; cases running
  | engine on => exact fun detached => absurd (h.framing_off detached) on
  | openWindow state => exact .vacuous (by show s.station.state.attached = true; rcases state with e | e <;> rw [e] <;> rfl)
  | nextCycle window => exact .vacuous (State.windowOpen_attached window)
  | drive =>
    intro detached
    obtain ⟨-, -, tableKept, timer, lines, engine, station, -, -, schedKept, -⟩ := edgeDrive_frame s
    rw [station] at detached
    obtain ⟨table, running, time, slot, acquired, sync, data, framing, ending, frame, objection, verdict, transmission, request, sched,
      drive⟩ := h detached
    have unlatched : latch s = s := by rw [latch, if_neg (Bool.eq_false_iff.1 detached)]
    have still : (edgeDrive s).drive = .reset := by rw [edgeDrive, unlatched]; exact setOutputs_reset drive 0
    rw [tableKept, timer, lines, engine, schedKept]
    exact ⟨table, running, time, slot, acquired, sync, data, framing, ending, frame, objection, verdict, transmission, request, sched, still⟩

theorem kept_attachedRuns : Kept State.AttachedRuns where
  edge h e := e.attachedRuns h
  passing h p := by unfold State.AttachedRuns; rw [p.keeps.station, p.keeps.running, p.keeps.framing]; exact h
  reset _ _ := nofun

theorem kept_detachedIdle : Kept State.DetachedIdle where
  edge h e := e.detachedIdle h
  passing h p := h.passing p
  reset inputs _ := resetKeepingPins_idle inputs _

/-! ## What the passing of time keeps -/

/-- What the passing of time is made of. -/
structure KeptByTime (P : State → Prop) : Prop where
  clocks {s : State} (d : Nat) : P s → P (passClocks d s)
  data {s : State} (p : Bool) (d : Nat) : P s → P (passData p d s)
  level {s : State} (level : Bool) : P s → P { s with engine := s.engine.readLevel level }
  slot {s : State} (k : Slot) : P s → P (setOutputs k { s with timer := { s.timer with slotIndex := k } })

theorem KeptByTime.readMiddle {P : State → Prop} (k : KeptByTime P) {s : State} (h : P s) : P (readMiddle s) := by
  unfold Machine.readMiddle
  split
  · exact h
  · split
    · exact k.level _ h
    · exact h

theorem KeptByTime.bits {P : State → Prop} (k : KeptByTime P) (fuel d : Nat) {s : State} (h : P s) : P (passBits fuel d s) := by
  induction fuel generalizing d s with
  | zero => exact k.data _ d h
  | succ n ih =>
    unfold passBits
    split
    · exact k.data _ d h
    · dsimp only
      split
      · exact k.data _ d h
      · exact ih _ (k.readMiddle (k.data _ _ h))

theorem KeptByTime.slots {P : State → Prop} (k : KeptByTime P) {s : State} (h : P s) : P (passSlots s) := by
  unfold passSlots
  split
  · exact k.slot _ h
  · exact h

theorem KeptByTime.passing {P : State → Prop} (k : KeptByTime P) {s t : State} (h : P s) (p : Passing s t) : P t := by
  cases p with
  | advance d => exact k.slots (k.bits _ d (k.clocks d h))
  | inMessage d => exact k.slots (k.data false d (k.clocks d h))
  | toSlot => exact k.slot _ (k.bits _ _ (k.clocks _ h))

/-! ## The frame record, END and the holds of the lines -/

theorem Outside.engine {s t : State} (o : Outside s t) : t.engine = s.engine ∨ ∃ a, t = s.configuredTo a := by
  rcases o.cases_unconfigured with ⟨a, -, -, e⟩ | ⟨same, -⟩
  · exact .inr ⟨a, e⟩
  · exact .inl (by rw [same])

/-- A frame record that is absent outside FRAME. -/
theorem MessageEngine.FrameLawful.absent {e : MessageEngine} (frame : e.frame = none) (framing : e.framing ≠ .frame) : e.FrameLawful := by
  unfold MessageEngine.FrameLawful
  simp [frame, framing]

theorem MessageEngine.FrameLawful.of_eq {e f : MessageEngine} (h : e.FrameLawful) (frame : f.frame.isSome = e.frame.isSome)
    (framing : f.framing = e.framing) : f.FrameLawful := by
  unfold MessageEngine.FrameLawful at *
  rw [frame, framing]
  exact h

theorem Change.frameLawful {s t : State} (c : Change s t) (h : s.engine.FrameLawful) : t.engine.FrameLawful := by
  cases c with
  | outside o =>
    rcases o.engine with same | ⟨a, rfl⟩
    · rw [same]; exact h
    · exact .absent rfl nofun
  | ageOwn => unfold ageOwnToInterval; dsimp only; split <;> exact h
  | countVoid => rw [countVoid_eq]; exact h
  | fault | halt | recover | listen | divert | endFrame => exact .absent rfl nofun
  | openFrame => exact ⟨fun _ => rfl, fun _ => rfl⟩
  | alignFrame => exact h.of_eq (Option.isSome_map ..) rfl
  | readMessage => exact h.of_eq (Option.isSome_map ..) rfl
  | becomeIdle gap =>
    refine .absent (Option.not_isSome_iff_eq_none.1 fun some => ?_) nofun
    have framed := h.1 some
    rw [gap] at framed
    cases framed
  | revise | shed | offer | channels | post | clearDrive | drive | endTransmission | stopDriving | quiet | join | leave | traffic
  | rollcall | stale | alignGap | judge | startPulse | acquire | releaseSync => exact h.of_eq rfl rfl

theorem kept_frameLawful : Kept fun s => s.engine.FrameLawful where
  edge {s _} h e := by
    cases e with
    | change c => exact c.frameLawful h
    | drive =>
      obtain ⟨-, -, -, -, -, engine, -⟩ := edgeDrive_frame s
      rw [engine]
      exact h
    | engine => exact .absent rfl nofun
    | timer | openWindow | nextCycle => exact h
  passing h p := h.of_eq p.keeps.frame p.keeps.framing
  reset _ _ := .absent rfl nofun

theorem State.EndLawful.absent {s : State} (h : s.engine.ending = none) : s.EndLawful := fun r e => by rw [h] at e; cases e

theorem State.EndLawful.not_gap {s : State} (h : s.EndLawful) (framing : s.engine.framing ≠ .gap) : s.engine.ending = none := by
  cases e : s.engine.ending with
  | none => rfl
  | some r => exact absurd (h r e).1 framing

theorem State.bits_pos (s : State) {n : Nat} (h : 0 < n) : 0 < s.bits n := by
  have := s.bits_one.1
  unfold State.bits at *
  exact Nat.mul_pos h (by omega)

theorem EndRecord.align_bound {bit : Nat} {r r' : EndRecord} (h : r.align bit = some r') (positive : 0 < bit) :
    r'.elapsed < Config.endBits * bit := by
  unfold EndRecord.align at h
  dsimp only at h
  split at h
  · cases h
  · next more =>
    cases h
    exact (Nat.mul_lt_mul_right positive).2 (by omega)

theorem Change.endLawful {s t : State} (c : Change s t) (h : s.EndLawful) : t.EndLawful := by
  cases c with
  | outside o =>
    cases o with
    | configure => exact .absent rfl
    | fallSync | fallData | holdSync | holdData | port | ready => exact h
  | ageOwn => unfold ageOwnToInterval; dsimp only; split <;> exact h
  | countVoid => rw [countVoid_eq]; exact h
  | fault | halt | recover | listen | divert | becomeIdle => exact .absent rfl
  | openFrame idle => exact .absent (h.not_gap (by rw [idle]; decide))
  | endFrame =>
    intro r e
    cases e
    exact ⟨rfl, Nat.le_refl 0, s.bits_pos (by decide)⟩
  | alignGap gap =>
    intro r e
    obtain ⟨old, -, aligned⟩ := Option.bind_eq_some_iff.1 e
    refine ⟨gap, Nat.zero_le _, ?_⟩
    have bound := EndRecord.align_bound aligned s.bits_one.1
    have : s.bits 1 = bitPeriods s.cfg.rateCode.val := Nat.one_mul _
    rw [this] at bound
    exact bound
  | revise | shed | offer | channels | post | clearDrive | drive | endTransmission | stopDriving | quiet | join | leave | traffic
  | rollcall | stale | alignFrame | readMessage | judge | startPulse | acquire | releaseSync => exact h

theorem State.recessiveAfter_le (s : State) (d : Nat) : s.recessiveAfter d ≤ s.engine.recessiveTime + d := by
  unfold State.recessiveAfter
  repeat' split
  all_goals omega

theorem MessageEngine.readLevel_ending (e : MessageEngine) (level : Bool) : (e.readLevel level).ending = e.ending := by
  unfold MessageEngine.readLevel
  cases e.frame with
  | none => rfl
  | some f => dsimp only; split <;> rfl

theorem keptByTime_endLawful : KeptByTime State.EndLawful where
  clocks _ h := h
  data {s} p d h := by
    intro r e
    obtain ⟨old, oldEnd, bound, rfl⟩ := State.endAfter_eq_some.1 e
    obtain ⟨gap, measure, -⟩ := h old oldEnd
    refine ⟨gap, ?_, bound⟩
    have := s.recessiveAfter_le d
    show s.recessiveAfter d ≤ old.elapsed + d
    omega
  level {s} level h := by
    intro r e
    obtain ⟨framing, -, -, -, measure, -⟩ := s.engine.readLevel_keeps level
    show (s.engine.readLevel level).framing = .gap ∧ (s.engine.readLevel level).recessiveTime ≤ r.elapsed ∧ _
    rw [framing, measure]
    exact h r ((s.engine.readLevel_ending level).symm.trans e)
  slot _ h := h

theorem kept_endLawful : Kept State.EndLawful where
  edge {s _} h e := by
    cases e with
    | change c => exact c.endLawful h
    | drive =>
      obtain ⟨-, cfg, -, -, -, engine, -⟩ := edgeDrive_frame s
      unfold State.EndLawful State.bits
      rw [engine, cfg]
      exact h
    | engine => exact .absent rfl
    | timer | openWindow | nextCycle => exact h
  passing h p := keptByTime_endLawful.passing h p
  reset _ _ := .absent rfl

theorem LineInterface.HoldsLawful.of_eq {l m : LineInterface} (h : l.HoldsLawful) (low : m.syncLow = l.syncLow)
    (syncHold : m.syncHold = l.syncHold) (dominant : m.dataDominant = l.dataDominant) (dataHold : m.dataHold = l.dataHold) :
    m.HoldsLawful := by
  unfold LineInterface.HoldsLawful at *
  rw [low, syncHold, dominant, dataHold]
  exact h

theorem LineInterface.HoldsLawful.advanceSync {l : LineInterface} (h : l.HoldsLawful) (d : Nat) (counting : Bool) :
    (l.advanceSync d counting).HoldsLawful := by
  obtain ⟨sync, data⟩ := h
  unfold LineInterface.advanceSync
  split
  · next low =>
    split
    · exact ⟨fun high => absurd low (Bool.eq_false_iff.1 high), data⟩
    · exact ⟨fun _ => rfl, data⟩
  · exact ⟨sync, data⟩

theorem LineInterface.HoldsLawful.advanceData {l : LineInterface} (h : l.HoldsLawful) (d : Nat) (counting pulled : Bool) :
    (l.advanceData d counting pulled).HoldsLawful := by
  obtain ⟨sync, -⟩ := h
  unfold LineInterface.advanceData
  split
  · exact ⟨sync, nofun⟩
  · exact ⟨sync, fun _ => rfl⟩

theorem keptByTime_holdsLawful : KeptByTime fun s => s.lines.HoldsLawful where
  clocks {s} d h := (h.advanceSync d s.counting).of_eq rfl rfl rfl rfl
  data {s} p d h := (h.advanceData d s.counting p).of_eq rfl rfl rfl rfl
  level _ h := h
  slot _ h := h

theorem Outside.holdsLawful {s t : State} (o : Outside s t) (h : s.lines.HoldsLawful) : t.lines.HoldsLawful := by
  obtain ⟨sync, data⟩ := h
  cases o with
  | fallSync => exact ⟨nofun, data⟩
  | fallData => exact ⟨sync, nofun⟩
  | holdSync low => exact ⟨fun high => absurd low (Bool.eq_false_iff.1 high), data⟩
  | holdData dominant => exact ⟨sync, fun recessive => absurd dominant (Bool.eq_false_iff.1 recessive)⟩
  | port | ready | configure => exact ⟨sync, data⟩

theorem Change.holdsLawful {s t : State} (c : Change s t) (h : s.lines.HoldsLawful) : t.lines.HoldsLawful := by
  cases c with
  | outside o => exact o.holdsLawful h
  | ageOwn => unfold ageOwnToInterval; dsimp only; split <;> exact h
  | countVoid => rw [countVoid_eq]; exact h
  | _ => exact h.of_eq rfl rfl rfl rfl

theorem kept_holdsLawful : Kept fun s => s.lines.HoldsLawful where
  edge {s _} h e := by
    cases e with
    | change c => exact c.holdsLawful h
    | drive =>
      obtain ⟨-, -, -, -, lines, -⟩ := edgeDrive_frame s
      rw [lines]
      exact h
    | timer | engine | openWindow | nextCycle => exact h.of_eq rfl rfl rfl rfl
  passing h p := keptByTime_holdsLawful.passing h p
  reset _ h := h.of_eq rfl rfl rfl rfl

end Sys2Proof.Machine
end

section
/-! The engine waits for an edge exactly until the opening edge (R63, R64, R135), at every step. At an edge itself the Message Engine's
part and the Station Controller's break the law one after the other and restore it together, so that an edge is taken part by part. -/

namespace Sys2Proof.Machine

/-! ## The law at the single changes -/

/-- The station is in LISTEN or RESYNC and the opening edge has not come. -/
def Station.Waits (st : Station) : Prop := (st.state = .listen ∨ st.state = .resync) ∧ st.opened = false

theorem State.ignores_iff (s : State) : s.IgnoresUntilOpened ↔ (s.engine.framing = .awaitSync ↔ s.station.Waits) := Iff.rfl

theorem State.IgnoresUntilOpened.of_eq {s t : State} (h : s.IgnoresUntilOpened) (framing : t.engine.framing = s.engine.framing)
    (station : t.station.Waits ↔ s.station.Waits) : t.IgnoresUntilOpened := by
  rw [State.ignores_iff, framing, station]
  exact h

theorem State.IgnoresUntilOpened.begin {s : State} (framing : s.engine.framing = .awaitSync) (waits : s.station.Waits) :
    s.IgnoresUntilOpened := ⟨fun _ => waits, fun _ => framing⟩

theorem State.IgnoresUntilOpened.over {s : State} (framing : s.engine.framing ≠ .awaitSync) (waits : ¬s.station.Waits) :
    s.IgnoresUntilOpened := ⟨fun e => absurd e framing, fun w => absurd w waits⟩

theorem State.IgnoresUntilOpened.not_waiting {s : State} (h : s.IgnoresUntilOpened) (framing : s.engine.framing ≠ .awaitSync) :
    ¬s.station.Waits := fun w => framing (h.2 w)

theorem State.windowOpen_not_waiting {s : State} (h : s.windowOpen = true) : ¬s.station.Waits := fun w => by
  have opened := (State.windowOpen_state h).2
  rw [w.2] at opened
  cases opened

theorem Station.not_waits_of_state {st : Station} (h : st.state ≠ .listen ∧ st.state ≠ .resync) : ¬st.Waits :=
  fun ⟨state, _⟩ => state.elim h.1 h.2

theorem Change.ignores {s t : State} (c : Change s t) (h : s.IgnoresUntilOpened) : t.IgnoresUntilOpened := by
  cases c with
  | outside o =>
    cases o with
    | configure => exact .begin rfl ⟨.inl rfl, rfl⟩
    | fallSync | fallData | holdSync | holdData | port | ready => exact h
  | ageOwn => unfold ageOwnToInterval; dsimp only; split <;> exact h
  | countVoid => rw [countVoid_eq]; exact h
  | fault => exact .over nofun (Station.not_waits_of_state ⟨nofun, nofun⟩)
  | halt => exact .over nofun (Station.not_waits_of_state ⟨nofun, nofun⟩)
  | quiet leaving =>
    have was : ¬s.station.Waits := Station.not_waits_of_state (by rw [leaving]; decide)
    exact .over (fun e => was (h.1 e)) (Station.not_waits_of_state ⟨nofun, nofun⟩)
  | recover => exact .begin rfl ⟨.inl rfl, rfl⟩
  | listen => exact .begin rfl ⟨.inl rfl, rfl⟩
  | join ends =>
    have was : ¬s.station.Waits := by
      rcases ends with window | quiet
      · exact State.windowOpen_not_waiting window
      · exact Station.not_waits_of_state (by rw [quiet]; decide)
    exact .over (fun e => was (h.1 e)) (Station.not_waits_of_state ⟨nofun, nofun⟩)
  | leave joined =>
    have was : ¬s.station.Waits := Station.not_waits_of_state (by rw [joined]; decide)
    exact .over (fun e => was (h.1 e)) (Station.not_waits_of_state ⟨nofun, nofun⟩)
  | divert => exact .begin rfl ⟨.inr rfl, rfl⟩
  | openFrame idle => exact .over nofun (h.not_waiting (by rw [idle]; decide))
  | endFrame framed => exact .over nofun (h.not_waiting (by rw [framed]; decide))
  | becomeIdle gap => exact .over nofun (h.not_waiting (by rw [gap]; decide))
  | revise | shed | offer | channels | post | clearDrive | drive | endTransmission | stopDriving | traffic | rollcall | stale
  | alignGap | alignFrame | readMessage | judge | startPulse | acquire | releaseSync => exact h

/-! ## The order of an edge -/

/-- A list of `n` members that holds `n` different things holds nothing twice. -/
theorem nodup_of_holds {α : Type} {l all : List α} (distinct : all.Nodup) (holds : all ⊆ l) (short : l.length ≤ all.length) : l.Nodup :=
  ((distinct.subperm holds).perm_of_length_le short).nodup_iff.1 distinct

theorem EdgePart.mem_of_outcomeIn {order : List EdgePart} {late : LateOutcome} (h : EdgePart.outcomeIn order = some late) :
    EdgePart.message late ∈ order := by
  obtain ⟨p, m, e⟩ := List.exists_of_findSome?_eq_some h
  cases p with
  | message outcome => cases e; exact m
  | planTable | driveUnit | messageEngine | stationController | attemptReport | stationReport => cases e

/-- The blocks of an edge. -/
def EdgePart.blocks : List EdgePart := [.planTable, .driveUnit, .messageEngine, .stationController]

/-- An allowed order holds each block, and nothing twice (R57). -/
theorem EdgePart.allowed_nodup {order : List EdgePart} (h : EdgePart.orderAllowed order = true) :
    order.Nodup ∧ EdgePart.blocks ⊆ order := by
  simp only [EdgePart.orderAllowed, Bool.and_eq_true, List.all_eq_true, List.contains_iff_mem] at h
  obtain ⟨blocks, rest⟩ := h
  refine ⟨?_, blocks⟩
  cases e : EdgePart.outcomeIn order with
  | none =>
    simp only [e, Bool.and_eq_true, beq_iff_eq] at rest
    exact nodup_of_holds (by decide) blocks (by rw [rest.1]; rfl)
  | some late =>
    simp only [e, Bool.and_eq_true, beq_iff_eq] at rest
    obtain ⟨⟨length, reports⟩, -⟩ := rest
    have all : EdgePart.message late :: (EdgePart.blocks ++ [.attemptReport, .stationReport]) ⊆ order :=
      List.cons_subset.2 ⟨EdgePart.mem_of_outcomeIn e, List.append_subset.2 ⟨blocks, by simpa using reports⟩⟩
    exact nodup_of_holds (by simp [EdgePart.blocks]) all (by rw [length]; rfl)

/-- In an order that holds nothing twice, `p` comes before `q` exactly where `q` stands behind it. -/
theorem EdgePart.before_iff {pre post : List EdgePart} {p q : EdgePart} (distinct : (pre ++ p :: post).Nodup)
    (held : q ∈ pre ++ p :: post) : EdgePart.before (pre ++ p :: post) p q = true ↔ q ∈ post := by
  have notPre : p ∉ pre := fun m => (List.nodup_append.1 distinct).2.2 p m p (List.mem_cons_self) rfl
  have place : (pre ++ p :: post).idxOf p = pre.length := by rw [List.idxOf_append_of_notMem notPre]; simp
  have apart : q ∈ pre → q ∉ post := fun m n => (List.nodup_append.1 distinct).2.2 q m q (List.mem_cons_of_mem p n) rfl
  rw [EdgePart.before, decide_eq_true_eq, place]
  by_cases inPre : q ∈ pre
  · have : (pre ++ p :: post).idxOf q < pre.length := by
      rw [List.idxOf_append_of_mem inPre]
      exact List.idxOf_lt_length_of_mem inPre
    exact ⟨fun lt => by omega, fun m => absurd m (apart inPre)⟩
  · rw [List.idxOf_append_of_notMem inPre]
    by_cases same : q = p
    · subst same
      have : q ∉ post := (List.nodup_cons.1 (List.nodup_append.1 distinct).2.1).1
      simp [this]
    · rw [List.idxOf_cons_ne _ (Ne.symm same)]
      have inPost : q ∈ post := by
        rcases List.mem_append.1 held with m | m
        · exact absurd m inPre
        · exact (List.mem_cons.1 m).resolve_left same
      exact ⟨fun _ => inPost, fun _ => by omega⟩

/-- The report of a commit to the Station Controller does not stand between the parts of the Message Engine and the Station Controller
(R64, R135). -/
theorem EdgePart.report_not_between {pre post : List EdgePart} {m : Message} {refused : Bool}
    (allowed : EdgePart.orderAllowed (pre ++ EdgePart.stationReport :: post) = true)
    (commits : EdgePart.outcomeIn (pre ++ EdgePart.stationReport :: post) = some (.committed m refused)) :
    EdgePart.messageEngine ∈ post ↔ EdgePart.stationController ∈ post := by
  obtain ⟨distinct, blocks⟩ := EdgePart.allowed_nodup allowed
  rw [← EdgePart.before_iff distinct (blocks (by decide)), ← EdgePart.before_iff distinct (blocks (by decide))]
  simp only [EdgePart.orderAllowed, commits, EdgePart.handOffsAllowed, Bool.and_eq_true, beq_iff_eq] at allowed
  rw [allowed.2.2.2]

/-! ## The law at an edge -/

/-- What stands of the law while the parts `rest` of an edge are still to come. -/
def State.IgnoresBefore (rest : List EdgePart) (s : State) : Prop :=
  (EdgePart.messageEngine ∈ rest ∧ EdgePart.stationController ∈ rest → s.IgnoresUntilOpened)
    ∧ (EdgePart.messageEngine ∉ rest → EdgePart.stationController ∈ rest → s.engine.framing ≠ .awaitSync)
    ∧ (EdgePart.messageEngine ∈ rest → EdgePart.stationController ∉ rest → ¬s.station.Waits)
    ∧ (EdgePart.messageEngine ∉ rest ∧ EdgePart.stationController ∉ rest → s.IgnoresUntilOpened)

/-- A part keeps the law, and each half of it. -/
structure KeepsIgnores (f : State → State) : Prop where
  whole {s : State} : s.IgnoresUntilOpened → (f s).IgnoresUntilOpened
  framing {s : State} : s.engine.framing ≠ .awaitSync → (f s).engine.framing ≠ .awaitSync
  waits {s : State} : ¬s.station.Waits → ¬(f s).station.Waits

/-- A part that leaves the framing state and the station alone. -/
theorem KeepsIgnores.of_frame {f : State → State} (framing : ∀ s, (f s).engine.framing = s.engine.framing)
    (station : ∀ s, (f s).station.Waits ↔ s.station.Waits) : KeepsIgnores f where
  whole h := h.of_eq (framing _) (station _)
  framing h := by rw [framing]; exact h
  waits h := by rw [station]; exact h

theorem KeepsIgnores.before {f : State → State} (k : KeepsIgnores f) {rest : List EdgePart} {s : State} (h : s.IgnoresBefore rest) :
    (f s).IgnoresBefore rest := by
  obtain ⟨both, station, engine, none⟩ := h
  exact ⟨fun m => k.whole (both m), fun m n => k.framing (station m n), fun m n => k.waits (engine m n), fun m => k.whole (none m)⟩

theorem keepsIgnores_plan : KeepsIgnores edgePlan :=
  .of_frame (fun s => by simp) fun s => by simp

theorem keepsIgnores_drive : KeepsIgnores edgeDrive :=
  .of_frame (fun s => by simp) fun s => by simp

theorem reportVoid_ignores (cause : Cause) (s : State) :
    (reportVoid cause s).engine.framing = s.engine.framing ∧ (reportVoid cause s).station = s.station := by
  rw [reportVoid_eq, countVoid_eq]
  unfold endAttempt
  simp

theorem reportCommit_ignores (k : Composed) (refused : Bool) (s : State) :
    (reportCommit k refused s).engine.framing = s.engine.framing
      ∧ ((reportCommit k refused s).station = s.station
        ∨ s.station.state = .leaving ∧ (reportCommit k refused s).station.state = .quiet) := by
  unfold reportCommit
  dsimp only
  split
  · split <;> simp [channelAdmitted]
  · simp [channelReleased]
  · split
    · split
      · next leaving => exact ⟨by simp, .inr ⟨by simpa using leaving, by simp⟩⟩
      · simp
    · split <;> simp
  · simp

theorem keepsIgnores_reportCommit (k : Composed) (refused : Bool) : KeepsIgnores (reportCommit k refused) := by
  refine .of_frame (fun s => (reportCommit_ignores k refused s).1) fun s => ?_
  rcases (reportCommit_ignores k refused s).2 with same | ⟨was, is⟩
  · rw [same]
  · exact iff_of_false (Station.not_waits_of_state (by rw [is]; decide)) (Station.not_waits_of_state (by rw [was]; decide))

theorem keepsIgnores_enterHalt {cause : Cause} (clash : cause ∈ StationState.halt.causes) : KeepsIgnores (enterHalt cause) where
  whole h := (enterHalt_changes _ clash).keeps (fun h c => c.ignores h) h
  framing _ := nofun
  waits _ := Station.not_waits_of_state ⟨nofun, nofun⟩

theorem keepsIgnores_markTraffic : KeepsIgnores markTraffic := by
  refine .of_frame (fun s => ?_) fun s => ?_ <;> unfold markTraffic <;> split <;> rfl

theorem keepsIgnores_id : KeepsIgnores id := ⟨id, id, id⟩

/-- The hand-offs keep the law, and each half of it but for the report to the Station Controller. -/
structure HandOffs.KeepIgnores (h : HandOffs) : Prop where
  message : KeepsIgnores h.message
  attempt : KeepsIgnores h.attempt
  station {s : State} : s.IgnoresUntilOpened → (h.station s).IgnoresUntilOpened

theorem HandOffs.Arises.keepIgnores {h : HandOffs} (arises : h.Arises) : h.KeepIgnores := by
  have station {s : State} (i : s.IgnoresUntilOpened) : (h.station s).IgnoresUntilOpened :=
    (arises.changing.station s).keeps (fun h c => c.ignores h) i
  cases arises with
  | none => exact ⟨keepsIgnores_id, keepsIgnores_id, station⟩
  | objected =>
    refine ⟨keepsIgnores_id, .of_frame (fun s => ?_) fun s => ?_, station⟩ <;> dsimp only [HandOffs.objected, reportObjected] <;> split
    · rfl
    · exact (reportVoid_ignores _ s).1
    · rfl
    · rw [(reportVoid_ignores _ s).2]
  | handOver acceptable own verdict refused s =>
    refine ⟨?_, ?_, station⟩
    · unfold Machine.handOver
      split
      · next e => exact keepsIgnores_enterHalt (State.haltCause_lawful e)
      · refine .of_frame (fun t => ?_) fun t => ?_ <;> obtain ⟨-, -, -, -, engine, station, -⟩ := applyMessage_frame _ refused t
        · exact congrArg MessageEngine.framing engine
        · exact iff_of_eq (congrArg Station.Waits station)
    · rcases handOver_attempt _ own verdict refused s with e | ⟨k, e⟩ <;> rw [e]
      · exact keepsIgnores_id
      · exact keepsIgnores_reportCommit k refused

theorem edgeEngine_framing (s : State) : (edgeEngine s).engine.framing ≠ .awaitSync := by
  unfold edgeEngine
  cases e : s.engine.framing with
  | off => dsimp only; rw [e]; decide
  | awaitSync | gap | idle | frame =>
    dsimp only
    split
    · rw [(reportVoid_ignores .sync _).1]
      exact nofun
    · exact nofun

theorem enterJoined_station (cause : Cause) (s : State) : (enterJoined cause s).station = (setStation .joined cause s).station := by
  unfold enterJoined
  simp

theorem edgeStation_waits (s : State) : ¬(edgeStation s).station.Waits := by
  have window (s : State) : ¬(if !s.station.opened then openWindow s
      else match State.windowEnd { s with station := { s.station with count := s.station.count + 1 } } with
        | some cause => enterJoined cause { s with station := { s.station with count := s.station.count + 1 } }
        | none => continueWindow { s with station := { s.station with count := s.station.count + 1 } }).station.Waits := by
    cases opened : s.station.opened with
    | false => exact fun w => nomatch w.2
    | true =>
      simp only [Bool.not_true, Bool.false_eq_true, if_false]
      split
      · exact Station.not_waits_of_state (by rw [enterJoined_station]; exact ⟨nofun, nofun⟩)
      · exact fun w => by rw [show s.station.opened = false from w.2] at opened; cases opened
  unfold edgeStation
  cases e : s.station.state with
  | listen | resync => exact window s
  | unconfigured | joined | leaving | quiet | fault | halt => exact Station.not_waits_of_state (by rw [e]; decide)

/-- One part of an edge in an allowed order. -/
theorem edgePart_ignores {h : HandOffs} (keep : h.KeepIgnores) {pre post : List EdgePart} {p : EdgePart}
    (allowed : EdgePart.orderAllowed (pre ++ p :: post) = true) (fits : h.Fits (pre ++ p :: post)) {s : State}
    (before : s.IgnoresBefore (p :: post)) : (edgePart h p s).IgnoresBefore post := by
  have distinct := (EdgePart.allowed_nodup allowed).1
  have once : p ∉ post := (List.nodup_cons.1 (List.nodup_append.1 distinct).2.1).1
  have other (e : EdgePart.messageEngine ≠ p) (c : EdgePart.stationController ≠ p) : s.IgnoresBefore post := by
    simpa [State.IgnoresBefore, e, c] using before
  cases p with
  | planTable => exact keepsIgnores_plan.before (other nofun nofun)
  | driveUnit => exact keepsIgnores_drive.before (other nofun nofun)
  | message => exact keep.message.before (other nofun nofun)
  | attemptReport => exact keep.attempt.before (other nofun nofun)
  | messageEngine =>
    have station : (edgeEngine s).station.Waits ↔ s.station.Waits := by simp
    obtain ⟨both, -, engine, -⟩ := before
    refine ⟨fun m => absurd m.1 once, fun _ _ => edgeEngine_framing s, fun m => absurd m once, fun n => .over (edgeEngine_framing s) ?_⟩
    rw [edgePart, station]
    exact engine (List.mem_cons_self) (by simpa using n.2)
  | stationController =>
    have framing : (edgeStation s).engine.framing = s.engine.framing := by simp
    obtain ⟨both, station, -, -⟩ := before
    refine ⟨fun m => absurd m.2 once, fun _ m => absurd m once, fun _ _ => edgeStation_waits s, fun n => .over ?_ (edgeStation_waits s)⟩
    rw [edgePart, framing]
    exact station (by simpa using n.1) (List.mem_cons_self)
  | stationReport =>
    have left := other nofun nofun
    rcases fits with rfl | rfl | ⟨m, refused, commits⟩
    · exact left
    · exact keepsIgnores_markTraffic.before left
    · have together := EdgePart.report_not_between allowed commits
      obtain ⟨both, -, -, none⟩ := left
      exact ⟨fun m => keep.station (both m), fun n m => absurd (together.2 m) n, fun m n => absurd (together.1 m) n,
        fun n => keep.station (none n)⟩

theorem edgeParts_ignores {h : HandOffs} (keep : h.KeepIgnores) {pre rest : List EdgePart}
    (allowed : EdgePart.orderAllowed (pre ++ rest) = true) (fits : h.Fits (pre ++ rest)) {s : State} (before : s.IgnoresBefore rest) :
    (rest.foldl (fun s p => edgePart h p s) s).IgnoresBefore [] := by
  induction rest generalizing pre s with
  | nil => exact before
  | cons p post ih =>
    have next := edgePart_ignores keep allowed fits before
    rw [List.append_cons] at allowed fits
    exact ih allowed fits next

theorem validEdge_ignores {h : HandOffs} (arises : h.Arises) {order : List EdgePart} (allowed : EdgePart.orderAllowed order = true)
    (fits : h.Fits order) {s : State} (ignores : s.IgnoresUntilOpened) : (validEdge order h s).IgnoresUntilOpened := by
  obtain ⟨-, blocks⟩ := EdgePart.allowed_nodup allowed
  have engine : EdgePart.messageEngine ∈ order := blocks (by decide)
  have station : EdgePart.stationController ∈ order := blocks (by decide)
  have timed : (edgeTimer s).IgnoresUntilOpened := ignores
  have before : (edgeTimer s).IgnoresBefore order :=
    ⟨fun _ => timed, fun n => absurd engine n, fun _ n => absurd station n, fun n => absurd engine n.1⟩
  obtain ⟨-, -, -, none⟩ := edgeParts_ignores arises.keepIgnores (pre := []) allowed fits before
  exact none ⟨List.not_mem_nil, List.not_mem_nil⟩

/-! ## Every step -/

theorem Move.ignores {s t : State} (m : Move s t) (h : s.IgnoresUntilOpened) : t.IgnoresUntilOpened := by
  cases m with
  | outside o => exact (Change.outside o).ignores h
  | passing p => exact h.of_eq p.keeps.framing (by rw [p.keeps.station])
  | live _ c => exact c.keeps (fun h c => c.ignores h) h
  | edge _ hold allowed arises fits => exact validEdge_ignores arises allowed fits ((Change.outside (.fallSync hold)).ignores h)

/-- SELF_EXPIRED voids an own message as an edge does: the station frames it, so that it does not wait for an edge. -/
theorem step_ignores {s t : State} (drivers : s.DriversLawful) (h : s.IgnoresUntilOpened) (hs : step s = .next t) :
    t.IgnoresUntilOpened := by
  rcases step_cases hs with ⟨_, _, _, inputs, rfl | rfl⟩ | ⟨_, changes⟩ | moves
  · exact .over nofun (Station.not_waits_of_state ⟨nofun, nofun⟩)
  · exact h
  · refine changes.keeps (fun h c => c.ignores h) ?_
    split
    · exact h
    · next attempt =>
      obtain ⟨-, framed, -⟩ := drivers
      have framing := (framed attempt).2
      refine .over (edgeEngine_framing _) fun waits => ?_
      have station : (edgeEngine s.popped).station.Waits ↔ s.station.Waits := by simp [State.popped]
      exact h.not_waiting (by rw [framing]; decide) (station.1 waits)
  · exact moves.keeps (fun h m => m.ignores h) h

/-- Settles O56: each single change keeps what the station states hold, an edge taken part by part for what its two blocks do together. -/
theorem stationStatesHoldWhatTheyHold : Obligations.StationStatesHoldWhatTheyHold :=
  ⟨fun _ _ runs idle h => ⟨kept_attachedRuns.step runs h, kept_detachedIdle.step idle h⟩,
    fun _ _ _ _ drivers ignores h => step_ignores drivers ignores h,
    fun _ _ reset held h => step_unconfiguredAtReset reset held h,
    fun _ _ lawful h => kept_frameLawful.step lawful h,
    fun _ _ lawful h => kept_endLawful.step lawful h,
    fun _ _ lawful h => kept_holdsLawful.step lawful h⟩

end Sys2Proof.Machine
end

section
/-! The laws of the transmit queue (R86 to R88) at every step, and its bound of 14 entries. -/

namespace Sys2Proof.Machine

theorem Scheduler.Sheds.lawful {q u : Scheduler} (h : q.Sheds u) (lawful : q.Lawful) : u.Lawful := by
  cases h with
  | remove removable => exact lawful.removeEntries removable _ _
  | withdraw p => exact lawful.filter p _ _
  | endAttempt => exact lawful.returnEntry _ _
  | keepEntry => exact lawful.returnEntry _ _
  | resolve => exact lawful.resolveEntry _ _

theorem Scheduler.empty_lawful (composed : Option Composed) (voids : Nat) :
    ({ queue := [], composed := composed, voids := voids } : Scheduler).Lawful :=
  ⟨List.nodup_nil, nofun, nofun⟩

theorem Outside.sched {s t : State} (o : Outside s t) : t.sched = s.sched := by
  cases o <;> rfl

theorem Change.queueLawful {s t : State} (c : Change s t) (h : s.sched.Lawful) : t.sched.Lawful := by
  cases c with
  | outside o => rw [o.sched]; exact h
  | ageOwn => unfold ageOwnToInterval; dsimp only; split <;> exact h
  | shed sheds => exact sheds.lawful h
  | offer r => exact h.offerTo r _ _
  | countVoid => rw [countVoid_eq]; exact h
  | drive pulls k => exact h.markOnWire k.request _ _
  | fault | halt | quiet => exact Scheduler.empty_lawful _ _
  | revise | channels | post | clearDrive | endTransmission | stopDriving | recover | listen | join | leave | divert | traffic
  | rollcall | stale | openFrame | alignGap | alignFrame | readMessage | endFrame | judge | becomeIdle | startPulse | acquire
  | releaseSync => exact h

theorem kept_queueLawful : Kept fun s => s.sched.Lawful where
  edge {s _} h e := by
    cases e with
    | change c => exact c.queueLawful h
    | drive => rw [show (edgeDrive s).sched = s.sched by simp]; exact h
    | timer | engine | openWindow | nextCycle => exact h
  passing h p := by rw [p.keeps.sched]; exact h
  reset _ _ := Scheduler.empty_lawful _ _

/-- The place of a request among the 14 that a lawful queue can hold: one for the ANNOUNCE, one for the ROLLCALL, and one for each
channel. -/
def Request.place : Request → Fin 14
  | .announce => 0
  | .rollcall => 1
  | .release c | .claim c => ⟨c.val + 2, by omega⟩

/-- Two requests of a lawful queue at one place are the same. -/
theorem Scheduler.Lawful.place_injective {q : Scheduler} (h : q.Lawful) {r r' : Request} (held : holds q.queue r = true)
    (held' : holds q.queue r' = true) (same : r.place = r'.place) : r = r' := by
  obtain ⟨-, apart, -⟩ := h
  have number {c d : ChannelId} (e : c.val + 2 = d.val + 2) : c = d := Fin.ext (by omega)
  cases r <;> cases r' <;> simp only [Request.place, Fin.ext_iff] at same
  case announce.announce | rollcall.rollcall => rfl
  case release.release c d | claim.claim c d => rw [number same]
  case release.claim c d => rw [number same] at held; exact absurd ⟨held', held⟩ (apart d)
  case claim.release c d => rw [number same] at held; exact absurd ⟨held, held'⟩ (apart d)
  all_goals exact absurd same (by simp)

theorem Scheduler.Lawful.length_le {q : Scheduler} (h : q.Lawful) : q.queue.length ≤ 14 := by
  have places : ((q.queue.map QueueEntry.request).map Request.place).Nodup := by
    refine List.Nodup.map_on (fun r hr r' hr' same => ?_) h.1
    refine h.place_injective ((holds_iff _ _).2 ?_) ((holds_iff _ _).2 ?_) same
    · simpa using hr
    · simpa using hr'
  simpa using places.length_le_card

/-- Settles O57. -/
theorem theTransmitQueueStaysLawful : Obligations.TheTransmitQueueStaysLawful :=
  ⟨fun _ _ lawful h => kept_queueLawful.step lawful h, fun _ lawful => lawful.length_le⟩

end Sys2Proof.Machine
end

section
/-! Outputs, slot index and local port at every step (R50, R129, R159 to R163). -/

namespace Sys2Proof.Machine

/-! ## The outputs -/

/-- An output conducts only in a slot that its entry covers (R129). -/
def State.OutputsCovered (s : State) : Prop :=
  ∀ c : ChannelId, s.drive.outputs[c] = true → ∃ e, s.drive.table[c] = some e ∧ spanCovers e.start e.length s.timer.slotIndex = true

/-- The station states that drive no output (R127). -/
def StationState.undriven : List StationState := [.unconfigured, .listen, .quiet, .fault, .halt]

/-- The drive table is empty in the states that drive no output, and at an UNUSED channel. -/
def State.TableLawful (s : State) : Prop :=
  (s.station.state ∈ StationState.undriven → s.drive = .reset)
    ∧ ∀ c : ChannelId, s.channels[c].state = .unused → s.drive.table[c] = none

theorem State.outputsLawful_iff (s : State) : s.OutputsLawful ↔ s.OutputsCovered ∧ s.TableLawful := Iff.rfl

@[simp] theorem DriveUnit.reset_output (c : ChannelId) : DriveUnit.reset.outputs[c] = false := by simp [DriveUnit.reset]

@[simp] theorem DriveUnit.reset_entry (c : ChannelId) : DriveUnit.reset.table[c] = none := by simp [DriveUnit.reset]

theorem State.OutputsCovered.of_reset {s : State} (h : s.drive = .reset) : s.OutputsCovered := fun c on => by
  rw [h, DriveUnit.reset_output] at on
  cases on

theorem State.TableLawful.of_reset {s : State} (h : s.drive = .reset) : s.TableLawful :=
  ⟨fun _ => h, fun c _ => by rw [h, DriveUnit.reset_entry]⟩

/-- A state in which the drive table and its outputs stand as they did. -/
theorem State.TableLawful.enters {s t : State} (h : s.TableLawful) (drive : t.drive = s.drive) (channels : t.channels = s.channels)
    (driven : t.station.state ∉ StationState.undriven ∨ s.station.state ∈ StationState.undriven) : t.TableLawful := by
  obtain ⟨off, unused⟩ := h
  rcases driven with on | was
  · exact ⟨fun m => absurd m on, fun c e => by rw [drive]; exact unused c (by rw [← channels]; exact e)⟩
  · exact .of_reset (drive.trans (off was))

theorem State.TableLawful.unused_configured {s t : State} (h : s.TableLawful) (undriven : s.station.state ∈ StationState.undriven)
    (drive : t.drive = s.drive) : t.TableLawful := .of_reset (drive.trans (h.1 undriven))

theorem Change.tableLawful {s t : State} (c : Change s t) (h : s.TableLawful) : t.TableLawful := by
  cases c with
  | outside o =>
    cases o with
    | configure a unconfigured => exact h.unused_configured (by rw [unconfigured]; decide) rfl
    | fallSync | fallData | holdSync | holdData | port | ready => exact h
  | ageOwn => unfold ageOwnToInterval; dsimp only; split <;> exact h
  | countVoid => rw [countVoid_eq]; exact h
  | channels _ used => exact ⟨h.1, fun c e => h.2 c (used c e)⟩
  | clearDrive c =>
    obtain ⟨off, unused⟩ := h
    refine ⟨fun m => ?_, fun d e => ?_⟩
    · show ({ table := s.drive.table.set c none, outputs := s.drive.outputs.set c false } : DriveUnit) = .reset
      rw [off m]
      exact clearDrive_reset c
    · show (s.drive.table.set c none)[d] = none
      by_cases same : c = d
      · subst same; simp
      · have := unused d e
        simp only [Fin.getElem_fin] at this ⊢
        rw [Vector.getElem_set_ne _ _ (fun e => same (Fin.ext e))]
        exact this
  | fault => exact .of_reset rfl
  | halt => exact .of_reset rfl
  | quiet => exact .of_reset rfl
  | recover fault => exact h.unused_configured (by rw [fault]; decide) rfl
  | listen quiet => exact h.unused_configured (by rw [quiet]; decide) rfl
  | join => exact h.enters rfl rfl (.inl (by decide : StationState.joined ∉ StationState.undriven))
  | leave => exact h.enters rfl rfl (.inl (by decide : StationState.leaving ∉ StationState.undriven))
  | divert => exact h.enters rfl rfl (.inl (by decide : StationState.resync ∉ StationState.undriven))
  | revise | shed | offer | post | drive | endTransmission | stopDriving | traffic | rollcall | stale | openFrame | alignGap
  | alignFrame | readMessage | endFrame | judge | becomeIdle | startPulse | acquire | releaseSync => exact h

/-- An output as a slot start sets it (R123). -/
theorem setOutputs_output (k : Slot) (s : State) (c : ChannelId) :
    (setOutputs k s).drive.outputs[c] = s.drive.table[c].any fun e => e.conducts s.ditherIndex k := by
  simp only [setOutputs, Fin.getElem_fin, Vector.getElem_ofFn]
  cases s.drive.table[c.val] <;> rfl

theorem setOutputs_table_eq (k : Slot) (s : State) : (setOutputs k s).drive.table = s.drive.table := rfl

theorem setOutputs_covered {k : Slot} {s : State} (slot : s.timer.slotIndex = k) : (setOutputs k s).OutputsCovered := by
  intro c on
  rw [setOutputs_output, Option.any_eq_true] at on
  obtain ⟨e, entry, conducts⟩ := on
  simp only [DriveEntry.conducts, Bool.and_eq_true] at conducts
  exact ⟨e, entry, by rw [setOutputs_timer, slot]; exact conducts.1⟩

theorem State.TableLawful.setOutputs {s : State} (h : s.TableLawful) (k : Slot) : (setOutputs k s).TableLawful :=
  ⟨fun m => setOutputs_reset (h.1 m) k, h.2⟩

/-- The entry of a channel behind the latch (R121). -/
theorem latch_entry (s : State) (c : ChannelId) :
    (latch s).drive.table[c] = if s.station.state.attached then latchedEntry s c else s.drive.table[c] := by
  unfold latch
  split <;> simp

theorem latchedEntry_unused {s : State} {c : ChannelId} (unused : s.channels[c].state = .unused) : latchedEntry s c = none := if_pos unused

theorem latchedEntry_undriven {s : State} (undriven : s.station.state ∈ StationState.undriven) (c : ChannelId) : latchedEntry s c = none := by
  unfold latchedEntry
  split
  · rfl
  · simp only [StationState.undriven, List.mem_cons, List.not_mem_nil, or_false] at undriven
    rcases undriven with e | e | e | e | e <;> rw [e]

theorem latch_undriven {s : State} (h : s.TableLawful) (undriven : s.station.state ∈ StationState.undriven) (c : ChannelId) :
    (latch s).drive.table[c] = none := by
  rw [latch_entry, latchedEntry_undriven undriven, h.1 undriven, DriveUnit.reset_entry, ite_self]

theorem latch_unused {s : State} (h : s.TableLawful) {c : ChannelId} (unused : s.channels[c].state = .unused) :
    (latch s).drive.table[c] = none := by
  rw [latch_entry, latchedEntry_unused unused, h.2 c unused, ite_self]

/-- A drive table with no entry, and outputs all off, are those of reset. -/
theorem DriveUnit.eq_reset {d : DriveUnit} (table : ∀ c : ChannelId, d.table[c] = none) (outputs : ∀ c : ChannelId, d.outputs[c] = false) :
    d = .reset := by
  obtain ⟨t, o⟩ := d
  unfold DriveUnit.reset
  congr 1
  · ext i hi : 1
    simpa using table ⟨i, hi⟩
  · ext i hi : 1
    simpa using outputs ⟨i, hi⟩

/-- The latch leaves an empty table in the states that drive no output, and no entry to an UNUSED channel (R121). -/
theorem edgeDrive_tableLawful {s : State} (h : s.TableLawful) : (edgeDrive s).TableLawful := by
  refine ⟨fun m => ?_, fun c unused => ?_⟩
  · rw [show (edgeDrive s).station = s.station by simp] at m
    have none := latch_undriven h m
    exact DriveUnit.eq_reset none fun c => by rw [edgeDrive, setOutputs_output, none]; rfl
  · rw [show (edgeDrive s).channels = s.channels by simp] at unused
    exact latch_unused h unused

theorem edgeDrive_covered {s : State} (slot : s.timer.slotIndex = 0) : (edgeDrive s).OutputsCovered :=
  setOutputs_covered (by rw [show (latch s).timer = s.timer by simp]; exact slot)

theorem EdgeChange.tableLawful {s t : State} (e : EdgeChange s t) (h : s.TableLawful) : t.TableLawful := by
  cases e with
  | change c => exact c.tableLawful h
  | drive => exact edgeDrive_tableLawful h
  | timer | engine => exact h
  | openWindow => exact h.enters rfl rfl (by
      show s.station.state ∉ _ ∨ s.station.state ∈ _
      exact (em _).symm)
  | nextCycle => exact h.enters rfl rfl (by
      show s.station.state ∉ _ ∨ s.station.state ∈ _
      exact (em _).symm)

/-- An output that is off, or whose entry and slot stand, stays covered. -/
theorem State.OutputsCovered.of_eq {s t : State} (h : s.OutputsCovered) (drive : t.drive = s.drive)
    (slot : t.timer.slotIndex = s.timer.slotIndex) : t.OutputsCovered := by
  unfold State.OutputsCovered
  rw [drive, slot]
  exact h

theorem Change.covered {s t : State} (c : Change s t) (table : s.TableLawful) (h : s.OutputsCovered) : t.OutputsCovered := by
  cases c with
  | outside o =>
    cases o with
    | configure a unconfigured =>
      exact .of_reset (s := s.configuredTo a) (table.1 (by rw [unconfigured]; decide))
    | fallSync | fallData | holdSync | holdData | port | ready => exact h
  | ageOwn => unfold ageOwnToInterval; dsimp only; split <;> exact h
  | countVoid => rw [countVoid_eq]; exact h
  | clearDrive c =>
    intro d on
    rw [clearDrive_drive] at on ⊢
    simp only [Fin.getElem_fin] at on ⊢
    by_cases same : c = d
    · subst same; simp at on
    · have ne : c.val ≠ d.val := fun e => same (Fin.ext e)
      rw [Vector.getElem_set_ne _ _ ne] at on ⊢
      exact h d on
  | fault => exact .of_reset rfl
  | halt => exact .of_reset rfl
  | quiet => exact .of_reset rfl
  | recover fault => exact .of_reset (table.1 (by rw [fault]; decide))
  | revise | shed | offer | channels | post | drive | endTransmission | stopDriving | listen | join | leave | divert | traffic
  | rollcall | stale | openFrame | alignGap | alignFrame | readMessage | endFrame | judge | becomeIdle | startPulse | acquire
  | releaseSync => exact h.of_eq rfl rfl

/-! ## The outputs at an edge: slot 0 begins, and the Drive Unit's part sets every output for it -/

/-- The slot index is that of slot 0, and the table is lawful. -/
def State.InSlotZero (s : State) : Prop := s.timer.slotIndex = 0 ∧ s.TableLawful

theorem EdgeChange.slotZero {s t : State} (e : EdgeChange s t) (h : s.timer.slotIndex = 0) : t.timer.slotIndex = 0 := by
  cases e with
  | change c =>
    cases c with
    | outside o => cases o <;> first | exact h | rfl
    | ageOwn => unfold ageOwnToInterval; dsimp only; split <;> exact h
    | countVoid => rw [countVoid_eq]; exact h
    | fault => rfl
    | halt => rfl
    | recover => rfl
    | _ => exact h
  | drive => rw [show (edgeDrive s).timer = s.timer by simp]; exact h
  | timer => rfl
  | engine | openWindow | nextCycle => exact h

theorem EdgeChange.inSlotZero {s t : State} (e : EdgeChange s t) (h : s.InSlotZero) : t.InSlotZero :=
  ⟨e.slotZero h.1, e.tableLawful h.2⟩

/-- In slot 0 the outputs that are lawful stay so by every single change of an edge. -/
theorem EdgeChange.covered {s t : State} (e : EdgeChange s t) (zero : s.InSlotZero) (h : s.OutputsCovered) : t.OutputsCovered := by
  cases e with
  | change c => exact c.covered zero.2 h
  | drive => exact edgeDrive_covered zero.1
  | timer => exact h.of_eq rfl zero.1.symm
  | engine | openWindow | nextCycle => exact h.of_eq rfl rfl

/-- What stands of the law of the outputs while the parts `rest` of an edge are still to come. -/
def State.OutputsBefore (rest : List EdgePart) (s : State) : Prop :=
  s.InSlotZero ∧ (EdgePart.driveUnit ∉ rest → s.OutputsCovered)

theorem State.OutputsBefore.part {h : HandOffs} (p : EdgePart) (rest : List EdgePart) (s : State) (before : s.OutputsBefore (p :: rest))
    (changes : EdgeChanges s (edgePart h p s)) : (edgePart h p s).OutputsBefore rest := by
  obtain ⟨zero, covered⟩ := before
  refine ⟨changes.keeps (fun z e => e.inSlotZero z) zero, fun n => ?_⟩
  by_cases drive : p = .driveUnit
  · subst drive
    exact edgeDrive_covered zero.1
  · have was := covered (by simpa [Ne.symm drive] using n)
    exact (changes.keeps (P := fun s => s.InSlotZero ∧ s.OutputsCovered)
      (fun ⟨z, c⟩ e => ⟨e.inSlotZero z, e.covered z c⟩) ⟨zero, was⟩).2

theorem validEdge_outputsLawful {h : HandOffs} (arises : h.Arises) {order : List EdgePart} (allowed : EdgePart.orderAllowed order = true)
    {s : State} (running : s.timer.running = true) (table : s.TableLawful) : (validEdge order h s).OutputsLawful := by
  have drives : EdgePart.driveUnit ∈ order := (EdgePart.allowed_nodup allowed).2 (by decide)
  have start : (edgeTimer s).OutputsBefore order := ⟨⟨rfl, table⟩, fun n => absurd drives n⟩
  obtain ⟨⟨-, table⟩, covered⟩ := 
    edgeParts_induction arises.changing State.OutputsBefore.part order (s := edgeTimer s) running start
  exact ⟨covered List.not_mem_nil, table⟩

theorem Changes.outputsLawful {s t : State} (c : Changes s t) (h : s.OutputsLawful) : t.OutputsLawful :=
  c.keeps (P := fun s => s.OutputsCovered ∧ s.TableLawful) (fun ⟨covered, table⟩ c => ⟨c.covered table covered, c.tableLawful table⟩) h

theorem keptByTime_outputsLawful : KeptByTime State.OutputsLawful where
  clocks {s} d h := ⟨State.OutputsCovered.of_eq h.1 rfl (by rw [passClocks_timer]; split <;> rfl), h.2⟩
  data _ _ h := h
  level _ h := h
  slot {s} k h := by
    have table : ({ s with timer := { s.timer with slotIndex := k } } : State).TableLawful := h.2
    exact ⟨setOutputs_covered rfl, table.setOutputs k⟩

theorem Move.outputsLawful {s t : State} (m : Move s t) (h : s.OutputsLawful) : t.OutputsLawful := by
  cases m with
  | outside o => exact (Changes.of (.outside o)).outputsLawful h
  | passing p => exact keptByTime_outputsLawful.passing h p
  | live _ c => exact c.outputsLawful h
  | edge running hold allowed arises =>
    have fallen : (fallSync hold s).TableLawful := h.2
    exact validEdge_outputsLawful arises allowed running fallen

theorem edgeEngine_outputsLawful {s : State} (h : s.OutputsLawful) : (edgeEngine s).OutputsLawful := by
  rcases edgeEngine_cases s with same | ⟨-, changes⟩
  · rw [same]; exact h
  · exact changes.outputsLawful h

theorem step_outputsLawful {s t : State} (h : s.OutputsLawful) (hs : step s = .next t) : t.OutputsLawful := by
  rcases step_cases hs with ⟨_, _, _, inputs, rfl | rfl⟩ | ⟨_, changes⟩ | moves
  · exact ⟨State.OutputsCovered.of_reset rfl, State.TableLawful.of_reset rfl⟩
  · exact h
  · refine changes.outputsLawful ?_
    split
    · exact h
    · exact edgeEngine_outputsLawful (s := s.popped) h
  · exact moves.keeps (fun h m => m.outputsLawful h) h

/-! ## The slot index -/

/-- A timer at local cycle time 0 in slot 0 is lawful. -/
theorem State.SlotLawful.start {s : State} (time : s.timer.localTime = 0) (slot : s.timer.slotIndex = 0) : s.SlotLawful := by
  intro _
  simp [State.slotNow, time, slot]

theorem State.SlotLawful.of_eq {s t : State} (h : s.SlotLawful) (timer : t.timer = s.timer) (cfg : t.cfg = s.cfg) : t.SlotLawful := by
  unfold State.SlotLawful State.slotNow
  rw [timer, cfg]
  exact h

theorem Change.slotLawful {s t : State} (c : Change s t) (h : s.SlotLawful) : t.SlotLawful := by
  cases c with
  | outside o =>
    cases o with
    | configure => exact .start rfl rfl
    | fallSync | fallData | holdSync | holdData | port | ready => exact h
  | ageOwn => unfold ageOwnToInterval; dsimp only; split <;> exact h
  | countVoid => rw [countVoid_eq]; exact h
  | fault => exact .start rfl rfl
  | halt => exact .start rfl rfl
  | recover => exact .start rfl rfl
  | _ => exact h

theorem State.slotNow_val (s : State) : s.slotNow.val = min 63 (s.timer.localTime / slotPeriods s.cfg.slotCode) :=
  Nat.mod_eq_of_lt (by omega)

/-- Local cycle time goes on, and the slot that it reaches starts (R50). -/
theorem passSlots_slotLawful {s : State} (behind : s.timer.running = true → s.timer.slotIndex ≤ s.slotNow) :
    (passSlots s).SlotLawful := by
  unfold passSlots
  split
  · exact fun _ => rfl
  · next none =>
    intro running
    simp only [running, Bool.true_and, decide_eq_true_eq, not_lt] at none
    exact le_antisymm (behind running) none

theorem State.SlotLawful.behind {s : State} (h : s.SlotLawful) {t : State} (running : t.timer.running = s.timer.running)
    (slot : t.timer.slotIndex = s.timer.slotIndex) (time : s.timer.localTime ≤ t.timer.localTime) (cfg : t.cfg = s.cfg)
    (runs : t.timer.running = true) : t.timer.slotIndex ≤ t.slotNow := by
  have was := h (running.symm.trans runs)
  rw [Fin.le_def, slot, was, State.slotNow_val, State.slotNow_val, cfg]
  have := Nat.div_le_div_right (c := slotPeriods s.cfg.slotCode) time
  omega

theorem elapse_timer (d : Nat) (s : State) :
    (elapse d s).timer = if s.timer.running then { s.timer with localTime := s.timer.localTime + d } else s.timer :=
  (passBits_clocks (2 * Config.longestFrame) d (passClocks d s)).1

theorem passSlots_after {s u : State} (h : s.SlotLawful)
    (timer : u.timer = s.timer ∨ ∃ d, u.timer = { s.timer with localTime := s.timer.localTime + d }) (cfg : u.cfg = s.cfg) :
    (passSlots u).SlotLawful := by
  refine passSlots_slotLawful (h.behind ?_ ?_ ?_ cfg)
  all_goals rcases timer with e | ⟨d, e⟩ <;> rw [e]
  exact Nat.le_add_right ..

/-- The time to the next slot boundary brings the next slot. -/
theorem startSlot_slotLawful {s : State} (valid : s.cfg.Valid) (ahead : s.slotAhead = true) (h : s.SlotLawful) :
    (startSlot (elapse (s.nextBoundary - s.timer.localTime) s)).SlotLawful := by
  obtain ⟨slotCode, -⟩ := valid
  simp only [State.slotAhead, Bool.and_eq_true, decide_eq_true_eq] at ahead
  obtain ⟨running, below⟩ := ahead
  have now := congrArg Fin.val (h running)
  rw [State.slotNow_val] at now
  have length : 0 < slotPeriods s.cfg.slotCode := Nat.mul_pos slotCode (by decide)
  have cfg : (elapse (s.nextBoundary - s.timer.localTime) s).cfg = s.cfg := (elapse_keeps _ s).cfg
  have time : (elapse (s.nextBoundary - s.timer.localTime) s).timer.localTime = s.nextBoundary := by
    have before : s.timer.localTime < s.nextBoundary := by
      unfold State.nextBoundary
      rw [← Nat.div_lt_iff_lt_mul length]
      omega
    rw [elapse_timer, if_pos running]
    dsimp only
    omega
  have slot : (elapse (s.nextBoundary - s.timer.localTime) s).timer.slotIndex = s.timer.slotIndex := by
    rw [elapse_timer, if_pos running]
  intro _
  refine Fin.ext ?_
  rw [State.slotNow_val]
  show ((elapse _ s).timer.slotIndex + 1).val = min 63 ((elapse _ s).timer.localTime / slotPeriods (elapse _ s).cfg.slotCode)
  rw [slot, time, cfg, State.nextBoundary, Nat.mul_div_cancel _ length, Fin.val_add]
  show (s.timer.slotIndex.val + 1) % 64 = _
  omega

theorem Passing.slotLawful {s t : State} (p : Passing s t) (valid : s.cfg.Valid) (h : s.SlotLawful) : t.SlotLawful := by
  cases p with
  | advance d =>
    refine passSlots_after h ?_ (elapse_keeps d s).cfg
    rw [elapse_timer]
    split
    · exact .inr ⟨d, rfl⟩
    · exact .inl rfl
  | inMessage d =>
    refine passSlots_after h ?_ rfl
    rw [passData_timer, passClocks_timer]
    split
    · exact .inr ⟨d, rfl⟩
    · exact .inl rfl
  | toSlot ahead => exact startSlot_slotLawful valid ahead h

theorem keptApart_slot : KeptApart State.DetachedIdle fun s => s.cfg.Valid ∧ s.SlotLawful where
  idle := id
  outside unconfigured idle o := by
    rcases o.cases_unconfigured with ⟨a, valid, -, rfl⟩ | still
    · exact .runs nofun ⟨configCheck_valid valid, .start rfl rfl⟩
    · exact .waits (by rw [still.1]; exact unconfigured) (idle.of_still still)
  waiting w p := w.passing p
  edge {s _} configured h e := by
    refine ⟨by rw [e.staysConfigured.cfg configured]; exact h.1, ?_⟩
    cases e with
    | change c => exact c.slotLawful h.2
    | timer => exact .start rfl rfl
    | drive => exact h.2.of_eq (by simp) (by simp)
    | engine | openWindow | nextCycle => exact h.2
  passing h p := ⟨by rw [p.keeps.cfg]; exact h.1, p.slotLawful h.1 h.2⟩
  reset s inputs := resetKeepingPins_idle inputs s

theorem step_slotLawful {s t : State} (lawful : s.SlotLawful) (configured : s.Configured) (idle : s.DetachedIdle)
    (h : step s = .next t) : t.SlotLawful := by
  have before : s.popped.Apart State.DetachedIdle fun s => s.cfg.Valid ∧ s.SlotLawful :=
    ⟨fun _ => idle, fun n => ⟨configured n, lawful⟩⟩
  obtain ⟨waits, runs⟩ := keptApart_slot.step before h
  by_cases n : t.station.state = .unconfigured
  · exact fun running => by rw [(waits n).not_running (by rw [n]; rfl)] at running; cases running
  · exact (runs n).2

end Sys2Proof.Machine
end

section
/-! The local port at every step: the event queue, ATTN, the open transaction and a pending removal (R150, R151, R159 to R163). -/

namespace Sys2Proof.Machine

/-- The laws of the event queue and of ATTN (R159, R160, R163). -/
def LocalPort.EventsLawful (p : LocalPort) : Prop :=
  p.events.length ≤ 16 ∧ (p.events.length = 16 → p.events.getLast?.map EventRecord.kind = some .overflow)
    ∧ (p.attn = true ↔ p.events ≠ [])

/-- A transaction is open only under a low chip select at a ready port (R150, R151). -/
def LocalPort.PhaseLawful (p : LocalPort) : Prop := p.phase ≠ .none → p.selectLow = true ∧ p.ready = true

/-- A pending removal stands for the record at the head, whose reply is shifted out (R162). -/
def LocalPort.RemovalLawful (p : LocalPort) : Prop :=
  p.pendingRemoval = true → p.phase = .reply ∧ ∃ r rest, p.events = r :: rest ∧ p.reply = statusOk :: r.bytes

theorem LocalPort.lawful_iff (p : LocalPort) : p.Lawful ↔ p.EventsLawful ∧ p.PhaseLawful ∧ p.RemovalLawful := by
  unfold LocalPort.Lawful LocalPort.EventsLawful
  constructor
  · rintro ⟨short, last, attn, phase, removal⟩
    exact ⟨⟨short, last, attn⟩, phase, removal⟩
  · rintro ⟨⟨short, last, attn⟩, phase, removal⟩
    exact ⟨short, last, attn, phase, removal⟩

/-- A record joins the tail (R159, R163). -/
theorem LocalPort.Lawful.store {p : LocalPort} (h : p.Lawful) {r : EventRecord}
    (room : p.events.length + 1 < 16 ∨ p.events.length + 1 = 16 ∧ r.kind = .overflow) : (p.store r).Lawful := by
  obtain ⟨-, phase, removal⟩ := (LocalPort.lawful_iff p).1 h
  refine (LocalPort.lawful_iff _).2 ⟨⟨?_, fun full => ?_, ?_⟩, phase, fun pending => ?_⟩
  · simp only [LocalPort.store, List.length_append, List.length_singleton]
    omega
  · simp only [LocalPort.store, List.length_append, List.length_singleton] at full ⊢
    rcases room with less | ⟨-, overflow⟩
    · omega
    · simp [overflow]
  · simp [LocalPort.store]
  · obtain ⟨reply, r', rest, head, bytes⟩ := removal pending
    exact ⟨reply, r', rest ++ [r], by simp [LocalPort.store, head], bytes⟩

theorem LocalPort.Lawful.post {p : LocalPort} (h : p.Lawful) (r : EventRecord) : (p.post r).Lawful := by
  unfold LocalPort.post Config.eventLimit
  split
  · exact h
  · split
    · next room => exact h.store (.inl room)
    · split
      · next last => exact h.store (.inr ⟨last, rfl⟩)
      · exact h

theorem EventRecord.bytes_length (r : EventRecord) : r.bytes.length = 4 := rfl

/-- The head record leaves (R162, R163). -/
theorem LocalPort.EventsLawful.tail {p : LocalPort} (h : p.EventsLawful) {r : EventRecord} {rest : List EventRecord}
    (head : p.events = r :: rest) : p.removeHead.EventsLawful := by
  obtain ⟨short, -, attn⟩ := h
  have asserted : p.attn = true := attn.2 (by rw [head]; simp)
  rw [head, List.length_cons] at short
  unfold LocalPort.EventsLawful LocalPort.removeHead
  simp only [head, List.tail_cons, asserted]
  refine ⟨by omega, fun full => by omega, ?_⟩
  cases rest <;> simp

/-- The phase of a reply that has been shifted out up to a bit position (R151). -/
def LocalPort.phaseAt (p : LocalPort) (position : Nat) : Phase := if 8 * p.reply.length ≤ position then .ignore else p.phase

/-- Before the last bit of a record, and where no removal is pending, no record leaves. -/
theorem shiftTo_of_kept {s : State} {position : Nat} (kept : s.port.pendingRemoval = true → position < 40) :
    shiftTo position s = { s with port := { s.port with replyPosition := position, phase := s.port.phaseAt position } } := by
  have none : (s.port.pendingRemoval && decide (recordEnd ≤ position)) = false := by
    rw [Bool.and_eq_false_iff, decide_eq_false_iff_not, recordEnd]
    rcases Bool.eq_false_or_eq_true s.port.pendingRemoval with pending | none
    · exact .inr (Nat.not_le_of_lt (kept pending))
    · exact .inl none
  unfold shiftTo LocalPort.phaseAt
  dsimp only
  rw [none]
  by_cases ended : 8 * s.port.reply.length ≤ position <;> simp [ended]

/-- At its last bit a record leaves (R162). -/
theorem shiftTo_of_removed {s : State} {position : Nat} (pending : s.port.pendingRemoval = true) (last : 40 ≤ position) :
    shiftTo position s
      = { s with
          port := { s.port.removeHead with replyPosition := position, phase := s.port.phaseAt position } } := by
  unfold shiftTo LocalPort.phaseAt recordEnd
  dsimp only
  rw [pending, decide_eq_true last]
  by_cases ended : 8 * s.port.reply.length ≤ position <;> simp [ended, LocalPort.removeHead]

/-- What the shift of a reply to a bit position leaves: the record leaves at its last bit, which is the reply's last (R162). -/
theorem shiftTo_portLawful {s : State} (replying : s.port.phase = .reply) (position : Nat) (h : s.port.Lawful) :
    (shiftTo position s).port.Lawful := by
  obtain ⟨events, phase, removal⟩ := (LocalPort.lawful_iff _).1 h
  have opened := phase (by rw [replying]; nofun)
  by_cases kept : s.port.pendingRemoval = true → position < 40
  · rw [shiftTo_of_kept kept]
    refine (LocalPort.lawful_iff _).2 ⟨events, fun _ => opened, fun pending => ?_⟩
    obtain ⟨-, r, rest, head, reply⟩ := removal pending
    have within : ¬8 * s.port.reply.length ≤ position := by
      rw [reply, List.length_cons, EventRecord.bytes_length]
      have := kept pending
      omega
    exact ⟨(if_neg within).trans replying, r, rest, head, reply⟩
  · obtain ⟨pending, last⟩ := Classical.not_imp.1 kept
    obtain ⟨-, r, rest, head, -⟩ := removal pending
    rw [shiftTo_of_removed pending (Nat.le_of_not_lt last)]
    exact (LocalPort.lawful_iff _).2 ⟨events.tail head, fun _ => opened, nofun⟩

theorem LocalPort.Handles.lawful {p q : LocalPort} (h : p.Handles q) (lawful : p.Lawful) : q.Lawful := by
  obtain ⟨events, phase, removal⟩ := (LocalPort.lawful_iff p).1 lawful
  have taken (taking : p.phase = .command ∨ p.phase = .arguments) : p.selectLow = true ∧ p.ready = true :=
    phase (by rcases taking with e | e <;> rw [e] <;> nofun)
  have notReply (taking : p.phase = .command ∨ p.phase = .arguments) : p.phase ≠ .reply := by
    rcases taking with e | e <;> rw [e] <;> nofun
  rw [LocalPort.lawful_iff]
  cases h with
  | fall high ready =>
    refine ⟨events, fun _ => ⟨rfl, ready⟩, fun pending => ?_⟩
    have low := (phase (by rw [(removal pending).1]; nofun)).1
    rw [high] at low
    cases low
  | fallUnready high unready => exact ⟨events, fun open' => ⟨rfl, (phase open').2⟩, removal⟩
  | rise => exact ⟨events, fun n => absurd rfl n, nofun⟩
  | receive taking bytes still =>
    exact ⟨events, fun _ => taken taking, fun pending => absurd (removal pending).1 (notReply taking)⟩
  | respond taking bytes =>
    exact ⟨events, fun _ => taken taking, fun pending => absurd (removal pending).1 (notReply taking)⟩
  | event taking head => exact ⟨events, fun _ => taken taking, fun _ => ⟨rfl, _, _, head, rfl⟩⟩
  | shift replying position s port =>
    subst port
    exact (LocalPort.lawful_iff _).1 (shiftTo_portLawful replying position lawful)

theorem Outside.portLawful {s t : State} (o : Outside s t) (h : s.port.Lawful) : t.port.Lawful := by
  cases o with
  | port handles => exact handles.lawful h
  | ready =>
    obtain ⟨events, phase, removal⟩ := (LocalPort.lawful_iff _).1 h
    exact (LocalPort.lawful_iff _).2 ⟨events, fun n => ⟨(phase n).1, rfl⟩, removal⟩
  | fallSync | fallData | holdSync | holdData | configure => exact h

theorem Change.portLawful {s t : State} (c : Change s t) (h : s.port.Lawful) : t.port.Lawful := by
  cases c with
  | outside o => exact o.portLawful h
  | ageOwn => unfold ageOwnToInterval; dsimp only; split <;> exact h
  | countVoid =>
    rw [countVoid_eq]
    dsimp only
    split
    · exact h.post _
    · exact h
  | post => exact h.post _
  | _ => exact h

theorem kept_portLawful : Kept fun s => s.port.Lawful where
  edge {s _} h e := by
    cases e with
    | change c => exact c.portLawful h
    | drive => rw [show (edgeDrive s).port = s.port by simp]; exact h
    | timer | engine | openWindow | nextCycle => exact h
  passing h p := by rw [p.keeps.port]; exact h
  reset {s} inputs _ := ⟨Nat.zero_le _, nofun, ⟨nofun, fun n => absurd rfl n⟩, fun n => absurd rfl n, nofun⟩

/-- Settles O59. -/
theorem outputsAndThePortStayLawful : Obligations.OutputsAndThePortStayLawful :=
  ⟨fun _ _ lawful h => step_outputsLawful lawful h, fun _ _ lawful configured idle h => step_slotLawful lawful configured idle h,
    fun _ _ lawful h => kept_portLawful.step lawful h⟩

end Sys2Proof.Machine
end

section
/-! The rows of reset and of the local port (R133, R150 to R157, R162): what each command makes of its bytes, and its effect. -/

namespace Sys2Proof.Machine

/-! ## Reset and chip select -/

/-- Settles O1. -/
theorem stepRunsFrontCommand : Obligations.StepRunsFrontCommand := by
  intro c rest s front
  unfold step
  rw [front]

theorem resetKeepingPins_atReset (inputs : ResetInputs) (s : State) : (resetKeepingPins inputs s).AtReset :=
  (resetKeepingPins_untouched inputs s).1

/-- Settles O2: each reset row brings the reset image, and a part that is not held is not released. -/
theorem resetBringsEveryItemToItsResetValue : Obligations.ResetBringsEveryItemToItsResetValue := by
  intro s
  refine ⟨⟨_, rfl, resetKeepingPins_atReset .., rfl, by simp [State.heldInReset], rfl, rfl⟩,
    ⟨_, rfl, resetKeepingPins_atReset .., rfl, by simp [State.heldInReset], rfl, rfl⟩, fun held => ?_, fun released => ?_⟩
  · exact ⟨resetKeepingPins ⟨false, false⟩ s, congrArg Host.Outcome.next (if_pos held), resetKeepingPins_atReset .., rfl, rfl, rfl⟩
  · exact congrArg Host.Outcome.next (if_neg (by rw [released]; decide))

/-- Settles O3: chip select opens and ends transactions, and the data output is zero outside a reply. -/
theorem chipSelectFramesTransactions : Obligations.ChipSelectFramesTransactions := by
  intro s
  refine ⟨fun released => ?_, fun held => ?_, fun high ready => ?_, fun high unready => ?_, fun low => ?_, rfl, ?_, fun closed => ?_⟩
  · exact congrArg Host.Outcome.next (if_neg (by rw [released]; decide))
  · exact congrArg Host.Outcome.next (if_pos held)
  · exact congrArg Host.Outcome.next ((if_neg (by rw [high]; decide)).trans (if_pos ready))
  · exact congrArg Host.Outcome.next ((if_neg (by rw [high]; decide)).trans (if_neg (by rw [unready]; decide)))
  · exact congrArg Host.Outcome.next (if_pos low)
  · rw [State.sdoDriven, Bool.and_eq_true, and_comm]
  · unfold State.sdoByte
    rcases closed with phase | phase | phase <;> rw [phase]

/-! ## The bytes of a command -/

theorem clockBytes_cons (b : Byte) (bs : List Byte) (s : State) : clockBytes (b :: bs) s = clockBytes bs (clockByte s b) := rfl

theorem clockBytes_append (bs cs : List Byte) (s : State) : clockBytes (bs ++ cs) s = clockBytes cs (clockBytes bs s) :=
  List.foldl_append

/-- Argument bytes of which some are missing are only received (R152). -/
theorem clockBytes_unfinished_arguments {code : Byte} {n : Nat} (hc : argumentCount code = some n) (args : List Byte) :
    ∀ (got : List Byte) (s : State), s.port.phase = .arguments → s.port.received = code :: got → got.length + args.length < n →
      clockBytes args s = withReceived (code :: (got ++ args)) .arguments s := by
  induction args with
  | nil =>
    intro got s phase received _
    rw [List.append_nil, withReceived, ← phase, ← received]
    rfl
  | cons b bs ih =>
    intro got s phase received missing
    rw [List.length_cons] at missing
    have one : clockByte s b = withReceived (code :: (got ++ [b])) .arguments s := by
      unfold clockByte
      rw [phase]
      simp only [received, List.cons_append, List.length_cons, List.length_append, List.length_nil, List.head?_cons,
        Option.bind_some, hc, Option.getD_some, withReceived]
      rw [if_neg (by omega), ← phase]
    rw [clockBytes_cons, one, ih (got ++ [b]) (withReceived (code :: (got ++ [b])) .arguments s) rfl rfl
      (by rw [List.length_append, List.length_singleton]; omega)]
    simp [withReceived]

theorem clockBytes_unfinished {code : Byte} {n : Nat} (hc : argumentCount code = some n) {args : List Byte} (missing : args.length < n)
    {s : State} (phase : s.port.phase = .command) : clockBytes (code :: args) s = withReceived (code :: args) .arguments s := by
  have one : clockByte s code = withReceived [code] .arguments s := by
    unfold clockByte
    rw [phase]
    cases n with
    | zero => cases missing
    | succ n => simp [hc, withReceived]
  rw [clockBytes_cons, one,
    clockBytes_unfinished_arguments hc args [] (withReceived [code] .arguments s) rfl rfl (by simpa using missing)]
  simp [withReceived]

theorem argumentCount_of_unknown {code : Byte} (unknown : knownCommand code = false) : argumentCount code = none := by
  simp only [knownCommand, List.contains_eq_any_beq, List.any_cons, List.any_nil, Bool.or_eq_false_iff, beq_eq_false_iff_ne] at unknown
  unfold argumentCount
  simp_all

/-- Settles O4: what is missing is only received, and a byte that names no command is refused at once. -/
theorem unfinishedAndUnknownCommandsHaveNoEffect : Obligations.UnfinishedAndUnknownCommandsHaveNoEffect := by
  refine ⟨fun code args n s phase hc missing => ?_, fun code s phase unknown => ?_⟩
  · show Host.Outcome.next (riseSelect (clockBytes (code :: args) s)) = _
    rw [clockBytes_unfinished hc missing phase]
    rfl
  · show Host.Outcome.next (clockByte s code) = _
    unfold clockByte
    rw [phase]
    simp only [argumentCount_of_unknown unknown]
    rfl

/-! ## CONFIG -/

/-- The two bytes of the `i`-th of some 16-bit arguments. -/
theorem argumentBytes_getD (l : List (BitVec 16)) (i : Nat) (h : i < l.length) :
    (l.flatMap argumentBytes).getD (2 * i) 0 = l[i].extractLsb' 8 8
      ∧ (l.flatMap argumentBytes).getD (2 * i + 1) 0 = l[i].extractLsb' 0 8 := by
  induction l generalizing i with
  | nil => cases h
  | cons x xs ih =>
    cases i with
    | zero => exact ⟨rfl, rfl⟩
    | succ i => exact ih i (by simpa using h)

/-- Settles O7: each 16-bit argument is read back from its two bytes. -/
theorem configBytesReadBack : Obligations.ConfigBytesReadBack := by
  intro a
  refine ⟨ConfigArgs_bytes_length a, ?_⟩
  have ratings : (Vector.ofFn fun c : Fin 12 => word2 (a.bytes.getD (8 + 2 * c.val) 0) (a.bytes.getD (9 + 2 * c.val) 0)) = a.ratings := by
    ext i hi : 1
    have bytes := argumentBytes_getD a.ratings.toList i (by simpa using hi)
    have high : a.bytes.getD (8 + 2 * i) 0 = (a.ratings.toList.flatMap argumentBytes).getD (2 * i) 0 := by
      rw [Nat.add_comm]
      rfl
    have low : a.bytes.getD (9 + 2 * i) 0 = (a.ratings.toList.flatMap argumentBytes).getD (2 * i + 1) 0 := by
      rw [Nat.add_comm 9]
      rfl
    rw [Vector.getElem_ofFn, high, low, bytes.1, bytes.2, word2_extract]
    simp
  have budget : word2 (a.bytes.getD 3 0) (a.bytes.getD 4 0) = a.budget := word2_extract a.budget
  have mask : word2 (a.bytes.getD 6 0) (a.bytes.getD 7 0) = a.mask := word2_extract a.mask
  unfold ConfigArgs.ofBytes
  rw [ratings, budget, mask]
  rfl

theorem ratings_any_iff (a : ConfigArgs) :
    a.ratings.toList.any (fun r => decide (1023 < r.toNat) || decide (a.budget.toNat < r.toNat)) = true
      ↔ ¬∀ c : ChannelId, a.ratings[c].toNat ≤ 1023 ∧ a.ratings[c].toNat ≤ a.budget.toNat := by
  simp only [List.any_eq_true, Vector.mem_toList_iff, Vector.mem_iff_getElem, Bool.or_eq_true, decide_eq_true_eq, not_forall]
  constructor
  · rintro ⟨_, ⟨i, hi, rfl⟩, high⟩
    exact ⟨⟨i, hi⟩, fun low => by simp only [Fin.getElem_fin] at low; omega⟩
  · rintro ⟨c, high⟩
    exact ⟨_, ⟨c.val, c.isLt, rfl⟩, by simp only [Fin.getElem_fin] at high; omega⟩

theorem ratings_all_iff (a : ConfigArgs) :
    a.ratings.toList.all (fun r => decide (r = 0)) = true ↔ ¬∃ c : ChannelId, a.ratings[c].toNat ≠ 0 := by
  simp only [List.all_eq_true, Vector.mem_toList_iff, Vector.mem_iff_getElem, decide_eq_true_eq, not_exists, not_not]
  constructor
  · intro all c
    exact congrArg BitVec.toNat (all a.ratings[c] ⟨c.val, c.isLt, rfl⟩)
  · rintro all _ ⟨i, hi, rfl⟩
    exact BitVec.eq_of_toNat_eq (all ⟨i, hi⟩)

/-- Settles O5: the checks are made one after the other, each the negation of its condition. -/
theorem configChecksInOrder : Obligations.ConfigChecksInOrder := by
  intro a c1 c2 c3 c4 c5 c6 c7 c8
  have check : configCheck a
      = if ¬c1 then 1 else if ¬c2 then 2 else if ¬c3 then 3 else if ¬c4 then 4 else if ¬c5 then 5 else if ¬c6 then 6
        else if ¬c7 then 7 else if ¬c8 then 8 else 0 := by
    unfold configCheck
    simp only [ratings_any_iff, ratings_all_iff, c1, c2, c3, c4, c5, c6, c7, c8, cycleBits, Config.leastCycleBits, not_le, not_and_or]
  simp only [check]
  refine ⟨?_, ?_, ?_, ?_, ?_, ?_, ?_, ?_, ?_⟩ <;> intros <;> simp only [*, not_true_eq_false, not_false_eq_true, if_true, if_false]

/-! ## The effect of a whole command -/

theorem exec_config (a : ConfigArgs) {s : State} (phase : s.port.phase = .command) :
    exec (.config a) s = .next (configAct a (withReceived (0x01 :: a.bytes) .arguments s)) := by
  obtain ⟨length, back⟩ := configBytesReadBack a
  show Host.Outcome.next (clockBytes (0x01 :: a.bytes) s) = _
  rw [clockBytes_command rfl a.bytes length s phase]
  show Host.Outcome.next (configAct (ConfigArgs.ofBytes a.bytes) _) = _
  rw [back]
  rfl

theorem exec_demand (channel : Byte) (value : BitVec 16) {s : State} (phase : s.port.phase = .command) :
    exec (.demand channel value) s
      = .next (demandAct channel value (withReceived (0x02 :: channel :: argumentBytes value) .arguments s)) := by
  show Host.Outcome.next (clockBytes (0x02 :: channel :: argumentBytes value) s) = _
  rw [clockBytes_command rfl (channel :: argumentBytes value) rfl s phase]
  show Host.Outcome.next (demandAct channel (word2 (value.extractLsb' 8 8) (value.extractLsb' 0 8)) _) = _
  rw [word2_extract]
  rfl

theorem exec_clear (channel mask : Byte) {s : State} (phase : s.port.phase = .command) :
    exec (.clear channel mask) s = .next (clearAct channel mask (withReceived [0x03, channel, mask] .arguments s)) := by
  show Host.Outcome.next (clockBytes [0x03, channel, mask] s) = _
  rw [clockBytes_command rfl [channel, mask] rfl s phase]
  rfl

theorem exec_quiet {s : State} (phase : s.port.phase = .command) :
    exec .quiet s = .next (quietAct (withReceived [0x04] .command s)) := by
  show Host.Outcome.next (clockBytes [0x04] s) = _
  rw [clockBytes_command rfl [] rfl s phase]
  rfl

theorem exec_leaveQuiet {s : State} (phase : s.port.phase = .command) :
    exec .leaveQuiet s = .next (leaveQuietAct (withReceived [0x05] .command s)) := by
  show Host.Outcome.next (clockBytes [0x05] s) = _
  rw [clockBytes_command rfl [] rfl s phase]
  rfl

theorem exec_channel (b : Byte) {s : State} (phase : s.port.phase = .command) :
    exec (.channel b) s = .next (channelAct b (withReceived [0x10, b] .arguments s)) := by
  show Host.Outcome.next (clockBytes [0x10, b] s) = _
  rw [clockBytes_command rfl [b] rfl s phase]
  rfl

theorem exec_slot (b : Byte) {s : State} (phase : s.port.phase = .command) :
    exec (.slot b) s = .next (slotAct b (withReceived [0x11, b] .arguments s)) := by
  show Host.Outcome.next (clockBytes [0x11, b] s) = _
  rw [clockBytes_command rfl [b] rfl s phase]
  rfl

theorem exec_holdings (b : Byte) {s : State} (phase : s.port.phase = .command) :
    exec (.holdings b) s = .next (holdingsAct b (withReceived [0x12, b] .arguments s)) := by
  show Host.Outcome.next (clockBytes [0x12, b] s) = _
  rw [clockBytes_command rfl [b] rfl s phase]
  rfl

theorem exec_peer (b : Byte) {s : State} (phase : s.port.phase = .command) :
    exec (.peer b) s = .next (peerAct b (withReceived [0x13, b] .arguments s)) := by
  show Host.Outcome.next (clockBytes [0x13, b] s) = _
  rw [clockBytes_command rfl [b] rfl s phase]
  rfl

theorem exec_station {s : State} (phase : s.port.phase = .command) :
    exec .station s = .next (stationAct (withReceived [0x14] .command s)) := by
  show Host.Outcome.next (clockBytes [0x14] s) = _
  rw [clockBytes_command rfl [] rfl s phase]
  rfl

theorem exec_event {s : State} (phase : s.port.phase = .command) :
    exec .event s = .next (eventAct (withReceived [0x15] .command s)) := by
  show Host.Outcome.next (clockBytes [0x15] s) = _
  rw [clockBytes_command rfl [] rfl s phase]
  rfl

/-! ## The index arguments -/

theorem channelByte_of_channel (c : ChannelId) : channelByte? (BitVec.ofNat 8 c.val) = some c := by
  revert c
  decide

theorem slotByte_of_slot (k : Slot) : slotByte? (BitVec.ofNat 8 k.val) = some k := by
  revert k
  decide

theorem addressByte_of_address (a : Address) : addressByte? (BitVec.ofNat 8 a.val) = some a := by
  revert a
  decide

theorem channelByte_none {b : Byte} (h : 11 < b.toNat) : channelByte? b = none := dif_neg (by omega)

theorem slotByte_none {b : Byte} (h : 63 < b.toNat) : slotByte? b = none := dif_neg (by omega)

theorem addressByte_none {b : Byte} (h : 31 < b.toNat) : addressByte? b = none := dif_neg (by omega)

/-! ## The write commands -/

/-- Settles O6: every check passes, so the configuration is applied. -/
theorem validConfigEntersListen : Obligations.ValidConfigEntersListen := by
  intro a s phase unconfigured valid empty
  have check : configCheck a = 0 := valid
  have applied : configAct a (withReceived (0x01 :: a.bytes) .arguments s)
      = respond [statusOk, 0] (applyConfig a (withReceived (0x01 :: a.bytes) .arguments s)) :=
    (if_neg (not_not.mpr unconfigured)).trans (if_pos valid)
  refine ⟨_, (exec_config a phase).trans (congrArg Host.Outcome.next applied), rfl, ?_, ?_, rfl, rfl, rfl, rfl, rfl, rfl, rfl, ?_,
    fun c => ?_, rfl, rfl, rfl, rfl, rfl⟩
  · unfold configCheck at check
    split_ifs at check with address
    exact Nat.mod_eq_of_lt (by omega)
  · unfold configCheck at check
    split_ifs at check with address rate
    exact Nat.mod_eq_of_lt (by omega)
  · show ({ s.sched with queue := offerTo s.sched.queue .rollcall } : Scheduler) = _
    rw [empty]
    rfl
  · show (Vector.ofFn fun c : ChannelId => s.channels[c].configure a.ratings[c].toNat)[c] = _
    rw [Fin.getElem_fin, Vector.getElem_ofFn]
    simp only [Channel.configure, ← BitVec.toNat_inj]
    rfl

theorem configAct_wrongState (a : ConfigArgs) {s : State} (h : s.station.state ≠ .unconfigured) :
    configAct a s = respond [statusWrongState, 0] s := if_pos h

theorem configAct_badArgument {a : ConfigArgs} {s : State} (h : s.station.state = .unconfigured) (bad : configCheck a ≠ 0) :
    configAct a s = respond [statusBadArgument, BitVec.ofNat 8 (configCheck a)] s :=
  (if_neg (not_not.mpr h)).trans (if_neg bad)

theorem demandAct_wrongState (c : Byte) (d : BitVec 16) {s : State} (h : s.station.state = .unconfigured ∨ s.station.state = .halt) :
    demandAct c d s = respond [statusWrongState] s := if_pos h

theorem demandAct_badArgument {c : Byte} {d : BitVec 16} {s : State} (unconfigured : s.station.state ≠ .unconfigured)
    (halt : s.station.state ≠ .halt) (bad : ∀ i, channelByte? c = some i → 512 < d.toNat ∨ s.channels[i].state = .unused) :
    demandAct c d s = respond [statusBadArgument] s := by
  unfold demandAct
  rw [if_neg (not_or.mpr ⟨unconfigured, halt⟩)]
  cases named : channelByte? c with
  | none => rfl
  | some i => exact if_pos (bad i named)

theorem demandAct_accepted {c : ChannelId} {d : BitVec 16} {s : State} (unconfigured : s.station.state ≠ .unconfigured)
    (halt : s.station.state ≠ .halt) (inRange : d.toNat ≤ 512) (used : s.channels[c].state ≠ .unused) :
    demandAct (BitVec.ofNat 8 c.val) d s = respond [statusOk] (applyDemand c d.toNat s) := by
  unfold demandAct
  rw [if_neg (not_or.mpr ⟨unconfigured, halt⟩), channelByte_of_channel]
  exact if_neg (not_or.mpr ⟨Nat.not_lt.mpr inRange, used⟩)

/-- Settles O9: each refusal answers its status and acts no further. -/
theorem refusedWriteCommandsChangeNothing : Obligations.RefusedWriteCommandsChangeNothing := by
  intro a c d mask s phase answered refusedConfig refusedDemand refusedClear
  refine ⟨fun state => ?_, fun state bad => ?_, fun state => ?_, fun unconfigured halt bad => ?_,
    fun channel unconfigured halt unused => ?_, fun state => ?_, fun state bad => ?_⟩
  · exact (exec_config a phase).trans (congrArg Host.Outcome.next (configAct_wrongState a (by exact state)))
  · exact (exec_config a phase).trans (congrArg Host.Outcome.next (configAct_badArgument (by exact state) bad))
  · exact (exec_demand c d phase).trans (congrArg Host.Outcome.next (demandAct_wrongState c d (by exact state)))
  · refine (exec_demand c d phase).trans (congrArg Host.Outcome.next (demandAct_badArgument (by exact unconfigured) (by exact halt)
      fun i named => ?_))
    rcases bad with bad | bad
    · rw [channelByte_none bad] at named
      cases named
    · exact .inl bad
  · refine (exec_demand c d phase).trans (congrArg Host.Outcome.next (demandAct_badArgument (by exact unconfigured) (by exact halt)
      fun i named => ?_))
    cases (dif_pos channel).symm.trans named
    exact .inr unused
  · rw [exec_clear c mask phase]
    exact congrArg Host.Outcome.next (if_pos state)
  · rw [exec_clear c mask phase]
    have refused : clearAct c mask (withReceived [0x03, c, mask] .arguments s)
        = respond [statusBadArgument] (withReceived [0x03, c, mask] .arguments s) := by
      unfold clearAct
      rw [channelByte_none bad]
      exact if_neg state
    rw [refused]
    rfl

theorem Channel.clearFlags_eq (mask : Byte) (ch : Channel) :
    ch.clearFlags mask
      = { ch with
          superseded := if mask.getLsbD 0 then false else ch.superseded
          starved := if mask.getLsbD 1 then false else ch.starved
          evicted := if mask.getLsbD 2 then false else ch.evicted } := by
  unfold Channel.clearFlags
  cases mask.getLsbD 0 <;> cases mask.getLsbD 1 <;> cases mask.getLsbD 2 <;> simp

/-- Settles O10. -/
theorem clearClearsSelectedFlags : Obligations.ClearClearsSelectedFlags := by
  intro c mask s phase state
  rw [exec_clear _ mask phase]
  have accepted (t : State) (same : t.station = s.station) :
      clearAct (BitVec.ofNat 8 c.val) mask t = respond [statusOk] (t.mapChannel c (Channel.clearFlags mask)) := by
    unfold clearAct
    rw [channelByte_of_channel, if_neg (by rw [same]; exact state)]
  rw [accepted _ (by rfl)]
  unfold State.mapChannel
  rw [Channel.clearFlags_eq]
  rfl

/-! ## The reads -/

theorem Channel.flagByte_eq (ch : Channel) :
    ch.flagByte = BitVec.ofNat 8 ((if ch.superseded then 1 else 0) + (if ch.starved then 2 else 0) + (if ch.evicted then 4 else 0)) := by
  unfold Channel.flagByte
  cases ch.superseded <;> cases ch.starved <;> cases ch.evicted <;> rfl

theorem stationFlagByte_eq (s : State) :
    stationFlagByte s = BitVec.ofNat 8 ((if s.timer.syncAcquired then 1 else 0) + (if s.station.quietStale then 2 else 0)) := by
  unfold stationFlagByte
  cases s.timer.syncAcquired <;> cases s.station.quietStale <;> rfl

theorem PlanTable.presentCount_eq (t : PlanTable) : t.presentCount = (List.finRange 32).countP fun a => t.peers[a].present :=
  List.countP_eq_length_filter.symm

/-- Settles O13: each read responds with the record that its argument names. -/
theorem readsReplyWithSnapshots : Obligations.ReadsReplyWithSnapshots := by
  intro s phase replied two
  refine ⟨fun c => ?_, fun k => ?_, fun a => ?_, fun a => ?_, ?_, rfl, rfl, rfl, fun b => ⟨fun h => ?_, fun h => ?_, fun h => ?_,
    fun h => ?_⟩⟩
  · rw [exec_channel _ phase, channelAct, channelByte_of_channel]
    dsimp only
    rw [Channel.replyBytes, Channel.flagByte_eq]
    rfl
  · rw [exec_slot _ phase, slotAct, slotByte_of_slot]
    rfl
  · rw [exec_holdings _ phase, holdingsAct, addressByte_of_address]
    rfl
  · rw [exec_peer _ phase, peerAct, addressByte_of_address]
    dsimp only
    rw [Peer.replyBytes]
    show Host.Outcome.next (respond (statusOk :: ([BitVec.ofNat 8 s.table.peers[a].present.toNat, _] ++ _)) _) = _
    cases s.table.peers[a].present <;> rfl
  · rw [exec_station phase, stationAct, stationReply, stationFlagByte_eq, PlanTable.presentCount_eq]
    rfl
  · rw [exec_channel _ phase, channelAct, channelByte_none h]
    rfl
  · rw [exec_slot _ phase, slotAct, slotByte_none h]
    rfl
  · rw [exec_holdings _ phase, holdingsAct, addressByte_none h]
    rfl
  · rw [exec_peer _ phase, peerAct, addressByte_none h]
    rfl

/-! ## Events -/

/-- Settles O14: the read copies the head, the shift to bit 40 removes it, and a post has four outcomes (R160). -/
theorem eventReadsAndRemovesTheHead : Obligations.EventReadsAndRemovesTheHead := by
  intro s
  refine ⟨fun phase empty => ?_, fun r rest phase head => ?_, fun r rest phase pending head length => ?_, fun none => ?_, rfl,
    fun _ => rfl, fun _ => rfl, fun _ => rfl, fun _ => rfl, fun r => ⟨fun masked => ?_, fun posted => ⟨fun room => ?_, fun last => ?_,
    fun full => ?_⟩⟩⟩
  · rw [exec_event phase]
    unfold eventAct
    rw [show (withReceived [0x15] .command s).port.events = [] from empty]
    rfl
  · rw [exec_event phase]
    unfold eventAct
    rw [show (withReceived [0x15] .command s).port.events = r :: rest from head]
    rfl
  · refine (congrArg Host.Outcome.next ((if_pos ⟨phase, pending⟩).trans (shiftTo_of_removed pending (Nat.le_refl 40)))).trans ?_
    simp only [LocalPort.removeHead, LocalPort.phaseAt, head, length, List.tail_cons, List.isEmpty_iff]
    rfl
  · exact congrArg Host.Outcome.next (if_neg none)
  · unfold LocalPort.post
    rw [masked]
    rfl
  all_goals
    unfold LocalPort.post Config.eventLimit
    rw [posted, Bool.not_true, if_neg Bool.false_ne_true]
  · exact if_pos (by omega)
  · rw [if_neg (by omega), if_pos (by omega)]
    rfl
  · rw [if_neg (by omega), if_neg (by omega)]

/-- A reply that is shifted out byte by byte stands at its bit position, as long as the record has not ended. -/
theorem clockBytes_reply_kept (clocked : List Byte) : ∀ s : State, s.port.phase = .reply → s.port.reply.length = 5 →
    s.port.replyPosition + 8 * clocked.length < 40 →
      clockBytes clocked s = { s with port := { s.port with replyPosition := s.port.replyPosition + 8 * clocked.length } } := by
  induction clocked with
  | nil => exact fun _ _ _ _ => rfl
  | cons b bs ih =>
    intro s phase length short
    rw [List.length_cons] at short
    have one : clockByte s b = { s with port := { s.port with replyPosition := s.port.replyPosition + 8 } } := by
      unfold clockByte
      rw [phase]
      dsimp only
      rw [shiftTo_of_kept fun _ => by omega, LocalPort.phaseAt, if_neg (by omega)]
    rw [clockBytes_cons, one, ih _ (by exact phase) (by exact length) (by dsimp only; omega)]
    rw [List.length_cons, Nat.mul_succ, Nat.add_comm (8 * bs.length), Nat.add_assoc]

/-- Bytes beyond the end of the reply change nothing. -/
theorem clockBytes_ignored (clocked : List Byte) {s : State} (phase : s.port.phase = .ignore) : clockBytes clocked s = s := by
  induction clocked with
  | nil => rfl
  | cons b bs ih =>
    rw [clockBytes_cons, clockByte, phase]
    exact ih

/-- With its fifth byte the record has left (R162). -/
theorem clockBytes_reply_removed {clocked : List Byte} (whole : 5 ≤ clocked.length) {s : State} (phase : s.port.phase = .reply)
    (length : s.port.reply.length = 5) (start : s.port.replyPosition = 0) (pending : s.port.pendingRemoval = true) :
    clockBytes clocked s = { s with port := { s.port.removeHead with replyPosition := 40, phase := .ignore } } := by
  have four : (clocked.take 4).length = 4 := by rw [List.length_take]; omega
  have cut : clocked = clocked.take 4 ++ clocked[4] :: clocked.drop 5 := by
    rw [List.getElem_cons_drop, List.take_append_drop]
  rw [cut, clockBytes_append, clockBytes_reply_kept _ s phase length (by omega), clockBytes_cons]
  have last (t : State) (replying : t.port.phase = .reply) (at32 : t.port.replyPosition = 32) :
      clockByte t clocked[4] = shiftTo 40 t := by
    unfold clockByte
    rw [replying, at32]
  rw [last _ (by exact phase) (by dsimp only; omega), shiftTo_of_removed (by exact pending) (Nat.le_refl 40), clockBytes_ignored]
  · simp only [LocalPort.phaseAt, LocalPort.removeHead, length]
    rfl
  · simp [LocalPort.phaseAt, length]

/-- Settles O15: up to four bytes keep the record, and the fifth removes it. -/
theorem eventLeavesOnlyWhenShiftedOut : Obligations.EventLeavesOnlyWhenShiftedOut := by
  intro clocked r rest s phase pending start length head
  refine ⟨riseSelect (clockBytes clocked s), rfl, ?_⟩
  by_cases whole : 5 ≤ clocked.length
  · rw [clockBytes_reply_removed whole phase length start pending]
    refine ⟨rfl, rfl, rfl, rfl, rfl, ?_, ?_⟩
    · rw [if_pos whole]
      exact congrArg List.tail head
    · simp [riseSelect, LocalPort.removeHead, head, whole]
  · rw [clockBytes_reply_kept clocked s phase length (by omega), if_neg whole, if_neg (fun h => whole h.1)]
    exact ⟨rfl, rfl, rfl, rfl, rfl, head, rfl⟩

end Sys2Proof.Machine
end

section
/-! The rows that settle channels: DEMAND (R106), QUIET and LEAVE QUIET (R141, R145), the announce that falls due (R39), and the image of
reset, which meets every law. -/

namespace Sys2Proof.Machine

/-! ## What settling one channel changes -/

/-- Settling a channel changes its record and the queue, and nothing else. -/
theorem settle_upd (c : ChannelId) (s : State) :
    settle c s
      = { s with
          channels := s.channels.set c (settle c s).channels[c]
          sched := { s.sched with queue := (settle c s).sched.queue } } := by
  have channels : (settle c s).channels = s.channels.set c (settle c s).channels[c] := by
    ext d hd : 1
    rw [Vector.getElem_set]
    split
    · next same => subst same; rfl
    · next other => exact settle_get_ne (c := c) (d := ⟨d, hd⟩) (fun same => other (congrArg Fin.val same).symm) s
  have frame := settle_frame c s
  revert channels frame
  generalize settle c s = t
  generalize s.channels.set c t.channels[c] = channels
  obtain ⟨_, _, _, _, _, _, ⟨_, _, _⟩, _, _, _, _, _⟩ := t
  rintro rfl ⟨rfl, rfl, rfl, rfl, rfl, rfl, rfl, rfl, rfl, rfl, rfl, rfl⟩
  rfl

/-- A channel that needs a CLAIM is QUEUED with it, or waits (R104, R105). -/
theorem settle_of_needsClaim {c : ChannelId} {s : State} (used : s.channels[c].state ≠ .unused)
    (rests : s.channels[c].state ≠ .inFlight) (needs : s.channels[c].needsClaim = true) :
    settle c s = placeRequest (.claim c) c s := by
  rw [settle_eq, if_neg (by tauto), if_pos needs]

theorem Channel.not_needsClaim_of_needsRelease {ch : Channel} (needs : ch.needsRelease = true) : ¬ch.needsClaim = true := by
  simp only [Channel.needsRelease, Bool.and_eq_true, decide_eq_true_eq] at needs
  simp [Channel.needsClaim, needs.1]

/-- A channel that needs a RELEASE is QUEUED with it, or waits (R104, R105). -/
theorem settle_of_needsRelease {c : ChannelId} {s : State} (used : s.channels[c].state ≠ .unused)
    (rests : s.channels[c].state ≠ .inFlight) (needs : s.channels[c].needsRelease = true) :
    settle c s = placeRequest (.release c) c s := by
  rw [settle_eq, if_neg (by tauto), if_neg (Channel.not_needsClaim_of_needsRelease needs), if_pos needs]

/-- A channel that needs nothing is HELD or IDLE (R104). -/
theorem settle_of_realised {c : ChannelId} {s : State} (used : s.channels[c].state ≠ .unused)
    (rests : s.channels[c].state ≠ .inFlight) (claims : s.channels[c].needsClaim = false)
    (releases : s.channels[c].needsRelease = false) :
    settle c s
      = (withdrawAll c s).mapChannel c fun ch =>
          { ch with state := if ch.span.isSome then .held else .idle, held := ch.target } := by
  rw [settle_eq, if_neg (by tauto), if_neg (Bool.eq_false_iff.mp claims), if_neg (Bool.eq_false_iff.mp releases)]

theorem placeRequest_queue (r : Request) (c : ChannelId) (s : State) :
    (placeRequest r c s).sched.queue
      = if holds s.sched.queue r || s.station.state.mayQueue r then offerTo s.sched.queue r
        else s.sched.queue.filter fun e => e.onWire || e.request.channel? != some c := by
  unfold placeRequest
  split <;> rfl

/-! ## DEMAND -/

/-- The record of a channel with a new target (R106). -/
def Channel.demanded (d : Nat) (ch : Channel) : Channel :=
  { ch with
    target := d
    superseded :=
      ch.superseded || ((ch.state = .waiting || ch.state = .queued || ch.state = .starved) && decide (d ≠ ch.target)) }

/-- The states in which a demand does not settle its channel (R106). -/
def Channel.staysAt (d : Nat) (ch : Channel) : Prop := ch.state = .inFlight ∨ (ch.state = .starved ∧ d = ch.target)

theorem applyDemand_of_stays {c : ChannelId} {d : Nat} {s : State} (h : s.channels[c].staysAt d) :
    applyDemand c d s = s.mapChannel c (Channel.demanded d) :=
  if_pos (by simpa [Channel.staysAt] using h)

theorem applyDemand_of_settles {c : ChannelId} {d : Nat} {s : State} (h : ¬s.channels[c].staysAt d) :
    applyDemand c d s = settle c (s.mapChannel c (Channel.demanded d)) :=
  if_neg (by simpa [Channel.staysAt] using h)

theorem demanded_get (c : ChannelId) (d : Nat) (s : State) :
    (s.mapChannel c (Channel.demanded d)).channels[c] = s.channels[c].demanded d := by
  rw [mapChannel_get, if_pos rfl]

/-- A demand changes the record of its channel and the queue, and nothing else. -/
theorem applyDemand_upd (c : ChannelId) (d : Nat) (s : State) :
    applyDemand c d s
      = { s with
          channels := s.channels.set c (applyDemand c d s).channels[c]
          sched := { s.sched with queue := (applyDemand c d s).sched.queue } } := by
  by_cases stays : s.channels[c].staysAt d
  · rw [applyDemand_of_stays stays, demanded_get]
    rfl
  · rw [applyDemand_of_settles stays]
    conv_lhs => rw [settle_upd]
    simp only [State.mapChannel, Vector.set_set]

/-- A demand leaves rating, span and the flags but SUPERSEDED. -/
theorem applyDemand_record (c : ChannelId) (d : Nat) (s : State) :
    (applyDemand c d s).channels[c]
      = { s.channels[c].demanded d with
          state := (applyDemand c d s).channels[c].state, held := (applyDemand c d s).channels[c].held } := by
  by_cases stays : s.channels[c].staysAt d
  · rw [applyDemand_of_stays stays, demanded_get]
  · rw [applyDemand_of_settles stays]
    conv_lhs => rw [settle_get_fields, demanded_get]

/-- A demand that needs a request for its channel, and how the request is placed (R105). -/
theorem applyDemand_places {c : ChannelId} {d : Nat} {s : State} {r : Request}
    (settles : applyDemand c d s = placeRequest r c (s.mapChannel c (Channel.demanded d))) :
    (applyDemand c d s).channels[c].held = s.channels[c].held
      ∧ ((holds s.sched.queue r || s.station.state.mayQueue r) = true →
          (applyDemand c d s).channels[c].state = .queued ∧ (applyDemand c d s).sched.queue = offerTo s.sched.queue r)
      ∧ ((holds s.sched.queue r || s.station.state.mayQueue r) = false →
          (applyDemand c d s).channels[c].state = .waiting
            ∧ (applyDemand c d s).sched.queue = s.sched.queue.filter fun e => e.onWire || e.request.channel? != some c) := by
  rw [settles, placeRequest_get, if_pos rfl, demanded_get, placeRequest_queue]
  refine ⟨rfl, fun may => ?_, fun mayNot => ?_⟩
  · exact ⟨if_pos may, if_pos may⟩
  · exact ⟨if_neg (Bool.eq_false_iff.mp mayNot), if_neg (Bool.eq_false_iff.mp mayNot)⟩

/-- A demand that needs no request for its channel. -/
theorem applyDemand_realised {c : ChannelId} {d : Nat} {s : State}
    (settles : applyDemand c d s = (withdrawAll c (s.mapChannel c (Channel.demanded d))).mapChannel c fun ch =>
      { ch with state := if ch.span.isSome then .held else .idle, held := ch.target }) :
    (applyDemand c d s).channels[c].state = (if s.channels[c].span.isSome then .held else .idle)
      ∧ (applyDemand c d s).channels[c].held = d
      ∧ (applyDemand c d s).sched.queue = s.sched.queue.filter fun e => e.onWire || e.request.channel? != some c := by
  rw [settles, mapChannel_get, if_pos rfl, withdrawAll_channels, demanded_get]
  exact ⟨rfl, rfl, rfl⟩

/-- A request is queued or may be (R105). -/
def State.mayPlace (s : State) (c : ChannelId) (r : Request) : Prop :=
  (∃ e ∈ s.sched.queue, e.request = r) ∨ s.station.state = .joined ∨ (s.station.state = .resync ∧ r = .release c)

theorem mayPlace_claim (c : ChannelId) (s : State) :
    (holds s.sched.queue (.claim c) || s.station.state.mayQueue (.claim c)) = true ↔ s.mayPlace c (.claim c) := by
  rw [Bool.or_eq_true, holds_iff, StationState.mayQueue, beq_iff_eq]
  simp [State.mayPlace]

theorem mayPlace_release (c : ChannelId) (s : State) :
    (holds s.sched.queue (.release c) || s.station.state.mayQueue (.release c)) = true ↔ s.mayPlace c (.release c) := by
  rw [Bool.or_eq_true, holds_iff, StationState.mayQueue, Bool.or_eq_true, beq_iff_eq, beq_iff_eq]
  simp [State.mayPlace]

section
variable {c : ChannelId} {d : Nat} {s : State} (used : s.channels[c].state ≠ .unused) (settles : ¬s.channels[c].staysAt d)
include used settles

theorem demanded_settles : (s.mapChannel c (Channel.demanded d)).channels[c].state ≠ .unused
    ∧ (s.mapChannel c (Channel.demanded d)).channels[c].state ≠ .inFlight := by
  rw [demanded_get]
  exact ⟨used, fun flight => settles (.inl flight)⟩

/-- A demand whose span is none or of another length takes a CLAIM. -/
theorem applyDemand_claims (positive : 0 < d) (unfit : ∀ span, s.channels[c].span = some span → span.length ≠ slotsFor d) :
    (applyDemand c d s).channels[c].held = s.channels[c].held
      ∧ (s.mayPlace c (.claim c) →
          (applyDemand c d s).channels[c].state = .queued ∧ (applyDemand c d s).sched.queue = offerTo s.sched.queue (.claim c))
      ∧ (¬s.mayPlace c (.claim c) →
          (applyDemand c d s).channels[c].state = .waiting
            ∧ (applyDemand c d s).sched.queue = s.sched.queue.filter fun e => e.onWire || e.request.channel? != some c) := by
  have needs : (s.mapChannel c (Channel.demanded d)).channels[c].needsClaim = true := by
    rw [demanded_get]
    simp only [Channel.needsClaim, Channel.demanded, positive, decide_true, Bool.true_and, Option.all_eq_true]
    exact fun span some => decide_eq_true (unfit span some)
  obtain ⟨hu, hf⟩ := demanded_settles used settles
  simpa only [← mayPlace_claim, Bool.not_eq_true] using
    applyDemand_places ((applyDemand_of_settles settles).trans (settle_of_needsClaim hu hf needs))

/-- The demand 0 with a span takes a RELEASE. -/
theorem applyDemand_releases (zero : d = 0) {span : Span} (some : s.channels[c].span = some span) :
    (applyDemand c d s).channels[c].held = s.channels[c].held
      ∧ (s.mayPlace c (.release c) →
          (applyDemand c d s).channels[c].state = .queued ∧ (applyDemand c d s).sched.queue = offerTo s.sched.queue (.release c))
      ∧ (¬s.mayPlace c (.release c) →
          (applyDemand c d s).channels[c].state = .waiting
            ∧ (applyDemand c d s).sched.queue = s.sched.queue.filter fun e => e.onWire || e.request.channel? != Option.some c) := by
  have needs : (s.mapChannel c (Channel.demanded d)).channels[c].needsRelease = true := by
    rw [demanded_get]
    simp only [Channel.needsRelease, Channel.demanded, zero, some]
    rfl
  obtain ⟨hu, hf⟩ := demanded_settles used settles
  simpa only [← mayPlace_release, Bool.not_eq_true] using
    applyDemand_places ((applyDemand_of_settles settles).trans (settle_of_needsRelease hu hf needs))

/-- The demand 0 without a span takes no request. -/
theorem applyDemand_idles (zero : d = 0) (none : s.channels[c].span = none) :
    (applyDemand c d s).channels[c].state = .idle ∧ (applyDemand c d s).channels[c].held = 0
      ∧ (applyDemand c d s).sched.queue = s.sched.queue.filter fun e => e.onWire || e.request.channel? != some c := by
  have needs : (s.channels[c].demanded d).needsClaim = false ∧ (s.channels[c].demanded d).needsRelease = false := by
    simp [Channel.needsClaim, Channel.needsRelease, Channel.demanded, zero, show s.channels[c.val].span = Option.none from none]
  obtain ⟨hu, hf⟩ := demanded_settles used settles
  obtain ⟨state, held, queue⟩ := applyDemand_realised ((applyDemand_of_settles settles).trans
    (settle_of_realised hu hf (by rw [demanded_get]; exact needs.1) (by rw [demanded_get]; exact needs.2)))
  exact ⟨by rw [state, none]; rfl, held.trans zero, queue⟩

/-- A demand that the span realises takes no request. -/
theorem applyDemand_holds (positive : 0 < d) {span : Span} (some : s.channels[c].span = some span) (fits : span.length = slotsFor d) :
    (applyDemand c d s).channels[c].state = .held ∧ (applyDemand c d s).channels[c].held = d
      ∧ (applyDemand c d s).sched.queue = s.sched.queue.filter fun e => e.onWire || e.request.channel? != Option.some c := by
  have needs : (s.channels[c].demanded d).needsClaim = false ∧ (s.channels[c].demanded d).needsRelease = false := by
    simp [Channel.needsClaim, Channel.needsRelease, Channel.demanded, show s.channels[c.val].span = Option.some span from some, fits,
      Nat.pos_iff_ne_zero.mp positive]
  obtain ⟨hu, hf⟩ := demanded_settles used settles
  obtain ⟨state, held, queue⟩ := applyDemand_realised ((applyDemand_of_settles settles).trans
    (settle_of_realised hu hf (by rw [demanded_get]; exact needs.1) (by rw [demanded_get]; exact needs.2)))
  exact ⟨by rw [state, some]; rfl, held, queue⟩

end

/-- Settles O8: the record takes its target, and settling compares the target with the span. -/
theorem demandSettlesItsChannel : Obligations.DemandSettlesItsChannel := by
  intro c d s phase unconfigured halt inRange used ch unrealised stays withdrawn may
  have record := applyDemand_record c d.toNat (withReceived (0x02 :: BitVec.ofNat 8 c.val :: argumentBytes d) .arguments s)
  refine ⟨_, (applyDemand c d.toNat (withReceived (0x02 :: BitVec.ofNat 8 c.val :: argumentBytes d) .arguments s)).channels[c],
    (exec_demand _ d phase).trans
      (congrArg Host.Outcome.next (demandAct_accepted (by exact unconfigured) (by exact halt) inRange (by exact used))),
    ?_, ?_, ?_, fun kept => ?_, fun settles zero none => ?_, fun span settles some zero => ?_,
    fun span settles some positive fits => ?_, fun settles positive unfit => ?_⟩
  · conv_lhs => rw [applyDemand_upd]
    rfl
  · rw [record]
    rfl
  · rw [record]
    simp only [Channel.demanded, Bool.or_eq_true, Bool.and_eq_true, decide_eq_true_eq, or_assoc]
    rfl
  · rw [applyDemand_of_stays (by exact kept), demanded_get]
    exact ⟨rfl, rfl, rfl⟩
  · exact applyDemand_idles (s := withReceived (0x02 :: BitVec.ofNat 8 c.val :: argumentBytes d) .arguments s) used settles zero none
  · exact applyDemand_releases (s := withReceived (0x02 :: BitVec.ofNat 8 c.val :: argumentBytes d) .arguments s) used settles zero some
  · exact applyDemand_holds (s := withReceived (0x02 :: BitVec.ofNat 8 c.val :: argumentBytes d) .arguments s) used settles positive
      some fits
  · exact applyDemand_claims (s := withReceived (0x02 :: BitVec.ofNat 8 c.val :: argumentBytes d) .arguments s) used settles positive unfit

/-! ## QUIET -/

theorem parkClaims_get (c : ChannelId) (s : State) :
    (parkClaims s).channels[c]
      = if s.channels[c].state = .queued ∧ holds s.sched.queue (.claim c) = true then { s.channels[c] with state := .waiting }
        else s.channels[c] := by
  unfold parkClaims
  rw [Fin.getElem_fin, Vector.getElem_ofFn]
  simp only [Bool.and_eq_true, decide_eq_true_eq]

theorem parkClaims_congr {s t : State} (channels : t.channels = s.channels) (queue : t.sched.queue = s.sched.queue) :
    (parkClaims t).channels = (parkClaims s).channels := by
  unfold parkClaims
  rw [channels, queue]

/-- Entry to LEAVING changes the station, the channels and the queue. -/
theorem enterLeaving_upd (s : State) :
    enterLeaving s
      = { s with
          station := (setStation .leaving .request s).station
          channels := (parkClaims s).channels
          sched := { s.sched with queue := offerTo (removeEntries Request.isClaim s.sched.queue) .announce } } := by
  have channels : (enterLeaving s).channels = (parkClaims s).channels := parkClaims_congr rfl rfl
  rw [← channels]
  rfl

theorem quietAct_joined {s : State} (h : s.station.state = .joined) : quietAct s = respond [statusOk] (enterLeaving s) := if_pos h

theorem quietAct_wrongState {s : State} (h : s.station.state ≠ .joined) : quietAct s = respond [statusWrongState] s := if_neg h

/-- Settles O11: the channels are parked with their CLAIMs. -/
theorem quietStartsLeaving : Obligations.QuietStartsLeaving := by
  intro s phase
  refine ⟨fun joined => ⟨(parkClaims s).channels, ?_, fun c => parkClaims_get c s⟩, fun other => ?_⟩
  · rw [exec_quiet phase, quietAct_joined (by exact joined), enterLeaving_upd]
    rfl
  · rw [exec_quiet phase, quietAct_wrongState (by exact other)]
    rfl

/-! ## LEAVE QUIET -/

/-- Settling the WAITING channels changes channels and queue, and nothing else. -/
theorem settleWaiting_upd (s : State) :
    settleWaiting s
      = { s with channels := (settleWaiting s).channels, sched := { s.sched with queue := (settleWaiting s).sched.queue } } := by
  have frame := settleWaiting_frame s
  revert frame
  generalize settleWaiting s = t
  obtain ⟨_, _, _, _, _, _, ⟨_, _, _⟩, _, _, _, _, _⟩ := t
  rintro ⟨rfl, rfl, rfl, rfl, rfl, rfl, rfl, rfl, rfl, rfl, rfl, rfl⟩
  rfl

/-- The state that is about to settle its WAITING channels on entry to JOINED (R138). -/
def enteringJoined (cause : Cause) (s : State) : State :=
  offer .announce ((setStation .joined cause s).mapQueue fun q => removeEntries (· == .rollcall) q)

theorem enterJoined_eq (cause : Cause) (s : State) :
    enterJoined cause s = post .joined (.cause cause) (settleWaiting (enteringJoined cause s)) := rfl

theorem enteringJoined_queue (cause : Cause) (s : State) :
    (enteringJoined cause s).sched.queue = offerTo (removeEntries (· == .rollcall) s.sched.queue) .announce := rfl

/-- Entry to JOINED changes the station, the channels and the queue, and posts JOINED. -/
theorem enterJoined_upd (cause : Cause) (s : State) :
    enterJoined cause s
      = { s with
          station := (setStation .joined cause s).station
          channels := (settleWaiting (enteringJoined cause s)).channels
          sched := { s.sched with queue := (settleWaiting (enteringJoined cause s)).sched.queue }
          port := s.port.post ⟨.joined, .cause cause, s.timer.cycleCounter⟩ } := by
  rw [enterJoined_eq, settleWaiting_upd]
  generalize settleWaiting (enteringJoined cause s) = t
  rfl

/-- The ANNOUNCE heads the queue, and no entry is on the wire or cancelled. -/
def State.HeadsFresh (s : State) : Prop :=
  ∃ rest, s.sched.queue = .fresh .announce :: rest ∧ ∀ e ∈ rest, e = .fresh e.request

theorem State.HeadsFresh.offers {s : State} (h : s.HeadsFresh) {r : Request} (other : r ≠ .announce)
    {t : State} (queue : t.sched.queue = offerTo s.sched.queue r) : t.HeadsFresh := by
  obtain ⟨rest, head, fresh⟩ := h
  have joins (l : List QueueEntry) (part : ∀ e ∈ l, e ∈ rest) : ∀ e ∈ l ++ [.fresh r], e = .fresh e.request := by
    intro e he
    rcases List.mem_append.mp he with old | new
    · exact fresh e (part e old)
    · obtain rfl := List.mem_singleton.mp new
      rfl
  rw [head, offerTo] at queue
  split at queue
  · exact ⟨rest, queue, fresh⟩
  · cases r with
    | announce => exact absurd rfl other
    | rollcall => exact ⟨rest ++ [.fresh .rollcall], by rw [queue]; rfl, joins rest fun e he => he⟩
    | claim c =>
      simp only [Request.other] at queue
      split at queue
      · exact ⟨rest, queue, fresh⟩
      · exact ⟨_, queue, joins _ fun e he => (List.mem_filter.mp he).1⟩
    | release c =>
      simp only [Request.other] at queue
      split at queue
      · exact ⟨rest, queue, fresh⟩
      · exact ⟨_, queue, joins _ fun e he => (List.mem_filter.mp he).1⟩

theorem State.HeadsFresh.withdraws {s : State} (h : s.HeadsFresh) (c : ChannelId) {t : State}
    (queue : t.sched.queue = s.sched.queue.filter fun e => e.onWire || e.request.channel? != some c) : t.HeadsFresh := by
  obtain ⟨rest, head, fresh⟩ := h
  rw [head] at queue
  exact ⟨_, queue, fun e he => fresh e (List.mem_filter.mp he).1⟩

theorem State.HeadsFresh.settle {s : State} (h : s.HeadsFresh) (c : ChannelId) : (settle c s).HeadsFresh := by
  have placed (r : Request) (other : r ≠ .announce) : (placeRequest r c s).HeadsFresh := by
    have queue := placeRequest_queue r c s
    split at queue
    · exact h.offers other queue
    · exact h.withdraws c queue
  rw [settle_eq]
  split
  · exact h
  · split
    · exact placed _ (by simp)
    · split
      · exact placed _ (by simp)
      · exact h.withdraws c rfl

theorem State.HeadsFresh.settleEach (cs : List ChannelId) : ∀ {s : State}, s.HeadsFresh →
    (cs.foldl (fun s c => settleIfWaiting c s) s).HeadsFresh := by
  induction cs with
  | nil => exact fun h => h
  | cons c cs ih =>
    intro u h
    have one : (settleIfWaiting c u).HeadsFresh := by
      unfold settleIfWaiting
      split
      · exact h.settle c
      · exact h
    exact ih one

theorem State.HeadsFresh.settleWaiting {s : State} (h : s.HeadsFresh) : (settleWaiting s).HeadsFresh := by
  unfold Machine.settleWaiting forChannels
  exact h.settleEach allChannels

/-- Where no entry is on the wire a CLAIM that is offered is queued. -/
theorem State.HeadsFresh.holds_offered {s : State} (h : s.HeadsFresh) (c : ChannelId) :
    holds (offerTo s.sched.queue (.claim c)) (.claim c) = true := by
  obtain ⟨rest, head, fresh⟩ := h
  have released : ¬s.sched.queue.any (fun e => e.request == .release c && e.onWire) = true := by
    rw [head, List.any_eq_true]
    rintro ⟨e, he, wire⟩
    rcases List.mem_cons.mp he with rfl | he
    · cases wire
    · rw [fresh e he] at wire
      simp [QueueEntry.fresh] at wire
  unfold offerTo
  split
  · assumption
  · simp only [Request.other]
    rw [if_neg released, holds_append]
    simp [holds, QueueEntry.fresh]

/-- Settling other channels leaves a channel's record, and its CLAIM queued or not. -/
theorem settleOthers_keeps {c : ChannelId} (cs : List ChannelId) (others : c ∉ cs) : ∀ s : State,
    (cs.foldl (fun s d => settleIfWaiting d s) s).channels[c] = s.channels[c]
      ∧ holds (cs.foldl (fun s d => settleIfWaiting d s) s).sched.queue (.claim c) = holds s.sched.queue (.claim c)
      ∧ (cs.foldl (fun s d => settleIfWaiting d s) s).station = s.station := by
  induction cs with
  | nil => exact fun _ => ⟨rfl, rfl, rfl⟩
  | cons d ds ih =>
    obtain ⟨other, others⟩ := List.ne_and_not_mem_of_not_mem_cons others
    intro s
    obtain ⟨record, queued, station⟩ := ih others (settleIfWaiting d s)
    rw [List.foldl_cons, record, queued, station]
    unfold settleIfWaiting
    split
    · exact ⟨settle_get_ne other s, settle_holds_claim_of_ne other s, (settle_frame d s).2.2.2.2.2.2.2.1⟩
    · exact ⟨rfl, rfl, rfl⟩

/-- In JOINED a WAITING channel with a target and no span is QUEUED with its CLAIM (R116). -/
theorem settleWaiting_claims {s : State} (headed : s.HeadsFresh) (joined : s.station.state = .joined) {c : ChannelId} (waiting : s.channels[c].state = .waiting)
    (positive : 0 < s.channels[c].target) (none : s.channels[c].span = none) :
    (settleWaiting s).channels[c] = { s.channels[c] with state := .queued } ∧ holds (settleWaiting s).sched.queue (.claim c) = true := by
  obtain ⟨before, after, cut⟩ := List.append_of_mem (List.mem_finRange c)
  have nodup : (before ++ c :: after).Nodup := cut ▸ List.nodup_finRange 12
  obtain ⟨-, nodupTail, apart⟩ := List.nodup_append.mp nodup
  have run : settleWaiting s
      = after.foldl (fun s d => settleIfWaiting d s) (settleIfWaiting c (before.foldl (fun s d => settleIfWaiting d s) s)) := by
    rw [settleWaiting, forChannels, allChannels, cut, List.foldl_append, List.foldl_cons]
  obtain ⟨record, -, station⟩ := settleOthers_keeps before (fun h => apart c h c List.mem_cons_self rfl) s
  have headedThen := headed.settleEach before
  rw [run]
  generalize before.foldl (fun s d => settleIfWaiting d s) s = u at record station headedThen
  obtain ⟨recordAfter, queuedAfter, -⟩ := settleOthers_keeps after (List.nodup_cons.mp nodupTail).1 (settleIfWaiting c u)
  have state : u.channels[c].state = .waiting := by rw [record]; exact waiting
  have needs : u.channels[c].needsClaim = true := by
    rw [record, Channel.needsClaim, none]
    simpa using positive
  have placed : settleIfWaiting c u = placeRequest (.claim c) c u :=
    (if_pos state).trans (settle_of_needsClaim (by rw [state]; decide) (by rw [state]; decide) needs)
  have may : (holds u.sched.queue (.claim c) || u.station.state.mayQueue (.claim c)) = true := by
    rw [station, joined]
    exact Bool.or_true _
  rw [recordAfter, queuedAfter, placed, placeRequest_get, if_pos rfl, if_pos may, placeRequest_queue, if_pos may, record]
  exact ⟨rfl, headedThen.holds_offered c⟩

/-- A post and the bytes received touch different items of the port. -/
theorem LocalPort.post_received (p : LocalPort) (bytes : List Byte) (phase : Phase) (r : EventRecord) :
    ({ p with phase := phase, received := bytes } : LocalPort).post r = { p.post r with phase := phase, received := bytes } := by
  unfold LocalPort.post LocalPort.store
  dsimp only
  split_ifs <;> rfl

theorem leaveQuietAct_returns {s : State} (quiet : s.station.state = .quiet) (clear : s.station.quietStale = false) :
    leaveQuietAct s = respond [statusOk] (enterJoined .returned s) :=
  (if_pos quiet).trans (congrArg (respond [statusOk]) (if_neg (by rw [clear]; decide)))

theorem leaveQuietAct_listens {s : State} (quiet : s.station.state = .quiet) (stale : s.station.quietStale = true) :
    leaveQuietAct s = respond [statusOk] (enterListen .stale s) :=
  (if_pos quiet).trans (congrArg (respond [statusOk]) (if_pos stale))

/-- Settles O12: the settling of the WAITING channels takes place behind the ANNOUNCE. -/
theorem leaveQuietReturnsOrListens : Obligations.LeaveQuietReturnsOrListens := by
  intro s phase
  refine ⟨fun quiet clear empty => ?_, fun quiet stale empty => ?_, fun other => ?_⟩
  · rw [exec_leaveQuiet phase, leaveQuietAct_returns (by exact quiet) (by exact clear), enterJoined_upd]
    obtain ⟨v, hv⟩ : ∃ v, v = enteringJoined .returned (withReceived [0x05] .command s) := ⟨_, rfl⟩
    have channels : v.channels = s.channels := by rw [hv]; rfl
    have joined : v.station.state = .joined := by rw [hv]; rfl
    have headed : v.HeadsFresh :=
      ⟨[], by rw [hv, enteringJoined_queue, show (withReceived [0x05] .command s).sched.queue = [] from empty]; rfl, by simp⟩
    rw [← hv]
    obtain ⟨rest, queue, fresh⟩ := headed.settleWaiting
    have claims {c : ChannelId} (waiting : s.channels[c].state = .waiting) (positive : 0 < s.channels[c].target)
        (none : s.channels[c].span = none) :=
      settleWaiting_claims headed joined (c := c) (by rw [channels]; exact waiting) (by rw [channels]; exact positive)
        (by rw [channels]; exact none)
    rw [channels] at claims
    generalize settleWaiting v = t at queue claims
    rw [queue] at claims ⊢
    refine ⟨_, rest, rfl, by rw [withReceived, LocalPort.post_received]; rfl, fun c waiting positive none => ?_⟩
    obtain ⟨record, queued⟩ := claims waiting positive none
    refine ⟨record, ?_⟩
    obtain ⟨e, he, request⟩ := (holds_iff _ _).mp queued
    rcases List.mem_cons.mp he with rfl | he
    · cases request
    · rw [← request, ← fresh e he]
      exact he
  · rw [exec_leaveQuiet phase, leaveQuietAct_listens (by exact quiet) (by exact stale)]
    have queue : offerTo s.sched.queue .rollcall = [.fresh .rollcall] := by rw [empty]; rfl
    rw [← queue]
    rfl
  · exact (exec_leaveQuiet phase).trans (congrArg Host.Outcome.next (if_neg other))

/-! ## The announce that falls due -/

theorem ageOwnToInterval_of_due {s : State} (due : s.cfg.interval ≤ s.table.peers[s.cfg.address].age) : ageOwnToInterval s = s := by
  unfold ageOwnToInterval
  dsimp only
  split
  · rw [Nat.max_eq_left due]
    have same : s.table.setPeer s.cfg.address s.table.peers[s.cfg.address] = s.table := by
      unfold PlanTable.setPeer
      rw [Fin.getElem_fin, Vector.set_getElem_self]
    exact congrArg (fun t => { s with table := t }) same
  · rfl

/-- Settles O22. -/
theorem announceFallsDue : Obligations.AnnounceFallsDue := by
  intro s
  refine ⟨fun state due => ?_, fun joined resync => congrArg Host.Outcome.next (if_neg (by simp [joined, resync]))⟩
  refine congrArg Host.Outcome.next ((if_pos (by simpa using state)).trans ?_)
  rw [ageOwnToInterval_of_due due]
  refine if_pos ?_
  rw [Bool.and_eq_true, Bool.or_eq_true, decide_eq_true_eq, decide_eq_true_eq, decide_eq_true_eq]
  exact ⟨state, due⟩

/-! ## Reset -/

theorem replicate_get {α : Type} (n : Nat) (x : α) (i : Fin n) : (Vector.replicate n x)[i] = x := by
  rw [Fin.getElem_fin, Vector.getElem_replicate]

theorem PlanTable.reset_sum (k : Slot) : PlanTable.reset.sums[k] = 0 ∧ PlanTable.reset.counts[k] = 0 :=
  ⟨replicate_get 64 0 k, replicate_get 64 0 k⟩

theorem State.reset_channel (c : ChannelId) : State.reset.channels[c] = .reset := replicate_get 12 Channel.reset c

theorem State.reset_atReset : State.reset.AtReset := by
  refine ⟨?_, ?_, ?_, ?_, ?_, ?_, ?_, ?_, ?_, ?_, ?_, ?_, ?_, ?_, ?_, ?_, ?_⟩ <;> rfl

/-- The plan is empty, and every record is ABSENT with age 0. -/
theorem PlanTable.reset_laws (budget expiry : Nat) : PlanTable.reset.Lawful ∧ PlanTable.reset.WithinBudget budget
    ∧ PlanTable.reset.InRange ∧ PlanTable.reset.OwnersPresent ∧ PlanTable.reset.AgesWithin expiry := by
  refine ⟨⟨List.Pairwise.nil, PlanTable.reset_sum⟩, fun k => ?_, nofun, nofun, fun a => ?_⟩
  · rw [(PlanTable.reset_sum k).1]
    exact Nat.zero_le _
  · rw [PlanTable.reset_peer]
    exact ⟨Nat.zero_le _, nofun⟩

/-- The station is UNCONFIGURED, not attached, and its window closed. -/
theorem State.reset_station_laws : State.reset.Configured ∧ State.reset.StationLawful ∧ State.reset.AttachedRuns
    ∧ State.reset.DetachedIdle ∧ State.reset.IgnoresUntilOpened ∧ State.reset.UnconfiguredAtReset ∧ State.reset.HeldUnconfigured := by
  refine ⟨fun configured => absurd rfl configured, ⟨?_, fun _ => ?_, nofun⟩, nofun, fun _ => ?_, ?_, fun _ => State.reset_atReset, nofun⟩
  · exact List.mem_singleton.mpr rfl
  · exact ⟨rfl, rfl, rfl, rfl⟩
  · refine ⟨?_, ?_, ?_, ?_, ?_, ?_, ?_, ?_, ?_, ?_, ?_, ?_, ?_, ?_, ?_, ?_⟩ <;> rfl
  · exact ⟨nofun, fun ⟨waits, _⟩ => by rcases waits with h | h <;> cases h⟩

/-- The drivers are released and the engine is OFF. -/
theorem State.reset_line_laws : State.reset.DriversLawful ∧ State.reset.lines.HoldsLawful ∧ State.reset.engine.FrameLawful
    ∧ State.reset.EndLawful := by
  refine ⟨⟨nofun, fun sends => absurd rfl sends, nofun⟩, ⟨fun _ => rfl, fun _ => rfl⟩, ⟨nofun, nofun⟩, nofun⟩

/-- The queue is empty. -/
theorem State.reset_queue_laws : State.reset.sched.Lawful ∧ State.reset.WireLawful ∧ State.reset.QueueKindsLawful := by
  refine ⟨⟨List.nodup_nil, fun c both => ?_, nofun⟩, ?_, rfl⟩
  · cases both.1
  · exact (if_pos rfl).mpr ⟨rfl, rfl, nofun⟩

/-- Every channel is UNUSED, without a span. -/
theorem State.reset_channel_laws : State.reset.ChannelsLawful ∧ State.reset.SpansInPlan ∧ State.reset.SpansWhereHeld
    ∧ State.reset.ComposedLawful ∧ State.reset.AnnounceWaits := by
  refine ⟨fun c => ⟨?_, ?_⟩, fun c => ?_, fun _ c => ?_, nofun, nofun⟩
  · rw [State.reset_channel]
    exact ⟨Nat.zero_le _, Nat.zero_le _, Nat.zero_le _, rfl, ⟨fun _ => rfl, fun _ => rfl⟩, fun _ => rfl⟩
  · unfold State.ChannelStateLawful
    rw [State.reset_channel]
    rfl
  · rw [State.reset_channel]
    rfl
  · rw [State.reset_channel]
    rfl

/-- Every output is off, the slot index is 0, and the event queue is empty. -/
theorem State.reset_output_laws : State.reset.OutputsLawful ∧ State.reset.SlotLawful ∧ State.reset.port.Lawful := by
  refine ⟨⟨fun c on => ?_, fun _ => rfl, fun c _ => DriveUnit.reset_entry c⟩, ?_, ?_⟩
  · rw [show State.reset.drive.outputs[c] = false from DriveUnit.reset_output c] at on
    cases on
  · nofun
  · exact ⟨by decide, nofun, ⟨nofun, fun events => absurd rfl events⟩, fun open' => absurd rfl open', nofun⟩

/-- Settles O51. -/
theorem resetSatisfiesEveryLaw : Obligations.ResetSatisfiesEveryLaw := by
  obtain ⟨plan, budget, range, present, ages⟩ := PlanTable.reset_laws State.reset.cfg.budget State.reset.expiry
  obtain ⟨configured, station, attached, detached, ignores, unconfigured, held⟩ := State.reset_station_laws
  obtain ⟨drivers, holds, frame, ending⟩ := State.reset_line_laws
  obtain ⟨queue, wire, kinds⟩ := State.reset_queue_laws
  obtain ⟨channels, spans, held', composed, waits⟩ := State.reset_channel_laws
  exact ⟨State.reset_atReset, plan, budget, range, present, ages, configured, station, attached, detached, ignores, unconfigured, held,
    drivers, holds, frame, ending, queue, wire, kinds, channels, spans, held', composed, waits, State.reset_output_laws⟩

end Sys2Proof.Machine
end

section
/-! The dither round (R123 to R125): the slots of a span are counted by their distance from its start, and the cycles of a round by the
dither order. -/

namespace Sys2Proof.Machine

/-- In a cycle of this dither index the last slot of a span conducts (R123, R124). -/
def dithersAt (fraction index : Nat) : Bool := decide (fraction = 0) || (ditherOrder.take fraction).contains index

/-- An entry conducts in the slots of its span by their distance from the start: in all of them, or in all but the last. -/
theorem conducts_eq {start : Slot} {length : Nat} (positive : 1 ≤ length) (short : length ≤ 64) (fraction index : Nat) (k : Slot) :
    (⟨start, length, fraction⟩ : DriveEntry).conducts index k
      = decide ((k - start).val < if dithersAt fraction index then length else length - 1) := by
  have distance : (k - start).val = (k.val + 64 - start.val) % 64 := by
    rw [Fin.sub_def]
    dsimp only
    congr 1
    omega
  have last : k.val ≠ (start.val + length - 1) % 64 ↔ (k - start).val ≠ length - 1 := by
    rw [distance]
    omega
  rw [DriveEntry.conducts, spanCovers, Bool.or_assoc, ← distance, ← dithersAt, Bool.eq_iff_iff]
  simp only [Bool.and_eq_true, Bool.or_eq_true, decide_eq_true_eq, last]
  cases dithersAt fraction index <;> simp only [Bool.false_eq_true, or_true, or_false, and_true, if_true, if_false]
  omega

theorem countP_range_lt (m n : Nat) : (List.range m).countP (fun i => decide (i < n)) = min m n := by
  induction m with
  | zero => simp
  | succ m ih =>
    rw [List.range_succ, List.countP_append, ih, List.countP_singleton]
    by_cases below : m < n <;> simp [below] <;> omega

/-- As many slots lie within a distance of a start as the distance says. -/
theorem countP_distance (start : Slot) {n : Nat} (short : n ≤ 64) :
    (List.finRange 64).countP (fun k : Slot => decide ((k - start).val < n)) = n := by
  have shifted := (Equiv.Perm.map_finRange_perm (Equiv.subRight start)).countP_eq fun k : Slot => decide (k.val < n)
  have values : (List.finRange 64).countP (fun k : Slot => decide (k.val < n)) = (List.range 64).countP fun i => decide (i < n) := by
    rw [← List.map_coe_finRange_eq_range, List.countP_map]
    rfl
  rw [List.countP_map, values, countP_range_lt, Nat.min_eq_right short] at shifted
  exact shifted

/-- In a round the last slot conducts in as many cycles as the fraction says, and in all of them without one. -/
theorem countP_dithersAt (index : Nat) {fraction : Nat} (small : fraction < 8) :
    (List.range 8).countP (fun i => dithersAt fraction ((index + i) % 8)) = if fraction = 0 then 8 else fraction := by
  have round : ∀ first < 8, ∀ f < 8,
      (List.range 8).countP (fun i => dithersAt f ((first + i) % 8)) = if f = 0 then 8 else f := by decide
  have same (i : Nat) : (index + i) % 8 = (index % 8 + i) % 8 := by omega
  simp only [same]
  exact round _ (Nat.mod_lt _ (by decide)) _ small

theorem sum_map_ite (p : Nat → Bool) (n : Nat) (positive : 1 ≤ n) (l : List Nat) :
    (l.map fun i => if p i then n else n - 1).sum = l.length * (n - 1) + l.countP p := by
  induction l with
  | nil => simp
  | cons i l ih =>
    rw [List.map_cons, List.sum_cons, ih, List.length_cons, List.countP_cons, Nat.succ_mul]
    split <;> omega

/-- Settles O48: each cycle conducts the span or the span less its last slot, and the round counts the former. -/
theorem aDitherRoundConductsTheDemand : Obligations.ADitherRoundConductsTheDemand := by
  intro d start index positive limit e
  have cycle (i : Nat) : (List.finRange 64).countP (fun k : Slot => e.conducts ((index + i) % 8) k)
      = if dithersAt (d % 8) ((index + i) % 8) then (d + 7) / 8 else (d + 7) / 8 - 1 := by
    simp only [e, conducts_eq (start := start) (length := (d + 7) / 8) (by omega) (by omega)]
    exact countP_distance start (by split <;> omega)
  simp only [cycle]
  rw [sum_map_ite (fun i => dithersAt (d % 8) ((index + i) % 8)) _ (by omega), countP_dithersAt index (Nat.mod_lt d (by decide)),
    List.length_range]
  split <;> omega

end Sys2Proof.Machine
end

section
/-! Bus messages on the wire (R67, R164, R165): what a field of bits spells, what a receiver frames, and where each field stands. -/

namespace Sys2Proof.Machine

/-! ## Fields of bits -/

@[simp] theorem bitsOf_length {w : Nat} (x : BitVec w) : (bitsOf x).length = w := by simp [bitsOf]

theorem numberOf_append (a : List Bool) (b : Bool) : numberOf (a ++ [b]) = 2 * numberOf a + b.toNat := by
  rw [numberOf, List.foldl_append]
  rfl

/-- The leading bits of a field spell its leading part. -/
theorem numberOf_leading {w : Nat} (x : BitVec w) (n : Nat) (h : n ≤ w) :
    numberOf ((List.range n).map x.getMsbD) = x.toNat / 2 ^ (w - n) := by
  induction n with
  | zero => rw [List.range_zero, Nat.sub_zero, Nat.div_eq_of_lt x.isLt]; rfl
  | succ n ih =>
    have bit : (x.getMsbD n).toNat = x.toNat / 2 ^ (w - (n + 1)) % 2 := by
      rw [BitVec.getMsbD_eq_getLsbD, decide_eq_true (by omega : n < w), Bool.true_and, BitVec.getLsbD, Nat.toNat_testBit,
        show w - 1 - n = w - (n + 1) by omega]
    have shift : x.toNat / 2 ^ (w - n) = x.toNat / 2 ^ (w - (n + 1)) / 2 := by
      rw [Nat.div_div_eq_div_mul, ← Nat.pow_succ, show (w - (n + 1)).succ = w - n by omega]
    rw [List.range_succ, List.map_append, List.map_singleton, numberOf_append, ih (by omega), bit, shift]
    exact Nat.div_add_mod _ 2

theorem numberOf_bitsOf {w : Nat} (x : BitVec w) : numberOf (bitsOf x) = x.toNat := by
  rw [bitsOf, numberOf_leading x w (Nat.le_refl w), Nat.sub_self, Nat.pow_zero, Nat.div_one]

@[simp] theorem takeField_bitsOf {w : Nat} (x : BitVec w) (rest : List Bool) : takeField w (bitsOf x ++ rest) = some (x, rest) := by
  rw [takeField, List.length_append, bitsOf_length, if_neg (by omega), List.take_left' (bitsOf_length x), List.drop_left' (bitsOf_length x),
    numberOf_bitsOf, BitVec.ofNat_toNat, BitVec.setWidth_eq]

/-! ## Framing -/

@[simp] theorem takeEntry_bits (e : WireEntry) (rest : List Bool) : takeEntry (e.bits ++ rest) = some (e, rest) := by
  simp [takeEntry, WireEntry.bits, List.append_assoc]

theorem takeEntries_bits (entries : List WireEntry) (rest : List Bool) :
    takeEntries entries.length (entries.flatMap WireEntry.bits ++ rest) = some (entries, rest) := by
  induction entries with
  | nil => rfl
  | cons e es ih => simp [takeEntries, List.append_assoc, ih]

/-- A receiver frames the bits of a message that fits the layout, read with any CHECK. -/
theorem frameBits_read {m : Message} (fits : m.fitsLayout = true) (check : BitVec 8) (rest : List Bool) :
    frameBits (m.checkedBits ++ bitsOf check ++ rest) = some (m, check, rest) := by
  unfold frameBits
  cases m with
  | announce sender digest cycleAge entries =>
    have count : (BitVec.ofNat 4 entries.length).toNat = entries.length :=
      Nat.mod_eq_of_lt (Nat.lt_succ_of_le (of_decide_eq_true fits))
    simp [Message.checkedBits, Message.payloadBits, Message.kindBits, Message.sender, List.append_assoc, count, takeEntries_bits]
  | release sender channel =>
    simp [Message.checkedBits, Message.payloadBits, Message.kindBits, Message.sender, List.append_assoc]
  | claim sender entry =>
    simp [Message.checkedBits, Message.payloadBits, Message.kindBits, Message.sender, List.append_assoc]
  | rollcall sender =>
    simp [Message.checkedBits, Message.payloadBits, Message.kindBits, Message.sender, List.append_assoc]

/-- Settles O49. -/
theorem framingReadsWhatWasSent : Obligations.FramingReadsWhatWasSent := by
  intro m fits
  refine ⟨_, rfl, ?_⟩
  have framed := frameBits_read fits m.check ([true] ++ (if m.hasRefuse then [true] else []) ++ [true, true, true])
  rw [← framed]
  simp [List.append_assoc]

/-! ## The check computation -/

/-- One step of the computation, by the bit that leaves the accumulator. -/
theorem crcStep_eq (a : BitVec 8) (bit : Bool) :
    crcStep a bit = if bit = a.getLsbD 7 then a <<< 1 else (a <<< 1) ^^^ 0x07 := by
  rw [crcStep, BitVec.msb_eq_getLsbD_last]
  cases bit <;> cases a.getLsbD (8 - 1) <;> rfl

/-- An accumulator that takes its own bits is shifted out. -/
theorem foldl_crcStep_leading (a : BitVec 8) (n : Nat) (h : n ≤ 8) : ((List.range n).map a.getMsbD).foldl crcStep a = a <<< n := by
  induction n with
  | zero => exact (BitVec.shiftLeft_zero a).symm
  | succ n ih =>
    rw [List.range_succ, List.map_append, List.foldl_append, ih (by omega), List.map_singleton, List.foldl_cons, List.foldl_nil, crcStep]
    have leaves : (a <<< n).msb = a.getMsbD n := by simp [BitVec.msb, BitVec.getMsbD_shiftLeft]
    rw [leaves, Bool.xor_self, if_neg Bool.false_ne_true, ← BitVec.shiftLeft_add]

theorem crc_own_check (bits : List Bool) : crc (bits ++ bitsOf (crc bits)) = 0 := by
  rw [crc, List.foldl_append, ← crc, bitsOf, foldl_crcStep_leading _ 8 (Nat.le_refl 8)]
  exact BitVec.shiftLeft_eq_zero (Nat.le_refl 8)

theorem bitsOf_word (x : BitVec 16) : bitsOf x = bitsOf (x.extractLsb' 8 8) ++ bitsOf (x.extractLsb' 0 8) := by
  simp [bitsOf, List.range_succ, BitVec.getMsbD_eq_getLsbD]

theorem bitsOf_byte (b : Byte) : bitsOf b = (List.range 8).map fun i => b.getLsbD (7 - i) := by
  simp [bitsOf, List.range_succ, BitVec.getMsbD_eq_getLsbD]

/-! ## Positions -/

/-- A run of bits stands behind what comes before it. -/
theorem drop_take_of_cut {l a b c : List Bool} (cut : l = a ++ (b ++ c)) {n w : Nat} (start : a.length = n) (width : b.length = w) :
    (l.drop n).take w = b := by
  rw [cut, List.drop_left' start, List.take_left' width]

theorem entry_length (e : WireEntry) : e.bits.length = 26 := by simp [WireEntry.bits]

theorem entries_length (entries : List WireEntry) : (entries.flatMap WireEntry.bits).length = 26 * entries.length := by
  induction entries with
  | nil => rfl
  | cons e es ih => rw [List.flatMap_cons, List.length_append, ih, entry_length, List.length_cons]; omega

theorem checkedBits_length (m : Message) : m.checkedBits.length = m.objectPosition - 9 := by
  cases m <;> simp [Message.checkedBits, Message.payloadBits, Message.objectPosition, entry_length]
  omega

theorem objectPosition_ge (m : Message) : 16 ≤ m.objectPosition := by
  cases m <;> simp only [Message.objectPosition] <;> omega

/-- The bits behind CHECK: the verdict bits and END, all recessive. -/
def tailBits (m : Message) : List Bool := List.replicate (m.commitPoint - m.objectPosition + 3) true

theorem wire_eq (m : Message) : m.wire = [false] ++ m.checkedBits ++ bitsOf m.check ++ tailBits m := by
  cases m <;> simp [Message.wire, tailBits, Message.commitPoint, Message.hasRefuse, List.replicate]

/-- Where KIND, SENDER, CHECK and what follows stand. -/
theorem wire_positions (m : Message) :
    (m.wire.drop 1).take 2 = bitsOf m.kindBits ∧ (m.wire.drop 3).take 5 = bitsOf m.sender
      ∧ (m.wire.drop (m.objectPosition - 8)).take 8 = bitsOf (crc m.checkedBits)
      ∧ m.checkedBits = (m.wire.drop 1).take (m.objectPosition - 9)
      ∧ m.wire.drop m.objectPosition = List.replicate (m.commitPoint - m.objectPosition + 3) true
      ∧ m.wire.length = m.commitPoint + 3 := by
  have checked := checkedBits_length m
  have position := objectPosition_ge m
  have commit : m.objectPosition ≤ m.commitPoint := Nat.le_add_right _ _
  refine ⟨drop_take_of_cut (a := [false]) (c := bitsOf m.sender ++ m.payloadBits ++ bitsOf m.check ++ tailBits m) ?_ rfl (bitsOf_length _),
    drop_take_of_cut (a := [false] ++ bitsOf m.kindBits) (c := m.payloadBits ++ bitsOf m.check ++ tailBits m) ?_ (by simp) (bitsOf_length _),
    drop_take_of_cut (a := [false] ++ m.checkedBits) (c := tailBits m) ?_ (by simp; omega) (bitsOf_length _),
    (drop_take_of_cut (a := [false]) (c := bitsOf m.check ++ tailBits m) ?_ rfl checked).symm, ?_, ?_⟩
  · simp [wire_eq, Message.checkedBits, List.append_assoc]
  · simp [wire_eq, Message.checkedBits, List.append_assoc]
  · simp [wire_eq, Message.check, List.append_assoc]
  · simp [wire_eq, List.append_assoc]
  · rw [wire_eq]
    exact List.drop_left' (by simp; omega)
  · rw [wire_eq]
    simp [tailBits]
    omega

/-- A payload stands behind KIND and SENDER. -/
theorem wire_payload (m : Message) :
    ∃ a b, a.length = 8 ∧ m.wire = a ++ (m.payloadBits ++ b) :=
  ⟨[false] ++ bitsOf m.kindBits ++ bitsOf m.sender, bitsOf m.check ++ tailBits m, by simp, by
    simp [wire_eq, Message.checkedBits, List.append_assoc]⟩

/-- A run of bits within the payload. -/
theorem wire_field {m : Message} {a b c : List Bool} (cut : m.payloadBits = a ++ (b ++ c)) {n w : Nat}
    (start : 8 + a.length = n) (width : b.length = w) : (m.wire.drop n).take w = b := by
  obtain ⟨before, after, length, wire⟩ := wire_payload m
  exact drop_take_of_cut (a := before ++ a) (c := c ++ after) (by rw [wire, cut]; simp [List.append_assoc])
    (by rw [List.length_append, length, start]) width

theorem kind_bits : bitsOf (0 : BitVec 2) = [false, false] ∧ bitsOf (1 : BitVec 2) = [false, true] ∧ bitsOf (2 : BitVec 2) = [true, false]
    ∧ bitsOf (3 : BitVec 2) = [true, true] := by decide

/-- One entry of an ANNOUNCE stands behind those before it. -/
theorem entries_cut (entries : List WireEntry) (i : Nat) (h : i < entries.length) :
    ∃ after, entries.flatMap WireEntry.bits = (entries.take i).flatMap WireEntry.bits ++ (entries[i].bits ++ after) := by
  refine ⟨(entries.drop (i + 1)).flatMap WireEntry.bits, ?_⟩
  conv_lhs => rw [← List.take_append_drop i entries, ← List.getElem_cons_drop h, List.flatMap_append, List.flatMap_cons]

/-- Where the payload of an ANNOUNCE stands. -/
theorem announce_positions (sender : BitVec 5) (digest : BitVec 8) (cycleAge : BitVec 16) (entries : List WireEntry) :
    let m := Message.announce sender digest cycleAge entries
    (m.wire.drop 8).take 8 = bitsOf digest ∧ (m.wire.drop 16).take 16 = bitsOf cycleAge
      ∧ (m.wire.drop 32).take 4 = bitsOf (BitVec.ofNat 4 entries.length)
      ∧ ∀ (i : Nat) (h : i < entries.length), (m.wire.drop (36 + 26 * i)).take 26 = entries[i].bits := by
  intro m
  refine ⟨?_, ?_, ?_, fun i h => ?_⟩
  · exact wire_field (m := m) (a := []) (c := bitsOf cycleAge ++ bitsOf (BitVec.ofNat 4 entries.length) ++ entries.flatMap WireEntry.bits)
      (by simp [m, Message.payloadBits, List.append_assoc]) rfl (bitsOf_length _)
  · exact wire_field (m := m) (a := bitsOf digest) (c := bitsOf (BitVec.ofNat 4 entries.length) ++ entries.flatMap WireEntry.bits)
      (by simp [m, Message.payloadBits, List.append_assoc]) (by simp) (bitsOf_length _)
  · exact wire_field (m := m) (a := bitsOf digest ++ bitsOf cycleAge) (c := entries.flatMap WireEntry.bits)
      (by simp [m, Message.payloadBits, List.append_assoc]) (by simp) (bitsOf_length _)
  · obtain ⟨after, cut⟩ := entries_cut entries i h
    exact wire_field (m := m)
      (a := bitsOf digest ++ bitsOf cycleAge ++ bitsOf (BitVec.ofNat 4 entries.length) ++ (entries.take i).flatMap WireEntry.bits) (c := after)
      (by simp [m, Message.payloadBits, cut, List.append_assoc])
      (by simp only [List.length_append, bitsOf_length, entries_length, List.length_take]; omega) (entry_length _)

/-- Where the payload of a CLAIM stands. -/
theorem claim_positions (sender : BitVec 5) (e : WireEntry) :
    let m := Message.claim sender e
    (m.wire.drop 8).take 4 = bitsOf e.channel ∧ (m.wire.drop 12).take 6 = bitsOf e.start
      ∧ (m.wire.drop 18).take 6 = bitsOf e.lengthLess1 ∧ (m.wire.drop 24).take 10 = bitsOf e.rating := by
  intro m
  refine ⟨?_, ?_, ?_, ?_⟩
  · exact wire_field (m := m) (a := []) (c := bitsOf e.start ++ bitsOf e.lengthLess1 ++ bitsOf e.rating)
      (by simp [m, Message.payloadBits, WireEntry.bits, List.append_assoc]) rfl (bitsOf_length _)
  · exact wire_field (m := m) (a := bitsOf e.channel) (c := bitsOf e.lengthLess1 ++ bitsOf e.rating)
      (by simp [m, Message.payloadBits, WireEntry.bits, List.append_assoc]) (by simp) (bitsOf_length _)
  · exact wire_field (m := m) (a := bitsOf e.channel ++ bitsOf e.start) (c := bitsOf e.rating)
      (by simp [m, Message.payloadBits, WireEntry.bits, List.append_assoc]) (by simp) (bitsOf_length _)
  · exact wire_field (m := m) (a := bitsOf e.channel ++ bitsOf e.start ++ bitsOf e.lengthLess1) (c := [])
      (by simp [m, Message.payloadBits, WireEntry.bits, List.append_assoc]) (by simp) (bitsOf_length _)

/-- Settles O50. -/
theorem messagesAreLaidOutByPosition : Obligations.MessagesAreLaidOutByPosition := by
  obtain ⟨kind0, kind1, kind2, kind3⟩ := kind_bits
  refine ⟨wire_positions, crc_own_check, fun rateCode slotCode interval budget => ?_,
    fun sender digest cycleAge entries => ?_, fun sender channel => ?_, fun sender e => ?_,
    fun sender => ⟨(wire_positions _).1.trans kind3, rfl, rfl⟩⟩
  · rw [digestOf, bitsOf_word]
    simp [bitsOf_byte, List.append_assoc]
  · have commit : 44 + 26 * entries.length + 1 = 45 + 26 * entries.length := by omega
    exact ⟨(wire_positions _).1.trans kind0, rfl, commit, announce_positions sender digest cycleAge entries⟩
  · exact ⟨(wire_positions _).1.trans kind1, rfl, rfl, wire_field (a := []) (c := []) (List.append_nil _).symm rfl (bitsOf_length _)⟩
  · exact ⟨(wire_positions _).1.trans kind2, rfl, rfl, claim_positions sender e⟩

end Sys2Proof.Machine
end

section
/-! The own objection (R72): its grounds, how it is formed as the levels of a message are read, and the pull on OBJECT. -/

namespace Sys2Proof.Machine

/-! ## The grounds -/

theorem distinct_iff (l : List (BitVec 4)) : Message.unacceptable.distinct l = true ↔ l.Nodup := by
  induction l with
  | nil => simp [Message.unacceptable.distinct]
  | cons c cs ih => simp [Message.unacceptable.distinct, ih]

/-- The grounds of R72 other than CHECK. -/
theorem unacceptable_iff (m : Message) : m.unacceptable = true ↔ match m with
    | .announce _ _ _ entries =>
        12 < entries.length ∨ (∃ e ∈ entries, 11 < e.channel.toNat) ∨ (∃ e ∈ entries, e.rating = 0)
          ∨ ¬(entries.map WireEntry.channel).Nodup
    | .release _ channel => 11 < channel.toNat
    | .claim _ e => 11 < e.channel.toNat ∨ e.rating = 0
    | .rollcall _ => False := by
  cases m with
  | announce _ _ _ entries =>
    simp only [Message.unacceptable, Bool.or_eq_true, decide_eq_true_eq, List.any_eq_true, beq_iff_eq, Bool.not_eq_true', ← Bool.not_eq_true,
      distinct_iff, and_or_left, exists_or, or_assoc]
  | release => simp [Message.unacceptable]
  | claim => simp [Message.unacceptable]
  | rollcall => simp [Message.unacceptable]

theorem objection_iff (m : Message) (check : BitVec 8) :
    m.objection check = .object ↔ check ≠ crc m.checkedBits ∨ m.unacceptable = true := by
  unfold Message.objection Message.check
  split
  · next h => simpa using h
  · next h => simpa using h

/-! ## Reading level by level -/

theorem crc_append (bits : List Bool) (bit : Bool) : crc (bits ++ [bit]) = crcStep (crc bits) bit := by
  rw [crc, List.foldl_append]
  rfl

theorem read_length (m : Message) (check : BitVec 8) : (m.read check).length = m.objectPosition := by
  have := checkedBits_length m
  have := objectPosition_ge m
  simp [Message.read]
  omega

theorem takeField_short {w : Nat} {l : List Bool} (h : l.length < w) : takeField w l = none := if_pos h

/-- A field that has been read in full. -/
theorem takeField_take {w : Nat} (x : BitVec w) (rest : List Bool) {n : Nat} (whole : w ≤ n) :
    takeField w ((bitsOf x ++ rest).take n) = some (x, rest.take (n - w)) := by
  rw [List.take_append, bitsOf_length, List.take_of_length_le (by rw [bitsOf_length]; exact whole), takeField_bitsOf]

/-- The first levels of a message, whatever follows its payload. -/
def levelsRead (m : Message) (rest : List Bool) (n : Nat) : List Bool := ([false] ++ m.checkedBits ++ rest).take n

theorem levelsRead_kind_short (m : Message) (rest : List Bool) {n : Nat} (h : n < 3) :
    takeField 2 ((levelsRead m rest n).drop 1) = none := by
  refine takeField_short ?_
  rw [levelsRead, List.length_drop, List.length_take]
  omega

theorem levelsRead_kind (m : Message) (rest : List Bool) {n : Nat} (h : 3 ≤ n) :
    ∃ more, takeField 2 ((levelsRead m rest n).drop 1) = some (m.kindBits, more) := by
  have cut : (levelsRead m rest n).drop 1 = (bitsOf m.kindBits ++ (bitsOf m.sender ++ m.payloadBits ++ rest)).take (n - 1) := by
    rw [levelsRead, List.drop_take, Message.checkedBits]
    simp [List.append_assoc]
  exact ⟨_, cut ▸ takeField_take m.kindBits _ (by omega)⟩

theorem levelsRead_count_short (m : Message) (rest : List Bool) {n : Nat} (h : n < 36) :
    takeField 4 ((levelsRead m rest n).drop 32) = none := by
  refine takeField_short ?_
  rw [levelsRead, List.length_drop, List.length_take]
  omega

theorem levelsRead_count (sender : BitVec 5) (digest : BitVec 8) (cycleAge : BitVec 16) (entries : List WireEntry) (rest : List Bool)
    {n : Nat} (h : 36 ≤ n) :
    ∃ more, takeField 4 ((levelsRead (.announce sender digest cycleAge entries) rest n).drop 32)
      = some (BitVec.ofNat 4 entries.length, more) := by
  have before : ([false] ++ bitsOf (0 : BitVec 2) ++ bitsOf sender ++ bitsOf digest ++ bitsOf cycleAge).length = 32 := by simp
  have cut : (levelsRead (.announce sender digest cycleAge entries) rest n).drop 32
      = (bitsOf (BitVec.ofNat 4 entries.length) ++ (entries.flatMap WireEntry.bits ++ rest)).take (n - 32) := by
    have all : [false] ++ (Message.announce sender digest cycleAge entries).checkedBits ++ rest
        = [false] ++ bitsOf (0 : BitVec 2) ++ bitsOf sender ++ bitsOf digest ++ bitsOf cycleAge
          ++ (bitsOf (BitVec.ofNat 4 entries.length) ++ (entries.flatMap WireEntry.bits ++ rest)) := by
      simp [Message.checkedBits, Message.payloadBits, Message.kindBits, Message.sender, List.append_assoc]
    rw [levelsRead, List.drop_take, all, List.drop_left' before]
  exact ⟨_, cut ▸ takeField_take (BitVec.ofNat 4 entries.length) _ (by omega)⟩

/-- Where CHECK begins, by KIND and by COUNT. -/
theorem checkPosition_levelsRead {m : Message} (fits : m.fitsLayout = true) (rest : List Bool) (n : Nat) :
    checkPosition (levelsRead m rest n)
      = if n < 3 then 8
        else if m.kindBits = 0 then (if n < 36 then 36 else m.objectPosition - 8)
        else m.objectPosition - 8 := by
  unfold checkPosition
  by_cases short : n < 3
  · rw [levelsRead_kind_short m rest short, if_pos short]
  · obtain ⟨more, kind⟩ := levelsRead_kind m rest (Nat.not_lt.mp short)
    rw [kind, if_neg short]
    cases m with
    | announce sender digest cycleAge entries =>
      by_cases counted : n < 36
      · rw [levelsRead_count_short _ rest counted]
        simp [Message.kindBits, counted]
      · obtain ⟨more, count⟩ := levelsRead_count sender digest cycleAge entries rest (Nat.not_lt.mp counted)
        have value : (BitVec.ofNat 4 entries.length).toNat = entries.length :=
          Nat.mod_eq_of_lt (Nat.lt_succ_of_le (of_decide_eq_true fits))
        rw [count]
        simp only [Message.kindBits, counted, if_true, if_false, value, Message.objectPosition]
        omega
    | release => rfl
    | claim => rfl
    | rollcall => rfl

theorem checkPosition_reached {m : Message} (fits : m.fitsLayout = true) (rest : List Bool) {n : Nat} (h : m.objectPosition - 8 ≤ n) :
    checkPosition (levelsRead m rest n) = m.objectPosition - 8 := by
  have announce : m.kindBits = 0 → 36 ≤ m.objectPosition - 8 := by
    cases m <;> simp [Message.kindBits, Message.objectPosition]
    omega
  have := objectPosition_ge m
  rw [checkPosition_levelsRead fits, if_neg (by omega : ¬n < 3)]
  by_cases kind : m.kindBits = 0
  · rw [if_pos kind, if_neg (by have := announce kind; omega)]
  · rw [if_neg kind]

theorem checkPosition_ahead {m : Message} (fits : m.fitsLayout = true) (rest : List Bool) {n : Nat} (h : n < m.objectPosition - 8) :
    n < checkPosition (levelsRead m rest n) := by
  rw [checkPosition_levelsRead fits]
  split_ifs <;> omega

/-! ## The objection is formed with the last bit of CHECK -/

theorem levelsRead_length (m : Message) (check : BitVec 8) {n : Nat} (h : n ≤ m.objectPosition) :
    (levelsRead m (bitsOf check) n).length = n := by
  rw [levelsRead, List.length_take, ← Message.read, read_length, Nat.min_eq_left h]

theorem levelsRead_all (m : Message) (check : BitVec 8) : levelsRead m (bitsOf check) m.objectPosition = m.read check := by
  rw [levelsRead, ← Message.read, ← read_length m check, List.take_length]

theorem levelsRead_succ (m : Message) (check : BitVec 8) {n : Nat} (h : n < (m.read check).length) :
    levelsRead m (bitsOf check) (n + 1) = levelsRead m (bitsOf check) n ++ [(m.read check)[n]] :=
  List.take_succ_eq_append_getElem h

/-- The engine with the first levels of a message read. -/
def engineAt (e : MessageEngine) (m : Message) (check : BitVec 8) (n : Nat) : MessageEngine :=
  { e with
    frame := some { read := levelsRead m (bitsOf check) n, elapsed := 0 }
    accumulator := crc (m.checkedBits.take (n - 1))
    objection := if n = m.objectPosition then some (m.objection check) else none }

theorem frameBits_levels {m : Message} (fits : m.fitsLayout = true) (check : BitVec 8) :
    frameBits ((m.read check).drop 1) = some (m, check, []) := by
  have framed := frameBits_read fits check []
  rw [List.append_nil] at framed
  rw [← framed]
  simp [Message.read]

/-- The bits of KIND, SENDER and payload are fed into the accumulator, and no other. -/
theorem crc_take_succ (m : Message) (check : BitVec 8) {n : Nat} (h : n < (m.read check).length) :
    crc (m.checkedBits.take n)
      = if 1 ≤ n ∧ n < m.objectPosition - 8 then crcStep (crc (m.checkedBits.take (n - 1))) (m.read check)[n]
        else crc (m.checkedBits.take (n - 1)) := by
  have checked := checkedBits_length m
  by_cases feeds : 1 ≤ n ∧ n < m.objectPosition - 8
  · obtain ⟨k, rfl⟩ : ∃ k, n = k + 1 := ⟨n - 1, by omega⟩
    have level : (m.read check)[k + 1] = m.checkedBits[k]'(by omega) := by
      simp only [Message.read, List.cons_append, List.nil_append, List.getElem_cons_succ]
      exact List.getElem_append_left (by omega)
    rw [if_pos feeds, level, List.take_succ_eq_append_getElem (by omega), crc_append]
    rfl
  · rw [if_neg feeds]
    rcases Nat.eq_zero_or_pos n with rfl | positive
    · rfl
    · rw [List.take_of_length_le (by omega), List.take_of_length_le (by omega)]

/-- Each level joins the record; the bits up to CHECK join the accumulator; the last one forms the objection. -/
theorem readLevel_engineAt {m : Message} (fits : m.fitsLayout = true) (check : BitVec 8) (e : MessageEngine) {n : Nat}
    (h : n < (m.read check).length) :
    (engineAt e m check n).readLevel (m.read check)[n] = engineAt e m check (n + 1) := by
  have length := read_length m check
  have least := objectPosition_ge m
  have checked := checkedBits_length m
  have at_n : (levelsRead m (bitsOf check) n).length = n := levelsRead_length m check (by omega)
  have going : ¬endPosition (levelsRead m (bitsOf check) n) ≤ n := by
    unfold endPosition
    by_cases ahead : n < m.objectPosition - 8
    · have := checkPosition_ahead fits (bitsOf check) ahead
      omega
    · rw [checkPosition_reached fits (bitsOf check) (Nat.not_lt.mp ahead)]
      omega
  have counts : n < checkPosition (levelsRead m (bitsOf check) n) ↔ n < m.objectPosition - 8 := by
    constructor
    · intro short
      by_contra reached
      rw [checkPosition_reached fits (bitsOf check) (Nat.not_lt.mp reached)] at short
      exact reached short
    · exact checkPosition_ahead fits (bitsOf check)
  have last : n + 1 = checkPosition (levelsRead m (bitsOf check) n) + 8 ↔ n + 1 = m.objectPosition := by
    by_cases ahead : n < m.objectPosition - 8
    · have := checkPosition_ahead fits (bitsOf check) ahead
      omega
    · rw [checkPosition_reached fits (bitsOf check) (Nat.not_lt.mp ahead)]
      omega
  unfold MessageEngine.readLevel engineAt
  simp only [at_n, going, if_false, ← levelsRead_succ m check h, counts, last, ← crc_take_succ m check h, Nat.add_sub_cancel,
    if_neg (by omega : ¬n = m.objectPosition)]
  by_cases ends : n + 1 = m.objectPosition
  · rw [if_pos ends, if_pos ends, ends, levelsRead_all, frameBits_levels fits]
    rfl
  · rw [if_neg ends, if_neg ends]

theorem foldl_readLevel {m : Message} (fits : m.fitsLayout = true) (check : BitVec 8) (e : MessageEngine) {n : Nat}
    (h : n ≤ (m.read check).length) :
    ((m.read check).take n).foldl MessageEngine.readLevel (engineAt e m check 0) = engineAt e m check n := by
  induction n with
  | zero => rfl
  | succ n ih =>
    rw [List.take_succ_eq_append_getElem h, List.foldl_append, ih (Nat.le_of_succ_le h), List.foldl_cons, List.foldl_nil,
      readLevel_engineAt fits check e h]

/-! ## The pull on OBJECT -/

/-- Where CHECK begins is known from the levels up to its end. -/
theorem checkPosition_whole {m : Message} (fits : m.fitsLayout = true) {rest : List Bool} (check : 8 ≤ rest.length) :
    checkPosition ([false] ++ m.checkedBits ++ rest) = m.objectPosition - 8 := by
  have length : ([false] ++ m.checkedBits ++ rest).length = m.objectPosition - 8 + rest.length := by
    have := checkedBits_length m
    have := objectPosition_ge m
    simp
    omega
  have reached := checkPosition_reached fits rest (n := ([false] ++ m.checkedBits ++ rest).length) (by omega)
  rwa [levelsRead, List.take_length] at reached

/-- A message read to the end of its CHECK or beyond, with the objection formed, by a station that does not drive it. -/
def State.Judged (m : Message) (o : Objection) (s : State) : Prop :=
  s.engine.transmission ≠ .driving ∧ s.lines.dataDriving = false ∧ s.engine.objection = some o
    ∧ ∃ f rest, s.engine.frame = some f ∧ f.read = [false] ++ m.checkedBits ++ rest ∧ 8 ≤ rest.length

theorem passClocks_judged {m : Message} {o : Objection} (d : Nat) (s : State) (h : s.Judged m o) : (passClocks d s).Judged m o := by
  obtain ⟨still, released, formed, record⟩ := h
  exact ⟨still, (passClocks_data d s).2.2.trans released, formed, record⟩

theorem passData_judged {m : Message} {o : Objection} (p : Bool) (d : Nat) (s : State) (h : s.Judged m o) :
    (passData p d s).Judged m o := by
  obtain ⟨still, released, formed, f, rest, frame, read, check⟩ := h
  refine ⟨still, ?_, formed, { f with elapsed := f.elapsed + d }, rest, ?_, read, check⟩
  · show (s.lines.dataDriving || (decide (s.engine.transmission = .driving) && _)) = false
    rw [released, decide_eq_false still]
    rfl
  · show s.engine.frame.map _ = _
    rw [frame]
    rfl

theorem passSlots_judged {m : Message} {o : Objection} (s : State) (h : s.Judged m o) : (passSlots s).Judged m o := by
  unfold passSlots
  split
  · exact h
  · exact h

theorem readMiddle_judged {m : Message} (fits : m.fitsLayout = true) {o : Objection} (s : State) (h : s.Judged m o) :
    (readMiddle s).Judged m o := by
  obtain ⟨still, released, formed, f, rest, frame, read, check⟩ := h
  have position := checkPosition_whole fits check
  have formedBefore : ¬f.read.length + 1 = checkPosition f.read + 8 := by
    have := checkedBits_length m
    have := objectPosition_ge m
    rw [read, position]
    simp
    omega
  unfold readMiddle
  rw [frame]
  dsimp only
  split
  · unfold MessageEngine.readLevel
    rw [frame]
    dsimp only
    split
    · exact ⟨still, released, formed, f, rest, frame, read, check⟩
    · refine ⟨still, released, formed, _, rest ++ [!s.lines.dataDominant], rfl, ?_, ?_⟩
      · dsimp only
        rw [read]
        simp [List.append_assoc]
      · rw [List.length_append]
        omega
  · exact ⟨still, released, formed, f, rest, frame, read, check⟩

theorem pullsData_judged {m : Message} (fits : m.fitsLayout = true) {o : Objection} (s : State) (f : FrameRecord) (h : s.Judged m o)
    (frame : s.engine.frame = some f) :
    s.pullsData = decide (f.elapsed / s.bits 1 = m.objectPosition ∧ o = .object) := by
  obtain ⟨still, released, formed, g, rest, frame', read, check⟩ := h
  obtain rfl : f = g := Option.some.inj (frame.symm.trans frame')
  have object : m.objectPosition - 8 + 8 = m.objectPosition := by
    have := objectPosition_ge m
    omega
  unfold State.pullsData
  rw [frame]
  dsimp only
  rw [if_neg still, released, formed, read, checkPosition_whole fits check, object, Bool.and_false, Bool.or_false, Bool.eq_iff_iff]
  simp

theorem passBits_invariant {Q : State → Prop} (time : ∀ p d s, Q s → Q (passData p d s)) (read : ∀ s, Q s → Q (readMiddle s))
    (fuel : Nat) : ∀ (d : Nat) (s : State), Q s → Q (passBits fuel d s) := by
  induction fuel with
  | zero => exact fun d s h => time _ d s h
  | succ fuel ih =>
    intro d s h
    unfold passBits
    split
    · exact time _ _ _ h
    · dsimp only
      split
      · exact time _ _ _ h
      · exact ih _ _ (read _ (time _ _ _ h))

/-- Settles O37. -/
theorem objectionHasFiveGrounds : Obligations.ObjectionHasFiveGrounds := by
  intro m check
  refine ⟨?_, ⟨rfl, fun bits bit => (crc_append bits bit).trans (crcStep_eq _ _)⟩, fun fits e start full none => ?_,
    fun fits s framed formed still released holds => ?_⟩
  · exact (objection_iff m check).trans (or_congr Iff.rfl (unacceptable_iff m))
  · have begin' : e = engineAt e m check 0 := by
      have := objectPosition_ge m
      unfold engineAt
      rw [if_neg (by omega : ¬0 = m.objectPosition)]
      obtain ⟨_, _, _, _, _, _, _, _, _⟩ := e
      simp_all [levelsRead, crc]
    have reads {n : Nat} (h : n ≤ (m.read check).length) :
        ((m.read check).take n).foldl MessageEngine.readLevel e = engineAt e m check n := by
      have fold := foldl_readLevel fits check e h
      rwa [← begin'] at fold
    dsimp only
    refine ⟨?_, fun n short => ?_⟩
    · have := checkedBits_length m
      rw [reads (Nat.le_refl _), read_length, engineAt, levelsRead_all, if_pos rfl, List.take_of_length_le (by omega)]
    · rw [reads (Nat.le_of_lt short), engineAt]
      exact if_neg (by rw [read_length] at short; omega)
  · obtain ⟨f, frame, record⟩ := Option.map_eq_some_iff.mp framed
    have judged : s.Judged m (m.objection check) :=
      ⟨still, released, formed, f, bitsOf check, frame, record, by simp⟩
    refine ⟨?_, fun d => ?_⟩
    · simpa using State.pullsAt_of judged passData_judged (readMiddle_judged fits) passClocks_judged passSlots_judged
        (P := fun i => decide (i = m.objectPosition ∧ m.objection check = .object)) (pullsData_judged fits) holds.2
    · exact (passSlots_judged _ (passBits_invariant passData_judged (readMiddle_judged fits) _ d _ (passClocks_judged d s judged))).2.1

end Sys2Proof.Machine
end

section
/-! Expiry as a row of its own (R35, R36, R114): what a freeing notice makes of channels and queue, and of which holdings an expiry
rids the plan. -/

namespace Sys2Proof.Machine

/-! ## The freeing notice -/

/-- The STARVED channels, in ascending order. -/
def State.starvedChannels (s : State) : List ChannelId := (List.finRange 12).filter fun c => s.channels[c].state == .starved

/-- What the notice makes of channels and queue (R114). -/
def State.Freed (s t : State) : Prop :=
  (∀ c : ChannelId, t.channels[c]
      = if s.channels[c].state = .starved then
          { s.channels[c] with state := if s.station.state = .joined then .queued else .waiting }
        else s.channels[c])
    ∧ t.sched.queue
        = (if s.station.state = .joined then s.starvedChannels.foldl (fun q c => offerTo q (.claim c)) s.sched.queue
          else s.sched.queue)

theorem retryStarved_queue (c : ChannelId) (s : State) :
    (retryStarved c s).sched.queue
      = if s.channels[c].state = .starved ∧ s.station.state = .joined then offerTo s.sched.queue (.claim c) else s.sched.queue := by
  unfold retryStarved
  by_cases starved : s.channels[c].state = .starved <;> by_cases joined : s.station.state = .joined <;>
    simp only [starved, joined, if_true, if_false, and_true, and_false, mapChannel_sched, offer_sched]

/-- The notice as it reaches some channels, each once. -/
theorem retryEach (cs : List ChannelId) (once : cs.Nodup) : ∀ s : State,
    (∀ d : ChannelId, (cs.foldl (fun s c => retryStarved c s) s).channels[d]
      = if d ∈ cs ∧ s.channels[d].state = .starved then
          { s.channels[d] with state := if s.station.state = .joined then .queued else .waiting }
        else s.channels[d])
      ∧ (cs.foldl (fun s c => retryStarved c s) s).sched.queue
        = if s.station.state = .joined then
            (cs.filter fun c => s.channels[c].state == .starved).foldl (fun q c => offerTo q (.claim c)) s.sched.queue
          else s.sched.queue := by
  induction cs with
  | nil => exact fun s => ⟨fun d => by simp, by simp⟩
  | cons c cs ih =>
    obtain ⟨apart, once⟩ := List.nodup_cons.mp once
    intro s
    obtain ⟨records, queue⟩ := ih once (retryStarved c s)
    have station : (retryStarved c s).station = s.station := by simp
    have others (d : ChannelId) (other : d ≠ c) : (retryStarved c s).channels[d] = s.channels[d] := by
      rw [retryStarved_get, if_neg (by tauto)]
    have filtered : (cs.filter fun d => (retryStarved c s).channels[d].state == .starved)
        = cs.filter fun d => s.channels[d].state == .starved :=
      List.filter_congr fun d hd => by rw [others d (by rintro rfl; exact apart hd)]
    rw [station] at records queue
    rw [filtered, retryStarved_queue] at queue
    refine ⟨fun d => ?_, ?_⟩
    · rw [List.foldl_cons, records d]
      by_cases same : d = c
      · subst same
        rw [if_neg (by tauto), retryStarved_get]
        simp
      · rw [others d same]
        simp [same]
    · rw [List.foldl_cons, queue]
      by_cases starved : s.channels[c].state = .starved
      · rw [List.filter_cons_of_pos (by simpa using starved), List.foldl_cons]
        split <;> simp_all
      · rw [List.filter_cons_of_neg (by simpa using starved)]
        simp only [starved, false_and, if_false]

theorem freeingNotice_eq (s : State) : freeingNotice s = allChannels.foldl (fun s c => retryStarved c s) s := rfl

theorem freeingNotice_freed (s : State) : s.Freed (freeingNotice s) := by
  obtain ⟨records, queue⟩ := retryEach allChannels (List.nodup_finRange 12) s
  rw [freeingNotice_eq]
  refine ⟨fun c => (records c).trans ?_, queue⟩
  simp only [allChannels, List.mem_finRange, true_and]

/-- The notice changes channels and queue, and nothing else. -/
theorem freeingNotice_upd (s : State) :
    freeingNotice s
      = { s with channels := (freeingNotice s).channels, sched := { s.sched with queue := (freeingNotice s).sched.queue } } := by
  have frame := freeingNotice_frame s
  revert frame
  generalize freeingNotice s = t
  obtain ⟨_, _, _, _, _, _, ⟨_, _, _⟩, _, _, _, _, _⟩ := t
  rintro ⟨rfl, rfl, rfl, rfl, rfl, rfl, rfl, rfl, rfl, rfl, rfl, rfl⟩
  rfl

theorem freeingNotice_of_no_starved {s : State} (none : s.starvedChannels = []) : freeingNotice s = s :=
  freeingNotice_none fun c starved =>
    List.filter_eq_nil_iff.mp none c (List.mem_finRange c) (by simpa using starved)

/-! ## An expiry -/

theorem addressOf_ofNat (a : Address) : addressOf (BitVec.ofNat 5 a.val) = a := by
  revert a
  decide

/-- The plan table without the record of an address and without its holdings (R35, R36). -/
def PlanTable.without (t : PlanTable) (a : Address) (expiry : Nat) : PlanTable :=
  (t.setPeer a { t.peers[a] with present := false, age := expiry }).removeOwner a

theorem PlanTable.without_peers (t : PlanTable) (a : Address) (expiry : Nat) :
    (t.without a expiry).peers = t.peers.set a { t.peers[a] with present := false, age := expiry } :=
  PlanTable.removeOwner_peers _ a

theorem PlanTable.Lawful.without {t : PlanTable} (h : t.Lawful) (a : Address) (expiry : Nat) :
    (t.without a expiry).Lawful ∧ (t.without a expiry).plan = t.plan.filter fun g => decide (g.owner ≠ a) := by
  obtain ⟨lawful, plan, -⟩ := (h.setPeer a { t.peers[a] with present := false, age := expiry }).removeOwner a
  exact ⟨lawful, plan⟩

theorem PlanTable.WithinBudget.without {t : PlanTable} {budget : Nat} (h : t.WithinBudget budget) (a : Address) (expiry : Nat) :
    (t.without a expiry).WithinBudget budget :=
  PlanTable.WithinBudget.removeAll (t := t.setPeer a { t.peers[a] with present := false, age := expiry }) h _

/-- The plan gets shorter where the owner has a holding. -/
theorem PlanTable.Lawful.without_shorter {t : PlanTable} (h : t.Lawful) (a : Address) (expiry : Nat) :
    (t.without a expiry).plan.length < t.plan.length ↔ ∃ g ∈ t.plan, g.owner = a := by
  rw [(h.without a expiry).2, List.length_filter_lt_length_iff_exists]
  simp

/-- The expiry of one record where no slot is over budget. -/
theorem expireAll_single {a : Address} {s : State} (lawful : s.table.Lawful) (within : s.table.WithinBudget s.cfg.budget) :
    expireAll [a] s
      = if ∃ g ∈ s.table.plan, g.owner = a then freeingNotice (postExpiry a (expireRecord a s)) else postExpiry a (expireRecord a s) := by
  have table : (expireRecord a s).table = s.table.without a s.expiry := expireRecord_table a s
  have budget : (expireRecord a s).cfg = s.cfg := by simp
  show evictAndFree (decide ((expireRecord a s).table.plan.length < s.table.plan.length)) (postExpiry a) (expireRecord a s) = _
  rw [evictAndFree_within _ _ (by rw [table, budget]; exact within.without a _) (by simp), table]
  simp only [decide_eq_true_eq, lawful.without_shorter]

/-- The record of another station expires: it and its holdings go, and nothing else changes. -/
theorem expireRecord_of_other {a : Address} {s : State} (other : a ≠ s.cfg.address) :
    expireRecord a s = { s with table := s.table.without a s.expiry } := if_neg other

/-- A condition that holds adds nothing to a test. -/
theorem decide_and_of {p q : Prop} [Decidable p] [Decidable (decide p = true ∧ q)] (h : q) : decide p = decide (decide p = true ∧ q) := by
  rw [decide_eq_decide]
  simp [h]

/-- Settles O20. -/
theorem peerExpiryRemovesItsHoldings : Obligations.PeerExpiryRemovesItsHoldings := by
  intro a s other attached present lawful within lost starved
  have due : s.mayExpire a = true := by rw [State.mayExpire, attached, present]; rfl
  have run : exec (.peerExpired (BitVec.ofNat 5 a.val)) s = .next (expireAll [a] s) := by
    show Host.Outcome.next (if addressOf _ ≠ _ ∧ _ then _ else _) = _
    rw [addressOf_ofNat, if_pos ⟨other, due⟩]
  have posted : postExpiry a { s with table := s.table.without a s.expiry }
      = { s with table := s.table.without a s.expiry, port := s.port.post ⟨.peerExpired, .address a, s.timer.cycleCounter⟩ } := by
    rw [postExpiry, if_neg other]
    rfl
  rw [run, expireAll_single lawful within, expireRecord_of_other other, posted]
  obtain ⟨v, hv⟩ : ∃ v : State, v = { s with
    table := s.table.without a s.expiry, port := s.port.post ⟨.peerExpired, .address a, s.timer.cycleCounter⟩ } := ⟨_, rfl⟩
  rw [← hv]
  have peers := s.table.without_peers a s.expiry
  have plan := (lawful.without a s.expiry).2
  have channels : v.channels = s.channels := by rw [hv]
  have sched : v.sched = s.sched := by rw [hv]
  have station : v.station = s.station := by rw [hv]
  have table : v.table = s.table.without a s.expiry := by rw [hv]
  have port : v.port = s.port.post ⟨.peerExpired, .address a, s.timer.cycleCounter⟩ := by rw [hv]
  by_cases frees : ∃ g ∈ s.table.plan, g.owner = a
  · obtain ⟨-, -, table', -, -, -, -, -, port', -⟩ := freeingNotice_frame v
    obtain ⟨records, queue⟩ := freeingNotice_freed v
    have starvedAt : v.starvedChannels = starved := by rw [State.starvedChannels, channels]
    rw [if_pos frees]
    refine ⟨freeingNotice v, rfl, by rw [table', table]; exact peers,
      (congrArg PlanTable.plan (table'.trans table)).trans (plan.trans (List.filter_congr fun g _ =>
        decide_and_of ⟨port'.trans port, ?_, fun none => ?_, fun _ => ?_⟩))⟩
    · conv_lhs => rw [freeingNotice_upd v]
      rw [table', port', hv]
    · rw [freeingNotice_of_no_starved (starvedAt.trans (none.resolve_left (not_not.mpr frees)))]
      exact ⟨channels, sched⟩
    · rw [queue, starvedAt, sched, station]
      refine ⟨fun c => ?_, rfl⟩
      rw [records c, channels, station]
  · rw [if_neg frees]
    refine ⟨v, rfl, by rw [table]; exact peers, (congrArg PlanTable.plan table).trans (plan.trans (List.filter_congr fun g _ =>
      decide_and_of ⟨port, ?_, fun _ => ⟨channels, sched⟩, fun frees' => absurd frees' frees⟩))⟩
    rw [hv]

/-! ## The own expiry -/

/-- A channel that has lost its holding without an eviction (R36): its entry is empty and its output off, and where it is used it has no
span and no held demand, and is marked EVICTED. -/
def State.Emptied (c : ChannelId) (used : Prop) (s : State) : Prop :=
  s.drive.table[c] = none ∧ s.drive.outputs[c] = false
    ∧ (used → s.channels[c].span = none ∧ s.channels[c].held = 0 ∧ s.channels[c].evicted = true)

theorem loseHolding_expired_port (c : ChannelId) (s : State) : (loseHolding false c s).port = s.port := by
  unfold loseHolding
  dsimp only
  split
  · rfl
  · simp

theorem clearDrive_get (c d : ChannelId) (s : State) :
    (clearDrive c s).drive.table[d] = (if d = c then none else s.drive.table[d])
      ∧ (clearDrive c s).drive.outputs[d] = if d = c then false else s.drive.outputs[d] := by
  simp only [clearDrive, Fin.getElem_fin, Vector.getElem_set, Fin.val_inj, eq_comm, and_self]

/-- What the loss makes of the record of a used channel. -/
theorem loseHolding_expired_get (c d : ChannelId) (s : State) :
    (loseHolding false c s).channels[d]
      = if d = c ∧ s.channels[c].state ≠ .unused then
          { s.channels[c] with span := none, held := 0, evicted := true, state := (loseHolding false c s).channels[c].state }
        else s.channels[d] := by
  unfold loseHolding
  dsimp only
  rw [clearDrive_channels]
  by_cases used : s.channels[c].state = .unused
  · rw [if_pos used, if_neg (by tauto), clearDrive_channels]
  · rw [if_neg used]
    generalize hu : (clearDrive c s).mapChannel c (fun ch => { ch with span := none, held := 0, evicted := true }) = u
    have record (d : ChannelId) : u.channels[d]
        = if d = c then { s.channels[c] with span := none, held := 0, evicted := true } else s.channels[d] := by
      rw [← hu, mapChannel_get, clearDrive_channels]
    by_cases same : d = c
    · subst same
      have here := (record d).trans (if_pos rfl)
      have settled := settle_get_of_no_span (c := d) (s := u) (by rw [here]; exact used) (by rw [here]) (by rw [here])
      have fields : (settle d u).channels[d]
          = { s.channels[d] with span := none, held := 0, evicted := true, state := (settle d u).channels[d].state } := by
        conv_lhs => rw [settled, here]
        rw [settled, here]
      exact fields.trans (if_pos ⟨rfl, used⟩).symm
    · exact (settle_get_ne same u).trans ((record d).trans ((if_neg same).trans (if_neg (by tauto)).symm))

/-- Settling leaves a used channel used. -/
theorem settle_used {c d : ChannelId} {s : State} (used : s.channels[d].state ≠ .unused) : (settle c s).channels[d].state ≠ .unused := by
  by_cases same : d = c
  · subst same
    have placed (r : Request) : (placeRequest r d s).channels[d].state ≠ .unused := by
      rw [placeRequest_get, if_pos rfl]
      dsimp only
      split <;> simp
    rw [settle_eq]
    split
    · exact used
    · split
      · exact placed _
      · split
        · exact placed _
        · rw [mapChannel_get, if_pos rfl]
          dsimp only
          split <;> simp
  · rwa [settle_get_ne same]

/-- A loss leaves a used channel used. -/
theorem loseHolding_expired_used {c d : ChannelId} {s : State} (used : s.channels[d].state ≠ .unused) :
    (loseHolding false c s).channels[d].state ≠ .unused := by
  unfold loseHolding
  dsimp only
  rw [clearDrive_channels]
  split
  · exact used
  · refine settle_used ?_
    simp only [Bool.false_eq_true, if_false]
    rw [mapChannel_get, clearDrive_channels]
    split
    · next same => rwa [← same]
    · exact used

theorem loseHolding_expired_empties (c : ChannelId) {used : Prop} {s : State} (h : used → s.channels[c].state ≠ .unused) :
    (loseHolding false c s).Emptied c used := by
  obtain ⟨entry, output⟩ := clearDrive_get c c s
  refine ⟨?_, ?_, fun u => ?_⟩
  · rw [loseHolding_drive, entry, if_pos rfl]
  · rw [loseHolding_drive, output, if_pos rfl]
  · rw [loseHolding_expired_get, if_pos ⟨rfl, h u⟩]
    exact ⟨rfl, rfl, rfl⟩

theorem State.Emptied.loseHolding {c : ChannelId} {used : Prop} {s : State} (h : s.Emptied c used)
    (inUse : used → s.channels[c].state ≠ .unused) (d : ChannelId) : (loseHolding false d s).Emptied c used := by
  by_cases same : c = d
  · subst same
    exact loseHolding_expired_empties c inUse
  · obtain ⟨none, off, emptied⟩ := h
    obtain ⟨entry, output⟩ := clearDrive_get d c s
    refine ⟨?_, ?_, fun u => ?_⟩
    · rw [loseHolding_drive, entry, if_neg same, none]
    · rw [loseHolding_drive, output, if_neg same, off]
    · rw [loseHolding_expired_get, if_neg (fun h => same h.1)]
      exact emptied u

/-- The losses of some holdings: the port stands, and each of their channels is emptied. -/
theorem expireEach (hs : List Holding) (used : ChannelId → Prop) : ∀ s : State, (∀ c, used c → s.channels[c].state ≠ .unused) →
    (hs.foldl (fun s h => loseHolding false h.channel s) s).port = s.port
      ∧ ∀ c, (∃ h ∈ hs, h.channel = c) ∨ s.Emptied c (used c) →
          (hs.foldl (fun s h => loseHolding false h.channel s) s).Emptied c (used c) := by
  induction hs with
  | nil => exact fun s _ => ⟨rfl, fun c h => h.resolve_left (by simp)⟩
  | cons g gs ih =>
    intro s inUse
    obtain ⟨port, emptied⟩ := ih (loseHolding false g.channel s) fun c u => loseHolding_expired_used (inUse c u)
    refine ⟨port.trans (loseHolding_expired_port _ s), fun c h => emptied c ?_⟩
    rcases h with ⟨h, mem, rfl⟩ | before
    · rcases List.mem_cons.mp mem with rfl | mem
      · exact .inr (loseHolding_expired_empties h.channel (inUse h.channel))
      · exact .inl ⟨h, mem, rfl⟩
    · exact .inr (before.loseHolding (inUse c) g.channel)

/-- The own record expires: every channel of an own holding is emptied, and nothing is posted (R36, R113). -/
theorem expireRecord_of_own (s : State) :
    (expireRecord s.cfg.address s).port = s.port
      ∧ ∀ c : ChannelId, (s.table.find s.cfg.address c).isSome = true →
          (expireRecord s.cfg.address s).Emptied c (s.channels[c].state ≠ .unused) := by
  unfold expireRecord
  dsimp only
  rw [if_pos rfl]
  obtain ⟨port, emptied⟩ := expireEach (s.table.holdingsOf s.cfg.address) (fun c => s.channels[c].state ≠ .unused)
    { s with table := s.table.without s.cfg.address s.expiry } fun c used => used
  refine ⟨port, fun c held => emptied c (.inl ?_)⟩
  obtain ⟨h, found⟩ := Option.isSome_iff_exists.mp held
  exact ⟨h, List.mem_filterMap.mpr ⟨c, List.mem_finRange c, found⟩, (PlanTable.find_some found).2.2⟩

theorem State.Emptied.of_freed {c : ChannelId} {used : Prop} {s : State} (h : s.Emptied c used) : (freeingNotice s).Emptied c used := by
  obtain ⟨none, off, emptied⟩ := h
  obtain ⟨-, -, -, -, -, -, drive, -⟩ := freeingNotice_frame s
  refine ⟨by rw [drive]; exact none, by rw [drive]; exact off, fun u => ?_⟩
  rw [(freeingNotice_freed s).1 c]
  split
  · exact emptied u
  · exact emptied u

/-- Settles O21. -/
theorem selfExpiryEmptiesOwnChannels : Obligations.SelfExpiryEmptiesOwnChannels := by
  intro s attached present silent lawful within
  have due : s.mayExpire s.cfg.address = true := by rw [State.mayExpire, attached, present]; rfl
  have run : exec .selfExpired s = .next (announceDueTest (expireAll [s.cfg.address] s)) := by
    show Host.Outcome.next (if _ then announceDueTest (expireAll _ (if _ then _ else _)) else _) = _
    rw [if_pos due, if_pos silent]
  obtain ⟨v, hv⟩ : ∃ v, v = postExpiry s.cfg.address (expireRecord s.cfg.address s) := ⟨_, rfl⟩
  obtain ⟨u, hu⟩ : ∃ u, u = expireAll [s.cfg.address] s := ⟨_, rfl⟩
  have expired : u = if ∃ g ∈ s.table.plan, g.owner = s.cfg.address then freeingNotice v else v := by
    rw [hu, hv, expireAll_single lawful within]
  obtain ⟨recordPort, recordEmptied⟩ := expireRecord_of_own s
  have posted : v.port = s.port.post ⟨.selfExpired, .address s.cfg.address, s.timer.cycleCounter⟩ := by
    rw [hv, postExpiry, if_pos (by simp)]
    show (expireRecord s.cfg.address s).port.post ⟨_, _, (expireRecord s.cfg.address s).timer.cycleCounter⟩ = _
    rw [recordPort]
    simp
  have emptied (c : ChannelId) (held : (s.table.find s.cfg.address c).isSome = true) : v.Emptied c (s.channels[c].state ≠ .unused) := by
    rw [hv]
    exact recordEmptied c held
  have table : u.table = s.table.without s.cfg.address s.expiry := by
    have before : v.table = s.table.without s.cfg.address s.expiry := by
      rw [hv]
      exact expireRecord_table s.cfg.address s
    rw [expired]
    split
    · simp [before]
    · exact before
  have port : u.port = v.port := by
    rw [expired]
    split <;> simp
  have empties (c : ChannelId) (held : (s.table.find s.cfg.address c).isSome = true) : u.Emptied c (s.channels[c].state ≠ .unused) := by
    rw [expired]
    split
    · exact (emptied c held).of_freed
    · exact emptied c held
  obtain ⟨-, cfg, timer, lines, engine, station, -⟩ : u.inputs = s.inputs ∧ u.cfg = s.cfg ∧ u.timer = s.timer ∧ u.lines = s.lines
      ∧ u.engine = s.engine ∧ u.station = s.station ∧ u.pending = s.pending := by
    rw [hu]
    simp
  rw [← hu] at run
  obtain ⟨-, dueCfg, dueTable, dueTimer, dueLines, dueEngine, dueDrive, dueStation, duePort, -, dueChannels, -⟩ := announceDueTest_frame u
  refine ⟨_, run, ?_, ?_⟩
  · rw [dueTable, table, PlanTable.without_peers]
    rfl
  · rw [dueTable, table, (lawful.without _ _).2]
    refine List.filter_congr fun g _ => decide_and_of ⟨?_, fun c held => ?_, ?_, ?_, ?_, ?_, ?_, fun state => ?_⟩
    · rw [duePort, port, posted]
    · rw [dueDrive, dueChannels]
      exact empties c held
    · rw [dueStation, station]
    · rw [dueTimer, timer]
    · rw [dueCfg, cfg]
    · rw [dueLines, lines]
    · rw [dueEngine, engine]
    · have age : u.cfg.interval ≤ u.ownAge := by
        have own : u.ownAge = s.expiry := by
          simp only [State.ownAge, table, cfg, PlanTable.without_peers, Fin.getElem_fin, Vector.getElem_set_self]
        rw [own, cfg]
        exact Nat.le_mul_of_pos_left _ (by decide)
      have offers : announceDueTest u = offer .announce u := by
        unfold announceDueTest
        rw [if_pos]
        rw [Bool.and_eq_true, Bool.or_eq_true, decide_eq_true_eq, decide_eq_true_eq, decide_eq_true_eq, station]
        exact ⟨state, age⟩
      rw [offers]
      exact holds_offerTo_self rfl

end Sys2Proof.Machine
end

section
/-! The rows that time brings (R49 to R60, R83, R146, R147): what time makes of SYNC, of its pulse and of DATA, slots, the guard window,
the pulse, acquisition, stuck lines and recovery. -/

namespace Sys2Proof.Machine

/-! ## SYNC as time passes -/

/-- The items of the lines that DATA has no part in. -/
def LineInterface.syncItems (l : LineInterface) : Bool × Nat × Bool × Nat × Nat × Nat × Nat :=
  (l.syncDriving, l.pulseTime, l.syncLow, l.syncHighTime, l.syncLowTime, l.syncHold, l.idleTime)

theorem passData_syncItems (p : Bool) (d : Nat) (s : State) : (passData p d s).lines.syncItems = s.lines.syncItems := by
  unfold passData LineInterface.advanceData LineInterface.syncItems
  dsimp only
  split <;> rfl

theorem passBits_syncItems (fuel d : Nat) (s : State) : (passBits fuel d s).lines.syncItems = s.lines.syncItems :=
  passBits_invariant (Q := fun t => t.lines.syncItems = s.lines.syncItems) (fun p d t h => (passData_syncItems p d t).trans h)
    (fun t h => (congrArg LineInterface.syncItems (readMiddle_lines t)).trans h) fuel d s rfl

theorem passSlots_lines (s : State) : (passSlots s).lines = s.lines := by
  unfold passSlots
  split <;> rfl

theorem advance_syncItems (d : Nat) (s : State) : (advance d s).lines.syncItems = (passClocks d s).lines.syncItems := by
  rw [advance, passSlots_lines, elapse, passBits_syncItems]

theorem advance_syncLow (d : Nat) (s : State) :
    (advance d s).lines.syncLow = (s.lines.syncLow && (s.lines.syncDriving || decide (d < s.lines.syncHold))) := by
  refine (congrArg (·.2.2.1) (advance_syncItems d s)).trans ?_
  show (s.lines.advanceSync d s.counting).syncLow = _
  unfold LineInterface.advanceSync
  cases h : s.lines.syncLow
  · simp
  · rw [if_pos rfl, Bool.true_and]
    split
    · next held => exact held.symm
    · next released => exact (Bool.eq_false_iff.mpr released).symm

/-- SYNC that was high, or has risen, has been high for as long. -/
theorem advance_syncHighTime {d : Nat} {s : State} (counting : s.counting = true)
    (high : s.lines.syncLow = true → s.lines.syncDriving = false ∧ s.lines.syncHold ≤ d) :
    (advance d s).lines.syncHighTime
      = if s.lines.syncLow then d - s.lines.syncHold else s.lines.syncHighTime + d := by
  refine (congrArg (·.2.2.2.1) (advance_syncItems d s)).trans ?_
  show (s.lines.advanceSync d s.counting).syncHighTime = _
  unfold LineInterface.advanceSync
  cases h : s.lines.syncLow
  · simp [counting]
  · obtain ⟨released, held⟩ := high h
    simp [counting, released, Nat.not_lt.mpr held]

theorem advance_syncLowTime {d : Nat} {s : State} (counting : s.counting = true) (low : s.lines.syncLow = true)
    (held : d < s.lines.syncHold) : (advance d s).lines.syncLowTime = s.lines.syncLowTime + d := by
  refine (congrArg (·.2.2.2.2.1) (advance_syncItems d s)).trans ?_
  show (s.lines.advanceSync d s.counting).syncLowTime = _
  unfold LineInterface.advanceSync
  simp [counting, low, held]

theorem advance_syncHold {d : Nat} {s : State} (low : s.lines.syncLow = true)
    (held : s.lines.syncDriving = true ∨ d < s.lines.syncHold) : (advance d s).lines.syncHold = s.lines.syncHold - d := by
  refine (congrArg (·.2.2.2.2.2.1) (advance_syncItems d s)).trans ?_
  show (s.lines.advanceSync d s.counting).syncHold = _
  unfold LineInterface.advanceSync
  rw [if_pos low, if_pos (by simpa using held)]

theorem advance_pulseTime (d : Nat) (s : State) :
    (advance d s).lines.pulseTime = if s.lines.syncDriving then s.lines.pulseTime + d else s.lines.pulseTime := by
  refine (congrArg (·.2.1) (advance_syncItems d s)).trans ?_
  show (if s.lines.syncDriving then _ else _) = _
  rfl

theorem State.counting_of_attached {s : State} (attached : s.station.state.attached = true) : s.counting = true := by
  refine decide_eq_true fun unconfigured => ?_
  rw [unconfigured] at attached
  cases attached

/-! ## Slots -/

theorem advance_keeps_cfg (d : Nat) (s : State) : (advance d s).cfg = s.cfg := (advance_keeps d s).2.1

theorem advanceToLocal_localTime {s : State} (running : s.timer.running = true) (t : Nat) :
    (advanceToLocal t s).timer.localTime = max s.timer.localTime t := by
  rw [advanceToLocal, advance_localTime, if_pos running]
  omega

/-- Behind the passing of time no slot is left to start. -/
theorem advance_slot_reached (d : Nat) (s : State) :
    (advance d s).timer.running = true → (advance d s).slotNow ≤ (advance d s).timer.slotIndex := by
  intro running
  unfold advance passSlots at *
  split at running
  · next h =>
    rw [if_pos h]
    exact le_refl _
  · next h =>
    rw [if_neg h]
    simp only [running, Bool.true_and, decide_eq_true_eq, not_lt] at h
    exact h

/-- Time changes the timer, the lines, the engine and the outputs, and nothing else. -/
theorem TimeKeeps.upd {s t : State} (h : TimeKeeps s t) :
    t = { s with timer := t.timer, lines := t.lines, engine := t.engine, drive := t.drive } := by
  obtain ⟨inputs, cfg, table, sched, channels, station, port, pending, -⟩ := h
  rw [State.mk.injEq]
  exact ⟨inputs, cfg, table, rfl, rfl, rfl, sched, channels, rfl, station, port, pending⟩

theorem elapse_drive (d : Nat) (s : State) : (elapse d s).drive = s.drive :=
  (passBits_clocks (2 * Config.longestFrame) d (passClocks d s)).2

/-- An entry that conducts, as R123 says it. -/
theorem conducts_iff (e : DriveEntry) (index : Nat) (k : Slot) :
    e.conducts index k = true
      ↔ (k.val + 64 - e.start.val) % 64 < e.length
        ∧ (k.val ≠ (e.start.val + e.length - 1) % 64 ∨ e.fraction = 0 ∨ index ∈ [0, 4, 2, 6, 1, 5, 3, 7].take e.fraction) := by
  unfold DriveEntry.conducts spanCovers ditherOrder
  rw [Bool.and_eq_true, Bool.or_eq_true, Bool.or_eq_true, decide_eq_true_eq, decide_eq_true_eq, decide_eq_true_eq,
    List.contains_iff_mem, or_assoc]

/-- A slot that starts: the index advances, and the outputs are set for it. -/
theorem startSlot_upd (s : State) :
    startSlot s
      = { s with
          timer := { s.timer with slotIndex := s.timer.slotIndex + 1 }
          drive := (startSlot s).drive } := rfl

/-- Settles O24. -/
theorem slotStartSetsTheOutputs : Obligations.SlotStartSetsTheOutputs := by
  intro s running quiet boundary
  have run : exec .slotStart s
      = .next (if s.slotAhead then startSlot (elapse (s.nextBoundary - s.timer.localTime) s) else s) := by
    show Host.Outcome.next (if (ownFall s).slotAhead then _ else _) = _
    rw [ownFall_none quiet]
  refine ⟨fun below => ?_, fun last => ?_⟩
  · have ahead : s.slotAhead = true := by rw [State.slotAhead, running, decide_eq_true below]; rfl
    rw [if_pos ahead] at run
    obtain ⟨u, hu⟩ : ∃ u, u = elapse (s.nextBoundary - s.timer.localTime) s := ⟨_, rfl⟩
    have timer : u.timer = { s.timer with localTime := s.timer.localTime + (s.nextBoundary - s.timer.localTime) } := by
      rw [hu, elapse_timer, if_pos running]
    have drive : u.drive = s.drive := by rw [hu, elapse_drive]
    have keeps : TimeKeeps s u := hu ▸ elapse_keeps _ s
    have next : (s.timer.slotIndex + 1 : Slot).val = s.timer.slotIndex.val + 1 := by
      rw [Fin.val_add]
      exact Nat.mod_eq_of_lt (by show s.timer.slotIndex.val + 1 < 64; omega)
    have index : (startSlot u).timer.slotIndex = s.timer.slotIndex + 1 := by
      rw [startSlot_upd, timer]
    rw [← hu] at run
    refine ⟨startSlot u, run, by rw [index, next], ?_, by rw [startSlot_upd, timer], by rw [startSlot_upd, timer], ?_, fun c => ?_, ?_⟩
    · rw [startSlot_upd, timer]
      show s.timer.localTime + (s.nextBoundary - s.timer.localTime) = max s.timer.localTime s.nextBoundary
      omega
    · show (setOutputs _ _).drive.table = _
      rw [setOutputs_table_eq, drive]
    · have output : (startSlot u).drive.outputs[c]
          = s.drive.table[c].any fun e => e.conducts s.ditherIndex (startSlot u).timer.slotIndex := by
        rw [startSlot, setOutputs_output, State.ditherIndex, State.ditherIndex]
        simp only [setOutputs_timer, timer, drive]
      rw [output, Option.any_eq_true]
      simp only [conducts_iff]
      rfl
    · conv_lhs => rw [startSlot_upd, keeps.upd]
      rfl
  · have none : ¬s.slotAhead = true := by
      rw [State.slotAhead, running, last]
      decide
    rw [run, if_neg none]

/-! ## The guard window -/

theorem advance_fallWaits {s : State} (quiet : s.fallWaits = false) (d : Nat) : (advance d s).fallWaits = false := by
  unfold State.fallWaits at *
  rw [advance_syncDriving, advance_syncLow]
  cases driving : s.lines.syncDriving
  · rfl
  · rw [driving] at quiet
    simpa using quiet

theorem advance_inGuard {s : State} (guard : s.inGuard = true) (d : Nat) : (advance d s).inGuard = true := by
  have before : s.guardStart ≤ s.timer.localTime := of_decide_eq_true guard
  have same : (advance d s).guardStart = s.guardStart := by
    simp only [State.guardStart, State.cycleLength, State.bits, advance_keeps_cfg]
  refine decide_eq_true ?_
  rw [same, advance_localTime]
  split
  · omega
  · exact before

/-- Time that passes up to a gap is the passing of some time, or of none. -/
theorem advanceToGap_cases (gap : Nat) (s : State) : advanceToGap gap s = s ∨ ∃ d, advanceToGap gap s = advance d s := by
  unfold advanceToGap
  split
  · exact .inr ⟨_, rfl⟩
  · split
    · exact .inl rfl
    · exact .inr ⟨_, rfl⟩

theorem opportunity_inGuard {s : State} (guard : s.inGuard = true) (gap : Nat) : s.opportunity gap = false := by
  simp [State.opportunity, guard]

/-- Settles O25. -/
theorem guardWindowBarsNewMessages : Obligations.GuardWindowBarsNewMessages := by
  intro s running quiet
  obtain ⟨t, ht⟩ : ∃ t, t = advanceToLocal s.guardStart s := ⟨_, rfl⟩
  have time : t.timer.localTime = max s.timer.localTime s.guardStart := by rw [ht, advanceToLocal_localTime running]
  have start : t.guardStart = s.guardStart := by
    simp only [ht, advanceToLocal, State.guardStart, State.cycleLength, State.bits, advance_keeps_cfg]
  have guard : t.inGuard = true := decide_eq_true (by rw [start, time]; exact Nat.le_max_right ..)
  have still : t.fallWaits = false := ht ▸ advance_fallWaits quiet _
  refine ⟨t, ?_, ht ▸ advance_timePasses _ s, time, fun gap => opportunity_inGuard guard gap, ?_⟩
  · show Host.Outcome.next (if (ownFall s).timer.running then _ else _) = _
    rw [ownFall_none quiet, if_pos running, ht]
  · have later : (advanceToGap Config.idleGapBits t).inGuard = true := by
      rcases advanceToGap_cases Config.idleGapBits t with same | ⟨d, passes⟩
      · rw [same]
        exact guard
      · rw [passes]
        exact advance_inGuard guard d
    show Host.Outcome.next (if (advanceToGap Config.idleGapBits (ownFall t)).opportunity _ then _ else _) = _
    rw [ownFall_none still, if_neg (by rw [opportunity_inGuard later]; decide)]

/-! ## The SYNC pulse -/

/-- Enough time has passed for SYNC to have been high for 16 bit times. -/
theorem advance_syncHigh {d : Nat} {s : State} (attached : s.station.state.attached = true) (released : s.lines.syncDriving = false)
    (long : s.untilHigh ≤ d) :
    (advance d s).lines.syncLow = false ∧ s.bits Config.syncHighBits ≤ (advance d s).lines.syncHighTime := by
  unfold State.untilHigh at long
  have held : s.lines.syncLow = true → s.lines.syncHold ≤ d := fun low => by rw [if_pos low] at long; omega
  rw [advance_syncLow, advance_syncHighTime (State.counting_of_attached attached) fun low => ⟨released, held low⟩, released]
  cases low : s.lines.syncLow
  · rw [low] at long
    simp only [Bool.false_eq_true, if_false] at long ⊢
    exact ⟨rfl, by omega⟩
  · have := held low
    rw [low] at long
    simp only [if_true] at long ⊢
    exact ⟨by simpa using this, by omega⟩

theorem pulseDue_iff (s : State) : s.pulseDue = true ↔ s.station.state.attached = true ∧ s.timer.syncAcquired = true
    ∧ s.cycleLength ≤ s.timer.localTime ∧ s.lines.syncLow = false ∧ s.bits Config.syncHighBits ≤ s.lines.syncHighTime
    ∧ s.lines.syncDriving = false := by
  simp [State.pulseDue, and_assoc]

theorem endAttempt_lines (s : State) : (endAttempt s).lines = { s.lines with dataDriving := false } := by
  simp [endAttempt, endTransmission]

/-- The Message Engine's part of an edge (R64, R77). -/
theorem edgeEngine_eq (s : State) :
    edgeEngine s
      = if s.engine.framing = .off then s
        else if s.engine.framing = .frame ∧ s.engine.transmission ≠ .none then reportVoid .sync (dropFrame s)
        else dropFrame s := by
  unfold edgeEngine
  cases framing : s.engine.framing with
  | off => rfl
  | awaitSync | gap | idle | frame => exact (if_neg (by decide)).symm

/-- The edge releases DATA at an engine that is on, and leaves SYNC to its fall. -/
theorem edgeEngine_lines (s : State) :
    (edgeEngine s).lines = if s.engine.framing = .off then s.lines else { s.lines with dataDriving := false } := by
  rw [edgeEngine_eq]
  split
  · rfl
  · split
    · rw [reportVoid, (countVoid_frame _ _).2.2.2.2.1, endAttempt_lines]
      rfl
    · rfl

/-- No event of an edge that hands nothing over touches the level of SYNC. -/
theorem edgePart_syncItems (p : EdgePart) (s : State) : (edgePart .none p s).lines.syncItems = s.lines.syncItems := by
  cases p with
  | messageEngine =>
    show (edgeEngine s).lines.syncItems = _
    rw [edgeEngine_lines]
    split <;> rfl
  | planTable => simp [edgePart]
  | driveUnit => simp [edgePart]
  | stationController => simp [edgePart]
  | message _ => rfl
  | attemptReport => rfl
  | stationReport => rfl

theorem validEdge_syncItems (order : List EdgePart) (s : State) : (validEdge order .none s).lines.syncItems = s.lines.syncItems :=
  foldl_keeps (fun s => s.lines.syncItems) _ (fun s p => edgePart_syncItems p s) order (edgeTimer s)

/-- The fall that the own pulse makes leaves the line low. -/
theorem ownFall_syncLow {s : State} (waits : s.fallWaits = true) : (ownFall s).lines.syncLow = true := by
  unfold ownFall takeFall
  rw [if_pos waits]
  split
  · exact congrArg (·.2.2.1) (validEdge_syncItems EdgePart.usualOrder (fallSync 0 s))
  · rfl

theorem ownFall_quiet {s : State} (waits : s.fallWaits = true) : (ownFall s).fallWaits = false := by
  rw [State.fallWaits, ownFall_syncLow waits]
  exact Bool.and_false _

/-- SYNC_EDGE at a pulse whose fall waits takes that fall. -/
theorem exec_syncEdge_waits {s : State} (waits : s.fallWaits = true) : exec (.syncEdge 0 EdgePart.usualOrder) s = .next (ownFall s) := by
  have high : s.lines.syncLow = false := by
    simp only [State.fallWaits, Bool.and_eq_true, Bool.not_eq_true'] at waits
    exact waits.2
  have order : s.edgeOrder EdgePart.usualOrder = EdgePart.usualOrder := edgeOrder_of_none s rfl
  show Host.Outcome.next (if (if s.fallWaits then s else advanceToFall s).lines.syncLow then s
    else fallWith 0 ((if s.fallWaits then s else advanceToFall s).edgeOrder _) (if s.fallWaits then s else advanceToFall s)) = _
  rw [if_pos waits, if_neg (by rw [high]; decide), order, fallWith_of_none 0 s rfl, ownFall, if_pos waits]

/-- A command at which time passes takes the fall of the own pulse first. -/
theorem exec_takesTime {c : Instr} (takes : c.takesTime = true) {s : State} (waits : s.fallWaits = true) :
    exec c s = exec c (ownFall s) := by
  have once : ownFall (ownFall s) = ownFall s := ownFall_none (ownFall_quiet waits)
  cases c <;> cases takes <;>
    simp only [exec, execSlotStart, execGuardWindow, execSyncPulse, execSyncPulseRelease, execSyncAcquired, execSyncStuck, execDataStuck,
      execLinesIdle, execFramingIdle, execStartOfFrame, execJoinStartOfFrame, execMessageObjected, execAnnounceCommit, execClaimCommit,
      execReleaseCommit, execRollcallCommit, execDataFall, execRefuseBit, once]

/-- The passing of time and a change of the lines and of the DATA side of the engine are the passing of time. -/
theorem State.TimePasses.of_lines {s u : State} (h : s.TimePasses u) {lines : LineInterface} {engine : MessageEngine}
    (driving : lines.syncDriving = s.lines.syncDriving)
    (keeps : engine.framing = u.engine.framing ∧ engine.verdict = u.engine.verdict ∧ engine.transmission = u.engine.transmission
      ∧ engine.request = u.engine.request ∧ engine.frame.isSome = u.engine.frame.isSome) :
    s.TimePasses { u with lines := lines, engine := engine } := by
  obtain ⟨later, stopped, same, -, framing, verdict, transmission, request, frame, drive⟩ := h
  obtain ⟨framing', verdict', transmission', request', frame'⟩ := keeps
  refine ⟨later, stopped, ?_, driving, framing'.trans framing, verdict'.trans verdict, transmission'.trans transmission,
    request'.trans request, frame'.trans frame, drive⟩
  conv_lhs => rw [same]

/-- No time at all: the lines may rise, and nothing else but the engine's measures changes. -/
theorem advance_zero_upd {s : State} (reached : s.timer.running = true → s.slotNow ≤ s.timer.slotIndex) :
    advance 0 s = { s with lines := (advance 0 s).lines, engine := (advance 0 s).engine } := by
  have timer : (elapse 0 s).timer = s.timer := by
    rw [elapse_timer]
    split <;> rfl
  have slot : (elapse 0 s).slotNow = s.slotNow := by
    simp only [State.slotNow, timer, (elapse_keeps 0 s).2.1]
  have none : passSlots (elapse 0 s) = elapse 0 s := by
    refine if_neg fun starts => ?_
    rw [Bool.and_eq_true, decide_eq_true_eq, timer, slot] at starts
    exact absurd (reached starts.1) (not_le.mpr starts.2)
  have keeps := (elapse_keeps 0 s).upd
  rw [timer, elapse_drive] at keeps
  rw [advance, none]
  exact keeps

/-- Settles O26. -/
theorem syncPulseEndsTheCycle : Obligations.SyncPulseEndsTheCycle := by
  intro s bit
  refine ⟨fun attached running acquired released => ?_, fun barred quiet => ?_, fun driving low => ?_,
    fun waits => ⟨ownFall s, exec_syncEdge_waits waits, ownFall_syncLow waits, fun c takes => exec_takesTime takes waits⟩⟩
  · have quiet : s.fallWaits = false := by rw [State.fallWaits, released]; rfl
    obtain ⟨u, hu⟩ : ∃ u, u = advanceToPulse s.cycleLength s := ⟨_, rfl⟩
    have passes : s.TimePasses u := hu ▸ advance_timePasses _ s
    have keeps : TimeKeeps s u := hu ▸ advance_keeps _ s
    obtain ⟨high, long⟩ : u.lines.syncLow = false ∧ s.bits Config.syncHighBits ≤ u.lines.syncHighTime :=
      hu ▸ advance_syncHigh attached released (Nat.le_max_right (s.cycleLength - s.timer.localTime) s.untilHigh)
    have time : s.cycleLength ≤ u.timer.localTime := by
      rw [hu, advanceToPulse, advance_localTime, if_pos running]
      have := Nat.le_max_left (s.cycleLength - s.timer.localTime) s.untilHigh
      omega
    have due : u.pulseDue = true := by
      obtain ⟨-, cfg, -, -, -, station, -, -, -, -, -, acquired', driving', -⟩ := keeps
      refine (pulseDue_iff u).mpr ⟨by rw [station]; exact attached, by rw [acquired']; exact acquired, ?_, high, ?_,
        by rw [driving']; exact released⟩
      · simpa only [State.cycleLength, cfg] using time
      · simpa only [State.bits, cfg] using long
    refine ⟨u, passes, ?_, time, high, long⟩
    show Host.Outcome.next (if (advanceToPulse (ownFall s).cycleLength (ownFall s)).pulseDue then _ else _) = _
    rw [ownFall_none quiet, ← hu, if_pos due]
    rfl
  · have keeps : TimeKeeps s (advanceToPulse s.cycleLength s) := advance_keeps _ s
    obtain ⟨-, -, -, -, -, station, -, -, -, -, -, acquired, -⟩ := keeps
    have none : ¬(advanceToPulse s.cycleLength s).pulseDue = true := by
      rw [pulseDue_iff, station, acquired]
      rintro ⟨attached', acquired', -⟩
      rcases barred with h | h
      · rw [h] at acquired'; cases acquired'
      · rw [h] at attached'; cases attached'
    show Host.Outcome.next (if (advanceToPulse (ownFall s).cycleLength (ownFall s)).pulseDue then _ else _) = _
    rw [ownFall_none quiet, if_neg none]
  · have quiet : s.fallWaits = false := by rw [State.fallWaits, driving, low]; rfl
    obtain ⟨d, hd⟩ : ∃ d, d = s.bits Config.pulseBits - s.lines.pulseTime := ⟨_, rfl⟩
    obtain ⟨u, hu⟩ : ∃ u, u = advance d s := ⟨_, rfl⟩
    obtain ⟨v, hv⟩ : ∃ v : State, v = { u with lines := { u.lines with syncDriving := false, pulseTime := 0 } } := ⟨_, rfl⟩
    have passes : s.TimePasses u := hu ▸ advance_timePasses _ s
    have lowAfter : u.lines.syncLow = true := by rw [hu, advance_syncLow, low, driving]; rfl
    have holdAfter : u.lines.syncHold = s.lines.syncHold - d := by rw [hu, advance_syncHold low (.inl driving)]
    have reached : v.timer.running = true → v.slotNow ≤ v.timer.slotIndex := by
      rw [hv, hu]
      exact advance_slot_reached d s
    have still := advance_zero_upd reached
    refine ⟨advance 0 v, ?_, ?_, ?_, ?_, fun running => ?_, ?_⟩
    · show Host.Outcome.next (if (ownFall s).lines.syncDriving then
        releasePulse (advance ((ownFall s).bits Config.pulseBits - (ownFall s).lines.pulseTime) (ownFall s)) else ownFall s) = _
      rw [ownFall_none quiet, if_pos driving, ← hd, ← hu, hv]
      rfl
    · rw [advance_syncDriving, hv]
    · rw [advance_pulseTime, hv]
      rfl
    · rw [advance_syncLow, hv]
      dsimp only
      rw [lowAfter, holdAfter, hd]
      simp only [Bool.true_and, Bool.false_or, decide_eq_true_eq]
      show 0 < s.lines.syncHold - (8 * bit - s.lines.pulseTime) ↔ _
      omega
    · rw [still, hv, hu]
      show (advance d s).timer.localTime = _
      rw [advance_localTime, if_pos running, hd]
      rfl
    · rw [still]
      obtain ⟨-, -, -, -, -, -, -, -, -, -, -, -, -, keeps⟩ := advance_keeps 0 v
      rw [hv] at keeps ⊢
      exact passes.of_lines driving.symm keeps

/-! ## Acquisition -/

/-- Settles O27. -/
theorem twoCyclesWithoutAnEdgeAcquireSync : Obligations.TwoCyclesWithoutAnEdgeAcquireSync := by
  intro s attached running unacquired released
  have quiet : s.fallWaits = false := by rw [State.fallWaits, released]; rfl
  obtain ⟨u, hu⟩ : ∃ u, u = advanceToLocal (2 * s.cycleLength) s := ⟨_, rfl⟩
  obtain ⟨v, hv⟩ : ∃ v : State, v = { u with timer := { u.timer with syncAcquired := true } } := ⟨_, rfl⟩
  have keeps : TimeKeeps s u := hu ▸ advance_keeps _ s
  obtain ⟨-, cfg, -, -, -, station, -, -, -, runs, -, -, driving, -⟩ := keeps
  have time : u.timer.localTime = max s.timer.localTime (2 * s.cycleLength) := by rw [hu, advanceToLocal_localTime running]
  have run : exec .syncAcquired s = .next (if v.pulseDue then startPulse v else v) := by
    show Host.Outcome.next (if (ownFall s).timer.running && !(ownFall s).timer.syncAcquired then
      acquireSync (advanceToLocal (2 * (ownFall s).cycleLength) (ownFall s)) else ownFall s) = _
    rw [ownFall_none quiet, running, unacquired, ← hu, hv]
    rfl
  have due : v.pulseDue = true ↔ u.lines.syncLow = false ∧ s.bits Config.syncHighBits ≤ u.lines.syncHighTime := by
    have length : v.cycleLength = s.cycleLength := by simp only [hv, State.cycleLength, cfg]
    have bits : v.bits Config.syncHighBits = s.bits Config.syncHighBits := by simp only [hv, State.bits, cfg]
    rw [pulseDue_iff, length, bits]
    constructor
    · rintro ⟨-, -, -, high, long, -⟩
      rw [hv] at high long
      exact ⟨high, long⟩
    · rintro ⟨high, long⟩
      rw [hv]
      exact ⟨by rw [station]; exact attached, rfl, by dsimp only; rw [time]; omega, high, long, driving.trans released⟩
  refine ⟨u, _, hu ▸ advance_timePasses _ s, run, ?_, time, fun slots => ?_, fun high long => ?_, fun short => ?_, fun high => ?_⟩
  · split
    · rw [hv]
      rfl
    · rw [hv]
  · have reached : u.slotNow ≤ u.timer.slotIndex := by
      have after := advance_slot_reached (2 * s.cycleLength - s.timer.localTime) s
      rw [← advanceToLocal, ← hu] at after
      exact after (runs.trans running)
    have last : u.slotNow.val = 63 := by
      have length : 0 < slotPeriods s.cfg.slotCode := Nat.mul_pos slots (by decide)
      have cycles : 63 ≤ u.timer.localTime / slotPeriods s.cfg.slotCode := by
        rw [Nat.le_div_iff_mul_le length, time, State.cycleLength]
        omega
      rw [State.slotNow_val, cfg]
      omega
    have := Fin.le_def.mp reached
    have := u.timer.slotIndex.isLt
    omega
  · rw [if_pos (due.mpr ⟨high, long⟩), hv]
    rfl
  · have none : ¬v.pulseDue = true := by
      rw [due]
      rintro ⟨high, long⟩
      rcases short with low | brief
      · rw [low] at high
        cases high
      · exact absurd long (Nat.not_le.mpr brief)
    rw [if_neg none, hv]
  · rw [hu, advanceToLocal, advance_syncHighTime (State.counting_of_attached attached) (fun low => by rw [high] at low; cases low), high]
    rfl

/-! ## DATA held dominant -/

/-- DATA that other stations hold through the time that passes stays dominant, and its measure counts on. -/
theorem advanceData_held {l : LineInterface} {d : Nat} (dominant : l.dataDominant = true) (held : d < l.dataHold) (pulled : Bool) :
    (l.advanceData d true pulled).dataDominant = true ∧ (l.advanceData d true pulled).dominantTime = l.dominantTime + d
      ∧ (l.advanceData d true pulled).dataHold = l.dataHold - d := by
  unfold LineInterface.advanceData
  rw [if_pos (by simp [dominant, held]), dominant]
  exact ⟨rfl, rfl, rfl⟩

theorem passBits_held (fuel : Nat) : ∀ (d : Nat) (s : State), s.counting = true → s.lines.dataDominant = true → d < s.lines.dataHold →
    (passBits fuel d s).lines.dataDominant = true ∧ (passBits fuel d s).lines.dominantTime = s.lines.dominantTime + d := by
  have once (p : Bool) (d : Nat) (s : State) (counting : s.counting = true) (dominant : s.lines.dataDominant = true)
      (held : d < s.lines.dataHold) : (passData p d s).lines.dataDominant = true
        ∧ (passData p d s).lines.dominantTime = s.lines.dominantTime + d ∧ (passData p d s).lines.dataHold = s.lines.dataHold - d := by
    show (s.lines.advanceData d s.counting p).dataDominant = true ∧ (s.lines.advanceData d s.counting p).dominantTime = _
      ∧ (s.lines.advanceData d s.counting p).dataHold = _
    rw [counting]
    exact advanceData_held dominant held p
  induction fuel with
  | zero =>
    intro d s counting dominant held
    obtain ⟨stays, time, -⟩ := once s.pullsData d s counting dominant held
    exact ⟨stays, time⟩
  | succ fuel ih =>
    intro d s counting dominant held
    obtain ⟨stays, time, -⟩ := once s.pullsData d s counting dominant held
    unfold passBits
    split
    · exact ⟨stays, time⟩
    · dsimp only
      split
      · exact ⟨stays, time⟩
      · next f _ _ =>
        generalize ha : s.bits 1 / 2 - f.elapsed % (s.bits 1 / 2) = ahead at *
        obtain ⟨stays', time', hold'⟩ := once s.pullsData ahead s counting dominant (by omega)
        have lines := readMiddle_lines (passData s.pullsData ahead s)
        have station : (readMiddle (passData s.pullsData ahead s)).station = s.station := by
          rw [(readMiddle_keeps _).station]
          rfl
        have rest := ih (d - ahead) (readMiddle (passData s.pullsData ahead s)) (by rw [State.counting, station]; exact counting)
          (by rw [lines]; exact stays') (by rw [lines, hold']; omega)
        rw [lines, time'] at rest
        exact ⟨rest.1, rest.2.trans (by omega)⟩

/-- DATA that is held stays dominant, and its measure counts on. -/
theorem advance_held {d : Nat} {s : State} (counting : s.counting = true) (dominant : s.lines.dataDominant = true)
    (held : d < s.lines.dataHold) :
    (advance d s).lines.dataDominant = true ∧ (advance d s).lines.dominantTime = s.lines.dominantTime + d := by
  obtain ⟨level, hold, -⟩ := passClocks_data d s
  have time : (passClocks d s).lines.dominantTime = s.lines.dominantTime := by
    show (s.lines.advanceSync d s.counting).dominantTime = _
    unfold LineInterface.advanceSync
    split <;> [split; skip] <;> rfl
  rw [advance, passSlots_lines, elapse, ← time]
  exact passBits_held _ d (passClocks d s) counting (level.trans dominant) (by rw [hold]; exact held)

/-! ## Stuck lines -/

/-- What entry to FAULT leaves, from a state that time has led to. -/
theorem TimeKeeps.faulted {s u : State} (keeps : TimeKeeps s u) (cause : Cause) :
    let t := enterFault cause u
    t.station = { s.station with state := .fault, cause := cause, opened := false, count := 0, traffic := false, rollcall := .none }
      ∧ t.table = .reset
      ∧ t.timer = { s.timer with running := false, localTime := 0, slotIndex := 0, syncAcquired := false }
      ∧ t.lines = { u.lines with syncDriving := false, pulseTime := 0, dataDriving := false, idleTime := 0 }
      ∧ t.engine = { u.engine with
          framing := .off, ending := none, frame := none, objection := none, verdict := none, transmission := .none, request := none }
      ∧ t.sched = .reset ∧ t.drive = .reset
      ∧ t.channels = s.channels.map Channel.unspan
      ∧ t.port = s.port.post ⟨.fault, .cause cause, s.timer.cycleCounter⟩
      ∧ t.cfg = s.cfg ∧ t.inputs = s.inputs ∧ t.pending = s.pending := by
  obtain ⟨inputs, cfg, -, -, channels, station, port, pending, -, -, counter, -⟩ := keeps
  refine ⟨?_, rfl, ?_, rfl, rfl, rfl, rfl, ?_, ?_, cfg, inputs, pending⟩
  · rw [← station]; rfl
  · simp [enterFault, counter]
  · rw [← channels]; rfl
  · rw [← port, ← counter]; rfl

theorem map_unspan_get (channels : Vector Channel 12) (c : ChannelId) :
    (channels.map Channel.unspan)[c]
      = if channels[c].state = .unused then channels[c]
        else { channels[c] with span := none, held := 0, state := if channels[c].target = 0 then .idle else .waiting } :=
  Vector.getElem_map ..

/-- Settles O28. -/
theorem stuckLinesEnterFault : Obligations.StuckLinesEnterFault := by
  intro s quiet
  have own : ownFall s = s := ownFall_none quiet
  refine ⟨fun attached => ⟨fun low => ?_, fun dominant => ?_⟩, fun off => ?_, fun off => ?_⟩
  · obtain ⟨d, hd⟩ : ∃ d, d = s.bits Config.syncStuckBits + 1 - s.lines.syncLowTime := ⟨_, rfl⟩
    obtain ⟨held, hh⟩ : ∃ held : State, held = { s with lines := { s.lines with syncHold := max s.lines.syncHold (d + 1) } } := ⟨_, rfl⟩
    have run : exec .syncStuck s = .next (enterFault .syncStuck (advance d held)) := by
      show Host.Outcome.next (if (ownFall s).station.state.attached && (ownFall s).lines.syncLow then _ else _) = _
      rw [own, attached, low, hh, hd]
      rfl
    have holds : d < held.lines.syncHold := by rw [hh]; exact lt_of_lt_of_le (Nat.lt_succ_self d) (Nat.le_max_right ..)
    have low' : held.lines.syncLow = true := by rw [hh]; exact low
    have since : held.lines.syncLowTime = s.lines.syncLowTime := by rw [hh]
    have counting : held.counting = true := by rw [hh]; exact State.counting_of_attached attached
    have keeps : TimeKeeps s (advance d held) :=
      TimeKeeps.trans (by simp [hh, TimeKeeps]) (advance_keeps d held)
    have level : (advance d held).lines.syncLow = true := by rw [advance_syncLow, low', decide_eq_true holds]; simp
    have time : (advance d held).lines.syncLowTime = s.lines.syncLowTime + d := by
      rw [advance_syncLowTime counting low' holds, since]
    obtain ⟨station, table, timer, lines, engine, sched, drive, channels, port, rest⟩ := keeps.faulted .syncStuck
    refine ⟨_, run, ⟨station, table, timer, by rw [lines], by rw [lines], by rw [lines], by rw [engine], by rw [engine],
      by rw [engine], by rw [engine], by rw [engine], sched, drive, fun c => by rw [channels]; exact map_unspan_get _ c, port, rest⟩,
      by rw [lines]; exact level, ?_⟩
    rw [lines]
    show _ < (advance d held).lines.syncLowTime
    rw [time, hd, State.bits, Config.syncStuckBits]
    omega
  · obtain ⟨d, hd⟩ : ∃ d, d = s.bits Config.dataStuckBits + 1 - s.lines.dominantTime := ⟨_, rfl⟩
    obtain ⟨held, hh⟩ : ∃ held : State, held = { s with lines := { s.lines with dataHold := max s.lines.dataHold (d + 1) } } := ⟨_, rfl⟩
    have run : exec .dataStuck s = .next (enterFault .dataStuck (advance d held)) := by
      show Host.Outcome.next (if (ownFall s).station.state.attached && (ownFall s).lines.dataDominant then _ else _) = _
      rw [own, attached, dominant, hh, hd]
      rfl
    have holds : d < held.lines.dataHold := by rw [hh]; exact lt_of_lt_of_le (Nat.lt_succ_self d) (Nat.le_max_right ..)
    have dominant' : held.lines.dataDominant = true := by rw [hh]; exact dominant
    have since : held.lines.dominantTime = s.lines.dominantTime := by rw [hh]
    have counting : held.counting = true := by rw [hh]; exact State.counting_of_attached attached
    have keeps : TimeKeeps s (advance d held) :=
      TimeKeeps.trans (by simp [hh, TimeKeeps]) (advance_keeps d held)
    obtain ⟨level, time⟩ := advance_held counting dominant' holds
    obtain ⟨station, table, timer, lines, engine, sched, drive, channels, port, rest⟩ := keeps.faulted .dataStuck
    refine ⟨_, run, ⟨station, table, timer, by rw [lines], by rw [lines], by rw [lines], by rw [engine], by rw [engine],
      by rw [engine], by rw [engine], by rw [engine], sched, drive, fun c => by rw [channels]; exact map_unspan_get _ c, port, rest⟩,
      by rw [lines]; exact level, ?_⟩
    rw [lines]
    show _ < (advance d held).lines.dominantTime
    rw [time, since, hd, State.bits, Config.dataStuckBits]
    omega
  · show Host.Outcome.next (if (ownFall s).station.state.attached && (ownFall s).lines.syncLow then _ else _) = _
    rw [own, if_neg (by rcases off with h | h <;> simp [h])]
  · show Host.Outcome.next (if (ownFall s).station.state.attached && (ownFall s).lines.dataDominant then _ else _) = _
    rw [own, if_neg (by rcases off with h | h <;> simp [h])]

/-! ## Recovery -/

/-- Time passes at an idle part: both lines are released when no station has held them for a while. -/
theorem advance_idle_released {d : Nat} {s : State} (released : s.lines.syncDriving = false) (noFrame : s.engine.frame = none)
    (long : s.lines.busy ≤ d) : (advance d s).lines.syncLow = false ∧ (advance d s).lines.dataDominant = false := by
  unfold LineInterface.busy LineInterface.dataBusy at long
  constructor
  · rw [advance_syncLow, released]
    cases low : s.lines.syncLow
    · rfl
    · rw [if_pos low] at long
      simp only [Bool.true_and, Bool.false_or, decide_eq_false_iff_not]
      omega
  · obtain ⟨level, hold, -⟩ := passClocks_data d s
    rw [advance, passSlots_lines, elapse_of_no_frame noFrame]
    show ((passClocks d s).lines.advanceData d _ false).dataDominant = false
    unfold LineInterface.advanceData
    rw [level, hold]
    cases dominant : s.lines.dataDominant
    · rfl
    · rw [if_pos dominant] at long
      rw [if_neg (by simp only [Bool.false_or, Bool.true_and, decide_eq_true_eq]; omega)]

theorem advance_stopped_drive {s : State} (stopped : s.timer.running = false) (d : Nat) : (advance d s).drive = s.drive := by
  rw [advance, passSlots_of_stopped (by rw [elapse_timer, stopped]; exact stopped), elapse_drive]

theorem busy_le_idle (s : State) :
    s.lines.busy ≤ if s.lines.busy = 0 then s.cycleLength - s.lines.idleTime else s.lines.busy + s.cycleLength := by
  split <;> omega

/-- Settles O29. -/
theorem idleLinesRecoverFromFault : Obligations.IdleLinesRecoverFromFault := by
  intro s quiet
  have own : ownFall s = s := ownFall_none quiet
  have run : exec .linesIdle s = .next (if s.station.state = .fault then recover (advanceToIdle s) else s) := by
    show Host.Outcome.next (if (ownFall s).station.state = .fault then _ else _) = _
    rw [own]
  refine ⟨fun fault idle => ?_, fun notFault => by rw [run, if_neg notFault]⟩
  have detached : s.station.state.attached = false := by rw [fault]; rfl
  obtain ⟨-, running, -, -, -, syncDriving, -, -, -, frame, -, -, -, -, sched, -⟩ := idle detached
  obtain ⟨low, dominant⟩ := advance_idle_released syncDriving frame (busy_le_idle s)
  rw [if_pos fault] at run
  obtain ⟨u, hu⟩ : ∃ u, u = advanceToIdle s := ⟨_, rfl⟩
  have keeps : TimeKeeps s u := hu ▸ advance_keeps _ s
  have drive : u.drive = s.drive := hu ▸ advance_stopped_drive running _
  rw [← hu] at run
  obtain ⟨inputs, cfg, -, sameSched, channels, station, port, pending, -⟩ := keeps
  refine ⟨_, run, ?_, rfl, rfl, rfl, rfl, rfl, ?_, hu ▸ low, hu ▸ dominant, ?_, channels, drive, cfg, inputs, pending⟩
  · rw [← station]; rfl
  · rw [← sameSched] at sched ⊢
    rw [show (recover u).sched = { u.sched with queue := offerTo u.sched.queue .rollcall } from rfl, sched]
    rfl
  · rw [← port, ← cfg]; rfl

end Sys2Proof.Machine
end

section
/-! The end of a join window (R138): what settling leaves of the queue and of a channel that does not wait. -/

namespace Sys2Proof.Machine

/-- An offer for a channel leaves the entries that are for no channel. -/
theorem mem_offerTo_of_no_channel {q : List QueueEntry} {r : Request} {c : ChannelId} (own : r.channel? = some c) {e : QueueEntry}
    (none : e.request.channel? = none) : e ∈ offerTo q r ↔ e ∈ q := by
  have joins (p : List QueueEntry) : e ∈ p ++ [.fresh r] ↔ e ∈ p := by
    rw [List.mem_append, List.mem_singleton]
    refine ⟨fun h => h.elim id fun same => ?_, .inl⟩
    rw [same] at none
    exact absurd (own.symm.trans none) (by simp)
  unfold offerTo
  split
  · rfl
  · split
    · exact joins q
    · next o other =>
      split
      · rfl
      · rw [joins, List.mem_filter, and_iff_left]
        have theirs : o.channel? = some c := by
          cases r <;> simp only [Request.other, Option.some.injEq, reduceCtorEq] at other <;> subst other <;> exact own
        refine bne_iff_ne.mpr fun same => ?_
        rw [same, theirs] at none
        cases none

theorem settle_mem_of_no_channel (c : ChannelId) (s : State) {e : QueueEntry} (none : e.request.channel? = none) :
    e ∈ (settle c s).sched.queue ↔ e ∈ s.sched.queue := by
  have withdrawn : e ∈ s.sched.queue.filter (fun e => e.onWire || e.request.channel? != some c) ↔ e ∈ s.sched.queue := by
    rw [List.mem_filter, none]
    simp
  have placed (r : Request) (own : r.channel? = some c) : e ∈ (placeRequest r c s).sched.queue ↔ e ∈ s.sched.queue := by
    rw [placeRequest_queue]
    split
    · exact mem_offerTo_of_no_channel own none
    · exact withdrawn
  rw [settle_eq]
  split
  · rfl
  · split
    · exact placed _ rfl
    · split
      · exact placed _ rfl
      · exact withdrawn

theorem settleWaiting_mem_of_no_channel (s : State) {e : QueueEntry} (none : e.request.channel? = none) :
    e ∈ (settleWaiting s).sched.queue ↔ e ∈ s.sched.queue := by
  have each (c : ChannelId) (u : State) : (e ∈ (settleIfWaiting c u).sched.queue) = (e ∈ u.sched.queue) := by
    unfold settleIfWaiting
    split
    · exact propext (settle_mem_of_no_channel c u none)
    · rfl
  rw [settleWaiting]
  exact iff_of_eq (forChannels_keeps (fun s => e ∈ s.sched.queue) settleIfWaiting each s)

/-- A channel that does not wait stays as it is where the WAITING channels are settled. -/
theorem settleWaiting_get {c : ChannelId} (s : State) (rests : s.channels[c].state ≠ .waiting) :
    (settleWaiting s).channels[c] = s.channels[c] := by
  have each (ds : List ChannelId) (u : State) (same : u.channels[c] = s.channels[c]) :
      (ds.foldl (fun s d => settleIfWaiting d s) u).channels[c] = s.channels[c] := by
    induction ds generalizing u with
    | nil => exact same
    | cons d ds ih =>
      refine ih _ ?_
      show (settleIfWaiting d u).channels[c] = _
      unfold settleIfWaiting
      split
      · next waits =>
        refine (settle_get_ne (fun h => rests ?_) u).trans same
        rw [← same, h]
        exact waits
      · exact same
  exact each allChannels s rfl

/-- Behind entry to JOINED an ANNOUNCE is queued, and of a ROLLCALL no more than an attempt that is on the wire. -/
theorem enterJoined_queue (cause : Cause) (s : State) :
    holds (enterJoined cause s).sched.queue .announce = true
      ∧ ∀ e ∈ (enterJoined cause s).sched.queue, e.request = .rollcall → e.onWire = true ∧ e.cancel = true := by
  have queue : (enterJoined cause s).sched.queue = (settleWaiting (enteringJoined cause s)).sched.queue := by
    rw [enterJoined_eq, post_sched]
  rw [queue]
  constructor
  · obtain ⟨e, here, announce⟩ := (holds_iff _ _).mp (holds_offerTo_self (r := .announce) rfl (q := removeEntries (· == .rollcall) s.sched.queue))
    exact (holds_iff _ _).mpr ⟨e, (settleWaiting_mem_of_no_channel _ (by rw [announce]; rfl)).mpr here, announce⟩
  · intro e he rollcall
    have here := (settleWaiting_mem_of_no_channel _ (by rw [rollcall]; rfl)).mp he
    rw [enteringJoined_queue] at here
    rcases mem_offerTo here with old | rfl
    · rcases mem_removeEntries.mp old with ⟨-, other⟩ | ⟨d, -, -, wire, rfl⟩
      · rw [rollcall] at other
        cases other
      · exact ⟨wire, rfl⟩
    · cases rollcall

/-- The cause of the end of a join window (R138). -/
def Station.joinCause (st : Station) : Cause := if !st.traffic && st.rollcall == .earlier then .early else .window

/-- Settles O23. -/
theorem joinWindowEndEntersJoined : Obligations.JoinWindowEndEntersJoined := by
  intro s state opened
  have window : s.windowOpen = true := by
    unfold State.windowOpen
    rcases state with h | h <;> rw [h, opened] <;> rfl
  obtain ⟨announce, rollcall⟩ := enterJoined_queue s.station.joinCause s
  refine ⟨enterJoined s.station.joinCause s, s.station.joinCause, ?_, fun quiet earlier => ?_, fun busy => ?_, ?_, announce, rollcall,
    fun c rests => ?_⟩
  · show Host.Outcome.next (if s.windowOpen then enterJoined s.station.joinCause s else s) = _
    rw [if_pos window]
  · rw [Station.joinCause, quiet, earlier]
    rfl
  · rcases busy with traffic | mark
    · rw [Station.joinCause, traffic]
      rfl
    · rw [Station.joinCause, if_neg (by simp [mark])]
  · have upd := enterJoined_upd s.station.joinCause s
    generalize enterJoined s.station.joinCause s = t at upd
    generalize settleWaiting (enteringJoined s.station.joinCause s) = u at upd
    subst upd
    rfl
  · rw [enterJoined_eq, post_channels]
    exact settleWaiting_get (enteringJoined _ s) rests

end Sys2Proof.Machine
end

section
/-! The falls of DATA and the gap behind a message (R64, R67, R76): what the framing makes of a fall, and when it becomes idle. -/

namespace Sys2Proof.Machine

/-! ## DATA as time passes with no frame -/

theorem advance_engine (d : Nat) (s : State) : (advance d s).engine = (elapse d s).engine := by
  unfold advance passSlots
  split <;> rfl

/-- With no frame on the wire this station pulls nothing: DATA stays dominant while others hold it. -/
theorem advance_data_of_no_frame {s : State} (noFrame : s.engine.frame = none) (d : Nat) :
    (advance d s).lines.dataDominant = (s.lines.dataDominant && decide (d < s.lines.dataHold)) := by
  obtain ⟨level, hold, -⟩ := passClocks_data d s
  rw [advance, passSlots_lines, elapse_of_no_frame noFrame]
  show ((passClocks d s).lines.advanceData d _ false).dataDominant = _
  unfold LineInterface.advanceData
  rw [level, hold, Bool.false_or]
  cases s.lines.dataDominant && decide (d < s.lines.dataHold) <;> rfl

theorem advance_recessive_of_no_frame {s : State} (noFrame : s.engine.frame = none) (d : Nat) :
    (advance d s).engine.recessiveTime = s.recessiveAfter d := by
  obtain ⟨level, hold, -⟩ := passClocks_data d s
  rw [advance_engine, elapse_of_no_frame noFrame]
  show (passClocks d s).recessiveAfter d = _
  simp only [State.recessiveAfter, State.endHold, State.endReadsDominant, State.endBitsRead, LineInterface.dataBusy, level, hold,
    State.bits]
  rfl

/-- A dominant line is recessive once the other stations have released it. -/
theorem advanceToRecessive_of_no_frame {s : State} (noFrame : s.engine.frame = none) :
    (advanceToRecessive s).lines.dataDominant = false := by
  unfold advanceToRecessive
  split
  · rw [advance_data_of_no_frame noFrame]
    simp
  · next recessive => exact Bool.eq_false_iff.mpr recessive

theorem advanceToRecessive_timePasses (s : State) : s.TimePasses (advanceToRecessive s) := by
  unfold advanceToRecessive
  split
  · exact advance_timePasses _ s
  · exact .refl s

theorem advanceToRecessive_fallWaits {s : State} (quiet : s.fallWaits = false) : (advanceToRecessive s).fallWaits = false := by
  unfold advanceToRecessive
  split
  · exact advance_fallWaits quiet _
  · exact quiet

theorem advanceToRecessive_of_recessive {s : State} (recessive : s.lines.dataDominant = false) : advanceToRecessive s = s := by
  rw [advanceToRecessive, if_neg (by rw [recessive]; decide)]

/-! ## The fall -/

/-- DATA_FALL with no pulse of SYNC to wait for. -/
theorem exec_dataFall {s : State} (quiet : s.fallWaits = false) (hold : Nat) :
    exec (.dataFall hold) s = .next (dataFall hold s) := by
  show Host.Outcome.next (dataFall hold (ownFall s)) = _
  rw [ownFall_none quiet]

theorem dataFall_of_recessive {s : State} (recessive : s.lines.dataDominant = false) (hold : Nat) : dataFall hold s = landFall hold s := by
  rw [dataFall, advanceToRecessive_of_recessive recessive, if_neg (by rw [recessive]; decide)]

/-- A fall on a dominant line is that on the line that other stations have released. -/
theorem dataFall_later {s : State} (recessive : (advanceToRecessive s).lines.dataDominant = false) (hold : Nat) :
    dataFall hold s = dataFall hold (advanceToRecessive s) := by
  rw [dataFall_of_recessive recessive, dataFall, if_neg (by rw [recessive]; decide)]

/-! ## The gap -/

theorem State.bits_eq (s : State) (n : Nat) : s.bits n = n * s.bits 1 := by
  rw [State.bits, State.bits, one_mul]

/-- The gap ends as long after the end of END, or the rise of DATA, as its length; or at once. -/
theorem State.endHold_pos_iff (s : State) : 0 < s.endHold ↔ s.engine.framing = .gap ∧ ∃ r, s.engine.ending = some r
    ∧ r.elapsed < s.bits Config.endBits ∧ s.endReadsDominant r (s.bits Config.endBits - r.elapsed) = true := by
  unfold State.endHold
  cases s.engine.ending with
  | none => simp
  | some r =>
    dsimp only
    split
    · next reads =>
      rw [Nat.sub_pos_iff_lt]
      exact ⟨fun short => ⟨reads.1, r, rfl, short, reads.2⟩, fun ⟨_, e, same, short, _⟩ => Option.some.inj same ▸ short⟩
    · next silent =>
      exact ⟨fun h => absurd h (lt_irrefl 0), fun ⟨gap, e, same, _, reads⟩ => absurd ⟨gap, Option.some.inj same ▸ reads⟩ silent⟩

/-- How long it takes until the recessive measure has reached a gap (R64, R76). -/
def State.gapLeft (gap : Nat) (s : State) : Nat :=
  if s.lines.dataDominant || decide (0 < s.endHold) then max s.endHold s.lines.dataBusy + s.bits gap
  else s.bits gap - s.engine.recessiveTime

theorem State.gapLeft_of_no_end {s : State} (free : ¬0 < s.endHold) (gap : Nat) :
    s.gapLeft gap = if s.lines.dataDominant then s.lines.dataHold + s.bits gap else s.bits gap - s.engine.recessiveTime := by
  rw [State.gapLeft, decide_eq_false free, Bool.or_false, Nat.eq_zero_of_not_pos free, LineInterface.dataBusy, Nat.zero_max]
  split <;> rfl

theorem State.gapLeft_of_end {s : State} (holds : 0 < s.endHold) {r : EndRecord} (ending : s.engine.ending = some r) (gap : Nat) :
    s.gapLeft gap = max (3 * s.bits 1 - r.elapsed) (if s.lines.dataDominant then s.lines.dataHold else 0) + s.bits gap := by
  obtain ⟨gapping, e, same, -, reads⟩ := s.endHold_pos_iff.mp holds
  obtain rfl := Option.some.inj (ending.symm.trans same)
  have left : s.endHold = 3 * s.bits 1 - r.elapsed := by
    rw [State.endHold, ending]
    dsimp only
    rw [if_pos ⟨gapping, reads⟩, s.bits_eq Config.endBits]
    rfl
  rw [State.gapLeft, decide_eq_true holds, Bool.or_true, if_pos rfl, left, LineInterface.dataBusy]

/-- In GAP the measure has reached the gap once time has passed up to it. -/
theorem advanceToGap_reaches {s : State} (gapping : s.engine.framing = .gap) (noFrame : s.engine.frame = none) (gap : Nat) :
    s.TimePasses (advanceToGap gap s) ∧ s.bits gap ≤ (advanceToGap gap s).engine.recessiveTime
      ∧ (s.timer.running = true → (advanceToGap gap s).timer.localTime = s.timer.localTime + s.gapLeft gap) := by
  unfold advanceToGap State.gapLeft
  split
  · next held =>
    refine ⟨advance_timePasses _ s, ?_, fun running => by rw [advance_localTime, if_pos running]⟩
    rw [advance_recessive_of_no_frame noFrame]
    by_cases ends : 0 < s.endHold
    · rw [State.recessiveAfter_end gapping ends (by omega)]
      omega
    · have dominant : s.lines.dataDominant = true := by simpa [ends] using held
      have busy : s.lines.dataBusy = s.lines.dataHold := if_pos dominant
      rw [State.recessiveAfter, if_pos (.inl gapping), if_neg (fun h => ends h.1), if_pos dominant, busy, if_neg (by omega)]
      omega
  · next free =>
    obtain ⟨recessive, ended⟩ : ¬s.lines.dataDominant = true ∧ ¬0 < s.endHold := by simpa using free
    split
    · next reached => exact ⟨.refl s, reached, fun _ => by omega⟩
    · next short =>
      refine ⟨advance_timePasses _ s, ?_, fun running => by rw [advance_localTime, if_pos running]⟩
      rw [advance_recessive_of_no_frame noFrame, State.recessiveAfter, if_pos (.inl gapping), if_neg (fun h => ended h.1),
        if_neg recessive]
      omega

/-- The level of END's bits: one reads dominant where its middle comes before the other stations release DATA. -/
theorem State.endReadsDominant_iff {s : State} {r : EndRecord} (short : r.elapsed < 3 * s.bits 1) :
    s.endReadsDominant r (s.bits Config.endBits - r.elapsed) = true
      ↔ r.dominant = true ∨ ∃ i < 3, r.elapsed < i * s.bits 1 + s.bits 1 / 2
          ∧ i * s.bits 1 + s.bits 1 / 2 < r.elapsed + if s.lines.dataDominant then s.lines.dataHold else 0 := by
  obtain ⟨positive, even⟩ := s.bits_one
  have length : s.bits Config.endBits = 3 * s.bits 1 := s.bits_eq 3
  rw [State.endReadsDominant, Bool.or_eq_true, Bool.and_eq_true, decide_eq_true_eq, State.endBitsRead_lt_iff, length]
  refine or_congr_right ⟨fun ⟨dominant, i, few, ahead, before⟩ => ⟨i, few, ahead, ?_⟩, fun ⟨i, few, ahead, before⟩ => ?_⟩
  · rw [if_pos dominant]
    omega
  · split at before
    · next dominant =>
      have : i * s.bits 1 ≤ 2 * s.bits 1 := Nat.mul_le_mul_right _ (by omega)
      exact ⟨dominant, i, few, ahead, by omega⟩
    · omega

/-- Settles O30. -/
theorem framingFollowsData : Obligations.FramingFollowsData := by
  intro hold s quiet lines bit
  have one : s.bits 1 = bit := one_mul _
  have own : ownFall s = s := ownFall_none quiet
  refine ⟨fun recessive => ?_, fun dominant => ?_, fun gapping noFrame => ?_, fun elsewhere => ?_⟩
  · have run : exec (.dataFall hold) s = .next (landFall hold s) := by rw [exec_dataFall quiet, dataFall_of_recessive recessive]
    refine ⟨fun idle barred => ?_, fun gap => ?_, fun frame => ?_, fun outside => ?_⟩
    · rw [run, landFall, idle]
      dsimp only
      rw [if_neg (by rw [barred]; decide)]
      rfl
    · rw [run, landFall, gap, ← one]
      rfl
    · rw [run, landFall, frame, ← one]
      rfl
    · rcases outside with off | await
      · rw [run, landFall, off]
        rfl
      · rw [run, landFall, await]
        rfl
  · refine ⟨advanceToRecessive s, advanceToRecessive_timePasses s, fun released => ?_, fun held => ?_, advanceToRecessive_of_no_frame⟩
    · rw [exec_dataFall quiet, exec_dataFall (advanceToRecessive_fallWaits quiet), dataFall_later released]
    · rw [exec_dataFall quiet, dataFall, if_pos held]
  · obtain ⟨passes, reached, time⟩ := advanceToGap_reaches gapping noFrame Config.receiverGapBits
    have gap : s.bits Config.receiverGapBits = 3 * bit := rfl
    refine ⟨advanceToGap Config.receiverGapBits s, passes, reached, ?_, fun running => ?_⟩
    · show Host.Outcome.next (if (ownFall s).engine.framing = .gap then _ else _) = _
      rw [own, if_pos gapping]
      rfl
    · intro passed held counted
      have left := time running
      have free (silent : ¬0 < s.endHold) : counted := by
        rw [State.gapLeft_of_no_end silent] at left
        exact left
      refine ⟨fun none => free fun holds => ?_, fun r ending short => ?_⟩
      · obtain ⟨-, e, some, -⟩ := s.endHold_pos_iff.mp holds
        rw [none] at some
        cases some
      · rw [← one] at short
        have reads_iff := State.endReadsDominant_iff short
        rw [one] at reads_iff
        have length : s.bits Config.endBits = 3 * s.bits 1 := s.bits_eq 3
        refine ⟨fun reads => ?_, fun silent => free fun holds => silent ?_⟩
        · rw [State.gapLeft_of_end (s.endHold_pos_iff.mpr ⟨gapping, r, ending, by omega, reads_iff.mpr reads⟩) ending, one] at left
          exact left
        · obtain ⟨-, e, some, -, reads⟩ := s.endHold_pos_iff.mp holds
          obtain rfl := Option.some.inj (ending.symm.trans some)
          exact reads_iff.mp reads
  · show Host.Outcome.next (if (ownFall s).engine.framing = .gap then _ else _) = _
    rw [own, if_neg elsewhere]

end Sys2Proof.Machine
end

section
/-! An attempt that ends without a commit (R68 to R70, R74, R96, R97, R109): what becomes of its entry and of its channel. -/

namespace Sys2Proof.Machine

/-! ## The end of an attempt -/

/-- The attempt has ended, and its channel has not been told. -/
def State.returned (s : State) : State :=
  { endTransmission s with sched := { s.sched with queue := returnEntry s.sched.queue, composed := none } }

theorem endAttempt_eq (s : State) : endAttempt s = tellChannel s.attemptChannel s.returned := rfl

theorem tellChannel_upd (c : Option ChannelId) (s : State) :
    tellChannel c s
      = { s with channels := (tellChannel c s).channels, sched := { s.sched with queue := (tellChannel c s).sched.queue } } := by
  have frame := tellChannel_frame c s
  revert frame
  generalize tellChannel c s = t
  obtain ⟨_, _, _, _, _, _, ⟨_, _, _⟩, _, _, _, _, _⟩ := t
  rintro ⟨rfl, rfl, rfl, rfl, rfl, rfl, rfl, rfl, rfl, rfl, rfl, rfl⟩
  rfl

/-- The end of an attempt changes the engine's transmission, DATA, the scheduler and the channels, and nothing else. -/
theorem endAttempt_upd (s : State) :
    endAttempt s
      = { s with
          lines := { s.lines with dataDriving := false }
          engine := { s.engine with transmission := .none, request := none }
          channels := (endAttempt s).channels
          sched := { s.sched with queue := (endAttempt s).sched.queue, composed := none } } := by
  rw [endAttempt_eq]
  exact tellChannel_upd _ _

theorem endAttempt_sched (s : State) :
    (endAttempt s).sched = { s.sched with queue := (endAttempt s).sched.queue, composed := none } := by
  have upd := endAttempt_upd s
  generalize endAttempt s = t at upd ⊢
  generalize t.channels = channels, t.sched.queue = queue at upd
  rw [upd]

/-- An entry that the attempt has left returns without its mark, or leaves with the cancel mark. -/
theorem returnEntry_eq (q : List QueueEntry) :
    returnEntry q = q.filterMap fun e => if e.onWire && e.cancel then none else some { e with onWire := false } := by
  unfold returnEntry
  refine List.filterMap_congr fun e _ => ?_
  obtain ⟨r, onWire, cancel⟩ := e
  cases onWire <;> cases cancel <;> rfl

theorem endAttempt_of_no_channel {s : State} (free : s.attemptChannel = none) :
    (endAttempt s).channels = s.channels ∧ (endAttempt s).sched.queue = returnEntry s.sched.queue := by
  rw [endAttempt_eq, free]
  exact ⟨rfl, rfl⟩

theorem State.attemptChannel_of_general {s : State} (general : s.engine.request = some .announce ∨ s.engine.request = some .rollcall) :
    s.attemptChannel = none := by
  unfold State.attemptChannel
  rcases general with h | h <;> rw [h] <;> rfl

/-! ## A channel whose attempt is over -/

/-- Entries that are not on the wire stay as they are behind an attempt. -/
theorem returnEntry_idle {q : List QueueEntry} (idle : ∀ e ∈ q, e.onWire = false) : returnEntry q = q := by
  unfold returnEntry
  refine (List.filterMap_congr (g := some) fun e he => ?_).trans List.filterMap_some
  rw [if_neg (by rw [idle e he]; decide)]

theorem returnEntry_append (p q : List QueueEntry) : returnEntry (p ++ q) = returnEntry p ++ returnEntry q := List.filterMap_append

/-- The one entry on the wire returns to its place, or leaves where it is cancelled. -/
theorem returnEntry_place {r : Request} {cancelled : Bool} {before after : List QueueEntry}
    (idle : ∀ e ∈ before ++ after, e.onWire = false) :
    returnEntry (before ++ { request := r, onWire := true, cancel := cancelled } :: after)
      = before ++ (if cancelled then [] else [.fresh r]) ++ after := by
  have one : returnEntry [{ request := r, onWire := true, cancel := cancelled }] = if cancelled then [] else [.fresh r] := by
    cases cancelled <;> rfl
  rw [returnEntry_append, ← List.singleton_append, returnEntry_append, one,
    returnEntry_idle fun e he => idle e (List.mem_append_left _ he), returnEntry_idle fun e he => idle e (List.mem_append_right _ he),
    List.append_assoc]

/-- A request that its channel still needs. -/
def Channel.needs (ch : Channel) (c : ChannelId) (r : Request) : Prop :=
  r = .claim c ∧ ch.needsClaim = true ∨ r = .release c ∧ ch.needsRelease = true

theorem Channel.needs.channel {ch : Channel} {c : ChannelId} {r : Request} (h : ch.needs c r) : r.channel? = some c := by
  rcases h with ⟨rfl, -⟩ | ⟨rfl, -⟩ <;> rfl

/-- A channel that leaves IN_FLIGHT and still needs its request is placed with it. -/
theorem leaveFlight_of_needs {c : ChannelId} {s : State} {r : Request} (flying : s.channels[c].state = .inFlight)
    (needs : s.channels[c].needs c r) :
    leaveFlight c s = placeRequest r c (s.mapChannel c fun ch => { ch with state := .waiting }) := by
  have same : (s.mapChannel c fun ch => if ch.state = .inFlight then { ch with state := .waiting } else ch)
      = s.mapChannel c fun ch => { ch with state := .waiting } := by
    unfold State.mapChannel
    dsimp only
    rw [if_pos flying]
  have here : (s.mapChannel c fun ch => { ch with state := .waiting }).channels[c] = { s.channels[c] with state := .waiting } := by
    rw [mapChannel_get, if_pos rfl]
  rw [leaveFlight, same]
  rcases needs with ⟨rfl, claims⟩ | ⟨rfl, releases⟩
  · exact settle_of_needsClaim (by rw [here]; exact nofun) (by rw [here]; exact nofun) (by rw [here]; exact claims)
  · exact settle_of_needsRelease (by rw [here]; exact nofun) (by rw [here]; exact nofun) (by rw [here]; exact releases)

theorem placeRequest_channels (r : Request) (c : ChannelId) (s : State) :
    (placeRequest r c s).channels = s.channels.set c
      { s.channels[c] with state := if holds s.sched.queue r || s.station.state.mayQueue r then .queued else .waiting } := by
  unfold placeRequest
  split <;> rfl

/-- The channel record of an attempt that is over. -/
theorem leaveFlight_channels {c : ChannelId} {s : State} {r : Request} (flying : s.channels[c].state = .inFlight)
    (needs : s.channels[c].needs c r) :
    (leaveFlight c s).channels = s.channels.set c
      { s.channels[c] with state := if holds s.sched.queue r || s.station.state.mayQueue r then .queued else .waiting } := by
  rw [leaveFlight_of_needs flying needs, placeRequest_channels, mapChannel_get, if_pos rfl]
  show (s.channels.set c _).set c _ = _
  rw [Vector.set_set]
  rfl

theorem leaveFlight_queue {c : ChannelId} {s : State} {r : Request} (flying : s.channels[c].state = .inFlight)
    (needs : s.channels[c].needs c r) :
    (leaveFlight c s).sched.queue
      = if holds s.sched.queue r || s.station.state.mayQueue r then offerTo s.sched.queue r
        else s.sched.queue.filter fun e => e.onWire || e.request.channel? != some c := by
  rw [leaveFlight_of_needs flying needs, placeRequest_queue]
  rfl

/-- An attempt that is still needed goes back to its place in the queue, and its channel is QUEUED again (R96, R97, R109). -/
theorem endAttempt_requeues {s : State} {c : ChannelId} {r : Request} {before after : List QueueEntry}
    (request : s.engine.request = some r) (flying : s.channels[c].state = .inFlight) (needs : s.channels[c].needs c r)
    (queue : s.sched.queue = before ++ { request := r, onWire := true, cancel := false } :: after)
    (idle : ∀ e ∈ before ++ after, e.onWire = false) :
    (endAttempt s).channels = s.channels.set c { s.channels[c] with state := .queued }
      ∧ (endAttempt s).sched.queue = before ++ { request := r, onWire := false, cancel := false } :: after := by
  have told : endAttempt s = leaveFlight c s.returned := by
    rw [endAttempt_eq, State.attemptChannel, request]
    show tellChannel r.channel? _ = _
    rw [needs.channel]
    rfl
  have returned : s.returned.sched.queue = before ++ { request := r, onWire := false, cancel := false } :: after := by
    show returnEntry s.sched.queue = _
    rw [queue, returnEntry_place idle]
    simp [QueueEntry.fresh]
  have queued : holds s.returned.sched.queue r = true := by
    rw [returned, holds_append]
    simp [holds]
  have placed : (holds s.returned.sched.queue r || s.returned.station.state.mayQueue r) = true := by rw [queued, Bool.true_or]
  rw [told, leaveFlight_channels (s := s.returned) flying needs, leaveFlight_queue (s := s.returned) flying needs, if_pos placed, if_pos placed, offerTo_merges queued]
  exact ⟨rfl, returned⟩

/-! ## Lost attempts -/

/-- With no message of its own on the wire and DATA released, a station pulls DATA by its objection alone. -/
theorem State.pullsData_of_released {s : State} (silent : s.engine.transmission ≠ .driving) (released : s.lines.dataDriving = false)
    (pulls : s.pullsData = true) : s.engine.objection = some .object := by
  unfold State.pullsData at pulls
  split at pulls
  · cases pulls
  · rw [if_neg silent, released, Bool.and_false, Bool.or_false, Bool.and_eq_true, beq_iff_eq] at pulls
    exact beq_iff_eq.mp pulls.2

/-- Settles O34. -/
theorem lostAttemptsStayQueued : Obligations.LostAttemptsStayQueued := by
  intro s driving
  refine ⟨⟨endAttempt s, ?_, ?_, ?_, ?_, ?_, ?_, ?_, ?_⟩, stopDriving s, ?_, rfl, ?_⟩
  · show Host.Outcome.next (if s.engine.transmission = .driving then reportLost s else s) = _
    rw [if_pos driving, reportLost]
  · rw [endAttempt_upd]
  · rw [endAttempt_upd]
  · exact endAttempt_sched s
  · have upd := endAttempt_upd s
    generalize endAttempt s = t at upd ⊢
    generalize t.channels = channels, t.sched.queue = queue at upd
    rw [upd]
  · intro pulls
    have objects := State.pullsData_of_released (by rw [endAttempt_upd]; exact nofun) (by rw [endAttempt_upd]) pulls
    rw [endAttempt_upd] at objects
    exact objects
  · intro general
    rw [← returnEntry_eq]
    exact endAttempt_of_no_channel (State.attemptChannel_of_general general)
  · intro c r before after request flying needs queue idle
    exact endAttempt_requeues request flying needs queue idle
  · show Host.Outcome.next (if s.engine.transmission = .driving then stopDriving s else s) = _
    rw [if_pos driving]
  · exact State.pullsData_of_released (s := stopDriving s) nofun rfl

end Sys2Proof.Machine
end

section
/-! The commit of a message (R9 to R16, R76): the state as END begins, what is handed over of a message that is received or sent as it
was composed, and what stays the same at every station that receives it. -/

namespace Sys2Proof.Machine

/-! ## The state as END begins -/

/-- The message has ended at a station that received it, or drove it as it was composed (R64, R76). -/
def State.ended (m : Message) (s : State) : State := endFrame (readMessage m m.check true (advanceToBit m.commitPoint s))

theorem readback_received {m : Message} {s : State} (silent : s.engine.transmission = .none) : readback m s = s := if_pos silent

theorem readback_sent {m : Message} {s : State} (drives : s.drives m = true) : readback m s = s := by
  simp only [State.drives, Bool.and_eq_true, decide_eq_true_eq] at drives
  obtain ⟨driving, composed⟩ := drives
  obtain ⟨k, some, rfl⟩ := Option.map_eq_some_iff.mp composed
  rw [readback, if_neg (by rw [driving]; decide), some]
  simp [Message.sameArbitration]

/-- A station that drives no message leaves the state of its DATA driver as it is. -/
theorem advanceToBit_dataDriving {s : State} (silent : s.engine.transmission = .none) (p : Nat) :
    (advanceToBit p s).lines.dataDriving = s.lines.dataDriving := by
  unfold advanceToBit advanceInFrame
  split
  · obtain ⟨-, -, driving⟩ := passClocks_data (s.bits p - ‹FrameRecord›.elapsed) s
    unfold advanceInMessage
    rw [passSlots_lines]
    show ((passClocks _ s).lines.dataDriving || (decide (s.engine.transmission = .driving) && _)) = _
    rw [driving, silent]
    exact Bool.or_false _
  · rfl

section
variable (m : Message) (s : State)

/-- The items that the end of a message leaves, and those that it sets. -/
theorem State.ended_keeps :
    ∃ u, s.TimePasses u ∧ TimeKeeps s u
      ∧ s.ended m
        = { u with
            lines := { u.lines with dataDriving := false }
            engine := { u.engine with
              framing := .gap, recessiveTime := 0, ending := some { elapsed := 0, dominant := false }, frame := none
              objection := none, verdict := none, accumulator := m.check } } :=
  ⟨advanceToBit m.commitPoint s, advanceToBit_timePasses _ s, advanceToBit_keeps _ s, rfl⟩

end

/-! ## What is handed over -/

theorem State.ownVerdict_congr {s u : State} (keeps : TimeKeeps s u) (sender : BitVec 5) (e : WireEntry) :
    u.ownVerdict sender e = s.ownVerdict sender e := by
  obtain ⟨-, cfg, table, sched, -, station, -, -, -, -, -, -, -, -, -, transmission, -⟩ := keeps
  have admission : u.admissionOf sender e = s.admissionOf sender e := by unfold State.admissionOf; rw [cfg, table]
  unfold State.ownVerdict State.drives
  rw [cfg, sched, station, transmission, admission]

theorem State.drives_congr {s u : State} (keeps : TimeKeeps s u) (m : Message) : u.drives m = s.drives m := by
  obtain ⟨-, -, -, sched, -, -, -, -, -, -, -, -, -, -, -, transmission, -⟩ := keeps
  unfold State.drives
  rw [sched, transmission]

theorem State.verdictAtCommit_congr {s u : State} (keeps : TimeKeeps s u) (m : Message) :
    u.verdictAtCommit m = s.verdictAtCommit m := by
  have own := State.ownVerdict_congr keeps
  obtain ⟨-, -, -, -, -, -, -, -, -, -, -, -, -, -, verdict, -⟩ := keeps
  unfold State.verdictAtCommit
  cases m with
  | claim sender e => exact (congrArg (Option.or · _) verdict).trans (congrArg _ (own sender e))
  | announce | release | rollcall => rfl

theorem State.wireRefused_congr {s u : State} (keeps : TimeKeeps s u) (m : Message) (others : Bool)
    (driving : s.drives m = true ∨ u.lines.dataDriving = s.lines.dataDriving) : u.wireRefused m others = s.wireRefused m others := by
  have own := State.ownVerdict_congr keeps
  have drives := State.drives_congr keeps m
  obtain ⟨-, -, -, -, -, station, -, -, -, -, -, -, -, -, verdict, -⟩ := keeps
  unfold State.wireRefused
  cases m with
  | claim sender e =>
    dsimp only
    rw [drives, verdict, station, own]
    rcases driving with sends | same
    · rw [if_pos sends, if_pos sends]
    · rw [same]
  | announce | release | rollcall => rfl

/-- The commit of an acceptable message that the readback leaves alone: it is handed over as END begins (R76). -/
theorem commit_eq {m : Message} {others : Bool} {s : State} (framed : s.engine.framing = .frame) (acceptable : m.unacceptable = false)
    (alone : s.engine.transmission = .none ∨ s.drives m = true) :
    commit m others s
      = (handOver m (s.drives m) (s.verdictAtCommit m) (s.wireRefused m others) (s.ended m)).run (s.ended m) := by
  have keeps := advanceToBit_keeps m.commitPoint s
  have same : readback m (advanceToBit m.commitPoint s) = advanceToBit m.commitPoint s := by
    rcases alone with silent | drives
    · obtain ⟨-, -, -, -, -, -, -, -, -, -, -, -, -, -, -, transmission, -⟩ := keeps
      exact readback_received (transmission.trans silent)
    · exact readback_sent ((State.drives_congr keeps m).trans drives)
  have wire : (advanceToBit m.commitPoint s).wireRefused m others = s.wireRefused m others :=
    State.wireRefused_congr keeps m others (alone.symm.imp id fun silent => advanceToBit_dataDriving silent _)
  rw [commit, if_pos framed, decided, if_neg (by rw [acceptable]; decide), same]
  dsimp only
  rw [State.drives_congr keeps, State.verdictAtCommit_congr keeps, wire]
  rfl

/-- The command of a commit, where no pulse of SYNC waits. -/
theorem exec_committing {s : State} (quiet : s.fallWaits = false) (m : Message) (refused : Bool) :
    exec (m.committing refused) s = .next (commit m refused s) := by
  have own : ownFall s = s := ownFall_none quiet
  cases m with
  | claim sender e =>
    show Host.Outcome.next (commit _ refused (ownFall s)) = _
    rw [own]
  | announce | release | rollcall =>
    show Host.Outcome.next (commit _ false (ownFall s)) = _
    rw [own]
    rfl

/-! ## Halting (R9, R43, R44) -/

theorem addressOf_eq_iff (sender : BitVec 5) (a : Address) : addressOf sender = a ↔ sender = BitVec.ofNat 5 a.val := by
  revert sender a
  decide

theorem State.haltCause_congr {s u : State} (cfg : u.cfg = s.cfg) (m : Message) (own : Bool) : u.haltCause m own = s.haltCause m own := by
  unfold State.haltCause
  rw [cfg]

theorem State.ended_cfg (m : Message) (s : State) : (s.ended m).cfg = s.cfg := (advanceToBit_keeps m.commitPoint s).cfg

/-- A message that bears another address halts the station only as an ANNOUNCE with another digest. -/
theorem State.haltCause_foreign {m : Message} {s : State} (foreign : m.sender ≠ BitVec.ofNat 5 s.cfg.address.val)
    (digest : ∀ sender digest cycleAge entries, m = .announce sender digest cycleAge entries → digest = s.cfg.digest) (own : Bool) :
    s.haltCause m own = none := by
  unfold State.haltCause
  rw [if_neg fun h => foreign ((addressOf_eq_iff ..).mp h.1)]
  cases m with
  | announce sender d age entries => exact if_pos (digest _ _ _ _ rfl)
  | release | claim | rollcall => rfl

theorem State.drives_of_silent {s : State} (silent : s.engine.transmission = .none) (m : Message) : s.drives m = false := by
  rw [State.drives, silent]
  rfl

/-- The commit of a message that the station receives and does not halt at. -/
theorem commit_received {m : Message} {others : Bool} {s : State} (framed : s.engine.framing = .frame)
    (silent : s.engine.transmission = .none) (acceptable : m.unacceptable = false) (applies : s.haltCause m false = none) :
    commit m others s
      = stationReport m false (s.verdictAtCommit m) (s.wireRefused m others) (applyMessage m (s.wireRefused m others) (s.ended m)) := by
  rw [commit_eq framed acceptable (.inl silent), State.drives_of_silent silent,
    handOver_of_receiver _ _ ((State.haltCause_congr (s.ended_cfg m) m false).trans applies)]

/-- The commit of the station's own message, as it was composed. -/
theorem commit_sent {m : Message} {others : Bool} {k : Composed} {s : State} (framed : s.engine.framing = .frame)
    (drives : s.drives m = true) (composed : s.sched.composed = some k) (acceptable : m.unacceptable = false)
    (applies : s.haltCause m true = none) :
    commit m others s
      = stationReport m true (s.verdictAtCommit m) (s.wireRefused m others)
          (reportCommit k (s.wireRefused m others) (applyMessage m (s.wireRefused m others) (s.ended m))) := by
  have kept : (s.ended m).sched.composed = some k := (congrArg Scheduler.composed (advanceToBit_keeps m.commitPoint s).sched).trans composed
  rw [commit_eq framed acceptable (.inr drives), drives,
    handOver_of_own _ _ ((State.haltCause_congr (s.ended_cfg m) m true).trans applies) kept]

end Sys2Proof.Machine
end

section
/-! An address clash and a configuration mismatch (R9, R43, R44, R148): the station halts, whatever becomes of an attempt of its own. -/

namespace Sys2Proof.Machine

/-! ## What an attempt's end leaves for the entry to HALT -/

/-- Two records of a channel that lose their span alike (R118). -/
theorem Channel.unspan_congr {a b : Channel} (unused : b.state = .unused ↔ a.state = .unused)
    (same : b = { a with state := b.state, held := b.held }) (still : a.state = .unused → b = a) : b.unspan = a.unspan := by
  by_cases u : a.state = .unused
  · rw [still u]
  · unfold Channel.unspan
    rw [if_neg u, if_neg fun h => u (unused.mp h), same]

theorem settle_of_unused {c : ChannelId} {s : State} (unused : s.channels[c].state = .unused) : settle c s = s := by
  rw [settle_eq, if_pos (.inl unused)]

theorem settle_unspan (c d : ChannelId) (s : State) : (settle c s).channels[d].unspan = s.channels[d].unspan := by
  have still : s.channels[d].state = .unused → (settle c s).channels[d] = s.channels[d] := by
    intro unused
    by_cases same : d = c
    · rw [settle_of_unused (same ▸ unused)]
    · exact settle_get_ne same s
  refine Channel.unspan_congr ⟨fun unused => ?_, fun unused => by rw [still unused]; exact unused⟩ (settle_get_fields c d s) still
  by_contra used
  exact settle_used used unused

theorem leaveFlight_unspan (c d : ChannelId) (s : State) : (leaveFlight c s).channels[d].unspan = s.channels[d].unspan := by
  rw [leaveFlight, settle_unspan, mapChannel_get]
  split
  · next same =>
    subst same
    split
    · next flying =>
      have used : s.channels[d].state ≠ .unused := by rw [flying]; exact nofun
      exact (if_neg (by exact nofun)).trans (if_neg used).symm
    · rfl
  · rfl

theorem endAttempt_unspan (d : ChannelId) (s : State) : (endAttempt s).channels[d].unspan = s.channels[d].unspan := by
  rw [endAttempt_eq]
  cases s.attemptChannel with
  | none => rfl
  | some c => exact leaveFlight_unspan c d s.returned

theorem readback_unspan (m : Message) (d : ChannelId) (s : State) : (readback m s).channels[d].unspan = s.channels[d].unspan := by
  unfold readback
  split
  · rfl
  · split
    · rfl
    · split
      · exact endAttempt_unspan d s
      · split <;> rfl

/-- The readback stops or ends an own attempt, and touches nothing but the attempt, its entry and its channel. -/
theorem readback_frame (m : Message) (s : State) :
    (readback m s).station = s.station ∧ (readback m s).timer = s.timer ∧ (readback m s).port = s.port ∧ (readback m s).cfg = s.cfg
      ∧ (readback m s).inputs = s.inputs ∧ (readback m s).pending = s.pending ∧ (readback m s).table = s.table
      ∧ (readback m s).drive = s.drive := by
  unfold readback
  split
  · exact ⟨rfl, rfl, rfl, rfl, rfl, rfl, rfl, rfl⟩
  · split
    · exact ⟨rfl, rfl, rfl, rfl, rfl, rfl, rfl, rfl⟩
    · split
      · simp [reportLost]
      · split <;> exact ⟨rfl, rfl, rfl, rfl, rfl, rfl, rfl, rfl⟩

/-- A message that the station does not drive ends with the station driving no such message. -/
theorem readback_drives {m : Message} {s : State} (foreign : s.drives m = false) : (readback m s).drives m = false := by
  unfold readback
  split
  · exact foreign
  · split
    · exact foreign
    · split
      · rw [reportLost, State.drives, endAttempt_upd]
        rfl
      · split
        · exact foreign
        · rfl

/-! ## Entry to HALT -/

/-- A message that halts the station: it is in HALT, as the message ends. -/
theorem commit_halts {m : Message} {others : Bool} {s : State} {cause : Cause} (framed : s.engine.framing = .frame)
    (acceptable : m.unacceptable = false)
    (halts : s.haltCause m ((readback m (advanceToBit m.commitPoint s)).drives m) = some cause) :
    commit m others s = enterHalt cause (endFrame (readMessage m m.check true (readback m (advanceToBit m.commitPoint s)))) := by
  obtain ⟨-, -, -, cfg, -⟩ := readback_frame m (advanceToBit m.commitPoint s)
  have same : (endFrame (readMessage m m.check true (readback m (advanceToBit m.commitPoint s)))).cfg = s.cfg :=
    cfg.trans (advanceToBit_keeps m.commitPoint s).cfg
  rw [commit, if_pos framed, decided, if_neg (by rw [acceptable]; decide)]
  dsimp only
  rw [handOver_of_halt _ _ ((State.haltCause_congr same m _).trans halts)]

/-- Settles O44. -/
theorem clashesAndMismatchesHalt : Obligations.ClashesAndMismatchesHalt := by
  intro m refused s framed acceptable quiet own halted
  have halts (cause : Cause) (h : s.haltCause m ((readback m (advanceToBit m.commitPoint s)).drives m) = some cause) : halted cause := by
    have run := (exec_committing quiet m refused).trans (congrArg Host.Outcome.next (commit_halts (others := refused) framed acceptable h))
    have keeps := advanceToBit_keeps m.commitPoint s
    have unspan (c : ChannelId) := readback_unspan m c (advanceToBit m.commitPoint s)
    obtain ⟨station, timer, port, cfg, inputs, pending, -⟩ := readback_frame m (advanceToBit m.commitPoint s)
    obtain ⟨inputs', cfg', -, -, channels, station', port', pending', -, -, counter, -⟩ := keeps
    generalize readback m (advanceToBit m.commitPoint s) = r at *
    generalize advanceToBit m.commitPoint s = w at *
    refine ⟨_, run, ?_, rfl, ?_, rfl, rfl, rfl, rfl, rfl, rfl, rfl, rfl, rfl, fun c => ?_, ?_, cfg.trans cfg', inputs.trans inputs',
      pending.trans pending'⟩
    · rw [← station', ← station]; rfl
    · have : (enterHalt cause (endFrame (readMessage m m.check true r))).timer
          = { r.timer with running := false, localTime := 0, slotIndex := 0, syncAcquired := false } := rfl
      rw [this, timer]
      exact congrArg (CycleTimer.mk false 0 0 · false) counter
    · show (r.channels.map Channel.unspan)[c] = _
      rw [← channels, ← map_unspan_get]
      simp only [Fin.getElem_fin, Vector.getElem_map] at unspan ⊢
      exact unspan c
    · rw [← port', ← port, ← counter, ← timer]; rfl
  refine ⟨fun bears foreign => halts _ ?_, fun sender digest cycleAge entries announce other differs => halts _ ?_⟩
  · have foreign : s.drives m = false := by
      rw [State.drives, Bool.and_eq_false_iff, decide_eq_false_iff_not, decide_eq_false_iff_not]
      exact not_and_or.mp foreign
    have notOwn := readback_drives ((State.drives_congr (advanceToBit_keeps m.commitPoint s) m).trans foreign)
    unfold State.haltCause
    rw [notOwn, if_pos ⟨(addressOf_eq_iff ..).mpr bears, rfl⟩]
  · subst announce
    unfold State.haltCause
    rw [if_neg fun h => other ((addressOf_eq_iff ..).mp h.1)]
    exact if_neg differs

end Sys2Proof.Machine
end

section
/-! Equal replicas (R18 to R21, R76): the table that a message leaves depends on the table, the budget and the wire's verdict alone. -/

namespace Sys2Proof.Machine

theorem freeingNotice_table (s : State) : (freeingNotice s).table = s.table := by rw [freeingNotice_upd]

/-- The plan that a change leaves is what eviction makes of it: the events and the notice do not touch it. -/
theorem evictAndFree_table (lost : Bool) (tell : State → State) (tells : ∀ s, (tell s).table = s.table) (s : State) :
    (evictAndFree lost tell s).table = (evict s).table := by
  unfold evictAndFree
  dsimp only
  split
  · rw [freeingNotice_table, tells]
  · exact tells _

/-- The Plan Table's event for a message depends on the table, the budget and the wire's verdict alone. -/
theorem applyMessage_table_congr (m : Message) (refused : Bool) {s u : State} (table : s.table = u.table) (budget : s.cfg.budget = u.cfg.budget) :
    (applyMessage m refused s).table = (applyMessage m refused u).table := by
  cases m with
  | announce sender digest cycleAge entries =>
    show (applyAnnounce ..).table = (applyAnnounce ..).table
    unfold applyAnnounce
    dsimp only
    rw [evictAndFree_table _ _ (fun _ => by split <;> rfl), evictAndFree_table _ _ (fun _ => by split <;> rfl)]
    exact evict_table_congr (by rw [table]) budget
  | release sender channel =>
    unfold applyMessage
    dsimp only
    split
    · unfold applyRelease
      rw [evictAndFree_table _ id fun _ => rfl, evictAndFree_table _ id fun _ => rfl]
      exact evict_table_congr (by rw [table]) budget
    · exact table
  | claim sender e =>
    unfold applyMessage
    dsimp only
    split
    · split
      · exact table
      · unfold applyClaim
        dsimp only
        rw [table]
        split
        · rw [evictAndFree_table _ id fun _ => rfl, evictAndFree_table _ id fun _ => rfl]
          exact evict_table_congr rfl budget
        · exact table
    · exact table
  | rollcall sender =>
    have still (s : State) : (applyRollcall s).table = s.table := by
      unfold applyRollcall
      split <;> rfl
    exact (still s).trans (table.trans (still u).symm)

/-! ## The reports to the Station Controller -/

/-- The station's report of a received message leaves the table, where no difference of verdicts takes the station to RESYNC. -/
theorem stationReport_table {m : Message} {verdict : Option Verdict} {refused : Bool} {s : State}
    (agrees : s.station.state = .joined ∨ s.station.state = .leaving → verdict ≠ some (if refused then .admits else .refuses)
      ∨ ∀ sender e, m ≠ .claim sender e) :
    (stationReport m false verdict refused s).table = s.table := by
  cases m with
  | announce => exact markTraffic_table s
  | release => rfl
  | rollcall sender =>
    show (markRollcall _ s).table = _
    unfold markRollcall
    split <;> rfl
  | claim sender e =>
    show (if verdict = some (if refused then .admits else .refuses) then reportDifference s else s).table = s.table
    generalize (if refused = true then Verdict.admits else Verdict.refuses) = other at agrees ⊢
    split
    · next differs =>
      have elsewhere : ¬(s.station.state = .joined ∨ s.station.state = .leaving) := fun judging =>
        (agrees judging).elim (· differs) fun other => other sender e rfl
      unfold reportDifference
      cases state : s.station.state with
      | joined => exact absurd (.inl state) elsewhere
      | leaving => exact absurd (.inr state) elsewhere
      | unconfigured | listen | resync | quiet | fault | halt => rfl
    · rfl

theorem applyMessage_station (m : Message) (refused : Bool) (s : State) : (applyMessage m refused s).station = s.station := by
  obtain ⟨-, -, -, -, -, station, -⟩ := applyMessage_frame m refused s
  exact station

/-- A station that judges the CLAIM as the wire does reads the wire's verdict as the command gives it (R75). -/
theorem State.wireRefused_eq {m : Message} {others : Bool} {s : State}
    (silent : s.engine.transmission = .none) (pulls : s.lines.dataDriving = true → others = true)
    (judged : s.station.state = .joined ∨ s.station.state = .leaving → s.engine.verdict ≠ none) {sender : BitVec 5} {e : WireEntry}
    (claim : m = .claim sender e) : s.wireRefused m others = others := by
  subst claim
  have formed : (s.engine.verdict.isNone && s.station.state.pullsRefuse && s.ownVerdict sender e == some .refuses) = false := by
    by_cases pulling : s.station.state = .joined ∨ s.station.state = .leaving
    · rw [Option.isNone_eq_false_iff.mpr (Option.isSome_iff_ne_none.mpr (judged pulling))]
      rfl
    · have rests : s.station.state.pullsRefuse = false := by
        cases state : s.station.state with
        | joined => exact absurd (.inl state) pulling
        | leaving => exact absurd (.inr state) pulling
        | unconfigured | listen | resync | quiet | fault | halt => rfl
      rw [rests, Bool.and_false, Bool.false_and]
  show (if s.drives _ then others else others || s.lines.dataDriving || _) = others
  rw [State.drives_of_silent silent, formed]
  cases others
  · simpa using pulls
  · rfl

/-- The table that a received message leaves, at a station whose verdict is the wire's. -/
theorem commit_table {m : Message} {refused : Bool} {s : State} (framed : s.engine.framing = .frame)
    (silent : s.engine.transmission = .none) (acceptable : m.unacceptable = false)
    (applies : s.haltCause m false = none)
    (judged : ∀ sender e, m = .claim sender e → (s.lines.dataDriving = true → refused = true)
      ∧ (s.station.state = .joined ∨ s.station.state = .leaving → s.engine.verdict = some (if refused then .refuses else .admits))) :
    (commit m refused s).table = (applyMessage m refused s).table := by
  have keeps := advanceToBit_keeps m.commitPoint s
  have wire : applyMessage m (s.wireRefused m refused) = applyMessage m refused := by
    cases m with
    | claim sender e =>
      obtain ⟨pulls, verdict⟩ := judged sender e rfl
      rw [State.wireRefused_eq silent pulls (fun judging => by rw [verdict judging]; exact nofun) rfl]
    | announce | release | rollcall => rfl
  rw [commit_received framed silent acceptable applies, stationReport_table, wire]
  · exact applyMessage_table_congr m refused keeps.table (congrArg Configuration.budget keeps.cfg)
  · rw [applyMessage_station]
    intro judging
    replace judging : s.station.state = .joined ∨ s.station.state = .leaving := by
      rw [← keeps.station]
      exact judging
    cases m with
    | claim sender e =>
      obtain ⟨pulls, verdict⟩ := judged sender e rfl
      have formed := verdict judging
      left
      rw [State.wireRefused_eq silent pulls (fun _ => by rw [formed]; exact nofun) rfl]
      show s.engine.verdict.or _ ≠ _
      rw [formed]
      cases refused <;> exact nofun
    | announce | release | rollcall => exact .inr nofun

/-- Settles O47. -/
theorem equalReplicasStayEqual : Obligations.EqualReplicasStayEqual := by
  intro m refused s u acceptable receives atS atU table budget
  have leaves {s : State} (h : receives s) :
      exec (m.committing refused) s = .next (commit m refused s) ∧ (commit m refused s).table = (applyMessage m refused s).table := by
    obtain ⟨framed, silent, -, foreign, digest, quiet, judged⟩ := h
    exact ⟨exec_committing quiet m refused,
      commit_table framed silent acceptable (State.haltCause_foreign foreign digest false) judged⟩
  obtain ⟨runS, tableS⟩ := leaves atS
  obtain ⟨runU, tableU⟩ := leaves atU
  exact ⟨_, _, runS, runU, tableS.trans ((applyMessage_table_congr m refused table budget).trans tableU.symm)⟩

end Sys2Proof.Machine
end

section
/-! Committed CLAIMs, RELEASEs and ROLLCALLs of other stations (R12 to R16, R18, R114): what they replace in the plan, and what the
freeing notice behind a lost holding makes of channels and queue. -/

namespace Sys2Proof.Machine

/-! ## The state that a received message leaves -/

theorem channelOf?_ofNat (c : ChannelId) : channelOf? (BitVec.ofNat 4 c.val) = some c := by
  revert c
  decide

theorem release_acceptable (sender : BitVec 5) (c : ChannelId) : (Message.release sender (BitVec.ofNat 4 c.val)).unacceptable = false := by
  show decide (11 < (BitVec.ofNat 4 c.val).toNat) = false
  revert c
  decide

/-- A state that differs from that in which END begins by the table, the channels, the scheduler and the station alone. -/
theorem State.ended_leaves (m : Message) {s t : State}
    (h : t = { s.ended m with table := t.table, channels := t.channels, sched := t.sched, station := t.station }) :
    ∃ u, s.TimePasses u
      ∧ t = { u with
          lines := { u.lines with dataDriving := false }, engine := t.engine, table := t.table, channels := t.channels
          sched := t.sched, station := t.station }
      ∧ t.engine.framing = .gap ∧ t.engine.recessiveTime = 0 ∧ t.engine.frame = none
      ∧ t.engine.ending = some { elapsed := 0, dominant := false }
      ∧ t.engine.transmission = s.engine.transmission ∧ t.engine.request = s.engine.request ∧ t.engine.verdict = none := by
  obtain ⟨u, passes, keeps, ended⟩ := s.ended_keeps m
  obtain ⟨-, -, -, -, -, -, -, -, -, -, -, -, -, -, -, transmission, request, -⟩ := keeps
  rw [ended] at h
  refine ⟨u, passes, ?_, ?_, ?_, ?_, ?_, ?_, ?_, ?_⟩
  all_goals rw [h]
  · exact transmission
  · exact request

/-- The items that END begins with as the message found them. -/
theorem State.ended_items (m : Message) (s : State) :
    (s.ended m).table = s.table ∧ (s.ended m).channels = s.channels ∧ (s.ended m).sched = s.sched ∧ (s.ended m).station = s.station
      ∧ (s.ended m).cfg = s.cfg ∧ (s.ended m).port = s.port ∧ (s.ended m).timer.cycleCounter = s.timer.cycleCounter := by
  obtain ⟨-, cfg, table, sched, channels, station, port, -, -, -, counter, -⟩ := advanceToBit_keeps m.commitPoint s
  exact ⟨table, channels, sched, station, cfg, port, counter⟩

/-! ## The notice -/

/-- What the freeing notice brings to a station (R114). -/
def State.Notified (s t : State) : Prop :=
  (∀ d : ChannelId, t.channels[d]
      = if s.channels[d].state = .starved then
          { s.channels[d] with state := if s.station.state = .joined then .queued else .waiting }
        else s.channels[d])
    ∧ t.sched
        = { s.sched with
            queue := if s.station.state = .joined then
                ((List.finRange 12).filter fun d => s.channels[d].state == .starved).foldl
                  (fun q d => offerTo q (.claim d)) s.sched.queue
              else s.sched.queue }

theorem freeingNotice_notifies {s u : State} (channels : u.channels = s.channels) (sched : u.sched = s.sched)
    (station : u.station = s.station) : s.Notified (freeingNotice u) := by
  obtain ⟨records, queue⟩ := freeingNotice_freed u
  have same : (freeingNotice u).sched = { u.sched with queue := (freeingNotice u).sched.queue } := by
    have upd := freeingNotice_upd u
    generalize freeingNotice u = t at upd ⊢
    generalize t.channels = c, t.sched.queue = q at upd
    rw [upd]
  unfold State.starvedChannels at queue
  rw [channels, station, sched] at queue
  rw [channels, station] at records
  rw [queue, sched] at same
  exact ⟨records, same⟩

/-- Where no slot is over budget a change of the plan is behind it the change itself, and the notice where coverage was lost. -/
theorem evictAndFree_of_within {s : State} (lost : Bool) (within : s.table.WithinBudget s.cfg.budget) :
    evictAndFree lost id s = if lost = true then freeingNotice s else s := evictAndFree_within lost id within rfl

theorem PlanTable.WithinBudget.removeKey {t : PlanTable} {budget : Nat} (within : t.WithinBudget budget) (o : Address) (c : ChannelId) :
    (t.removeKey o c).WithinBudget budget := by
  unfold PlanTable.removeKey
  split
  · exact within.remove _
  · exact within

/-- The plan changes, and the notice follows or does not: nothing but the table, the channels and the queue changes. -/
theorem evictAndFree_upd {s : State} (lost : Bool) (within : s.table.WithinBudget s.cfg.budget) :
    evictAndFree lost id s
        = { s with channels := (evictAndFree lost id s).channels, sched := (evictAndFree lost id s).sched } := by
  rw [evictAndFree_of_within lost within]
  split
  · have upd := freeingNotice_upd s
    generalize freeingNotice s = t at upd ⊢
    generalize t.channels = c, t.sched.queue = q at upd
    rw [upd]
  · rfl

/-! ## RELEASE and ROLLCALL -/

theorem applyRelease_commits {s : State} (sender : Address) (c : ChannelId)
    (within : s.table.WithinBudget s.cfg.budget) :
    applyRelease sender c s
        = { s with
            table := s.table.removeKey sender c, channels := (applyRelease sender c s).channels, sched := (applyRelease sender c s).sched }
      ∧ (s.table.find sender c = none → applyRelease sender c s = { s with table := s.table.removeKey sender c })
      ∧ (∀ h, s.table.find sender c = some h →
          applyRelease sender c s = freeingNotice { s with table := s.table.removeKey sender c }) := by
  have after : (s.table.removeKey sender c).WithinBudget s.cfg.budget := within.removeKey sender c
  refine ⟨evictAndFree_upd (s := { s with table := s.table.removeKey sender c }) _ after, fun none => ?_, fun h some => ?_⟩
  · rw [applyRelease, evictAndFree_of_within _ after, none]
    rfl
  · rw [applyRelease, evictAndFree_of_within _ after, some]
    rfl

/-- The queue behind a ROLLCALL (R16, R40). -/
def State.answered (s : State) : List QueueEntry :=
  if (s.station.state = .joined ∨ s.station.state = .resync ∨ s.station.state = .leaving) ∧ holds s.sched.queue .announce = false then
    s.sched.queue ++ [.fresh .announce]
  else s.sched.queue

theorem offerTo_announce (q : List QueueEntry) :
    offerTo q .announce = if holds q .announce = false then q ++ [.fresh .announce] else q := by
  unfold offerTo
  cases holds q .announce <;> rfl

theorem applyRollcall_eq (s : State) : applyRollcall s = { s with sched := { s.sched with queue := s.answered } } := by
  have offers : offer .announce s = { s with sched := { s.sched with queue := offerTo s.sched.queue .announce } } := rfl
  unfold applyRollcall State.answered
  cases state : s.station.state with
  | joined | resync | leaving =>
    dsimp only
    rw [offers, offerTo_announce]
    simp
  | unconfigured | listen | quiet | fault | halt => simp

theorem State.answered_congr {s u : State} (station : u.station = s.station) (sched : u.sched = s.sched) : u.answered = s.answered := by
  unfold State.answered
  rw [station, sched]

theorem markRollcall_foreign {sender : Address} {s : State} (foreign : sender ≠ s.cfg.address) : markRollcall sender s = s := by
  rw [markRollcall, decide_eq_false foreign, Bool.and_false]
  rfl

theorem markRollcall_own (s : State) :
    markRollcall s.cfg.address s
      = { s with station := { s.station with rollcall := if s.windowOpen then .thisCycle else s.station.rollcall } } := by
  rw [markRollcall, decide_eq_true rfl, Bool.and_true]
  split <;> rfl

/-- Settles O40. -/
theorem committedReleasesAndRollcalls : Obligations.CommittedReleasesAndRollcalls := by
  intro sender s framed quiet own foreign runs answered
  refine ⟨fun c ⟨silent, other⟩ lawful within => ?_, fun ⟨silent, other⟩ => ?_, fun k driving composed message request wire => ?_⟩
  · obtain ⟨m, hm⟩ : ∃ m : Message, m = .release sender (BitVec.ofNat 4 c.val) := ⟨_, rfl⟩
    have applies : s.haltCause m false = none := State.haltCause_foreign (by rw [hm]; exact other) (by rw [hm]; exact nofun) false
    have acceptable : m.unacceptable = false := hm ▸ release_acceptable sender c
    obtain ⟨table, channels, sched, station, cfg, -⟩ := s.ended_items m
    have after : commit m false s = applyRelease (addressOf sender) c (s.ended m) := by
      rw [commit_received framed silent acceptable applies, hm]
      show applyMessage (.release sender (BitVec.ofNat 4 c.val)) false _ = _
      rw [applyMessage, channelOf?_ofNat]
    obtain ⟨upd, none, some⟩ := applyRelease_commits (s := s.ended m) (addressOf sender) c (by rw [table, cfg]; exact within)
    rw [← after] at upd none some
    obtain ⟨removed, plan, peers⟩ := lawful.removeKey (addressOf sender) c
    obtain ⟨u, passes, same, framing, recessive, frame, ending, transmission, req, -⟩ :=
      State.ended_leaves m (s := s) (t := commit m false s) (by
        generalize commit m false s = t at upd ⊢
        generalize t.channels = channels, t.sched = sched at upd
        rw [upd])
    have table' : (commit m false s).table = s.table.removeKey (addressOf sender) c := by rw [upd, table]
    have run : exec (.releaseCommit sender (BitVec.ofNat 4 c.val)) s = .next (commit m false s) := by
      rw [← exec_committing quiet m false, hm]
      rfl
    refine ⟨commit m false s, run, ⟨u, passes, same, framing, recessive, frame, ending, transmission.trans silent, req, ?_⟩, ?_, ?_,
      fun absent => ?_, fun ⟨h, here, key⟩ => ?_⟩
    · rw [table', peers]
    · rw [upd, station]
    · rw [table', plan]
    · have := none (by rw [table]; exact PlanTable.find_none_iff.mpr absent)
      rw [this, channels, sched]
      exact ⟨rfl, rfl⟩
    · rw [some h (by rw [table]; exact lawful.find_iff.mpr ⟨here, key⟩)]
      exact freeingNotice_notifies (s := s) channels sched station
  · obtain ⟨table, channels, sched, station, cfg, -⟩ := s.ended_items (.rollcall sender)
    have after : commit (.rollcall sender) false s
        = { s.ended (.rollcall sender) with sched := { s.sched with queue := s.answered } } := by
      rw [commit_received framed silent rfl (State.haltCause_foreign (m := .rollcall sender) other nofun false)]
      show markRollcall (addressOf sender) (applyRollcall (s.ended (.rollcall sender))) = _
      rw [markRollcall_foreign, applyRollcall_eq, State.answered_congr station sched, sched]
      rw [applyRollcall_eq]
      exact fun own => other ((addressOf_eq_iff ..).mp (own.trans (congrArg Configuration.address cfg)))
    obtain ⟨u, passes, same, framing, recessive, frame, ending, transmission, req, -⟩ :=
      State.ended_leaves (.rollcall sender) (s := s) (t := commit (.rollcall sender) false s) (by rw [after])
    refine ⟨_, exec_committing quiet (.rollcall sender) false,
      ⟨u, passes, same, framing, recessive, frame, ending, transmission.trans silent, req, ?_⟩, ?_, ?_, ?_, ?_⟩
    all_goals rw [after]
    · rw [table]
    · exact station
    · exact table
    · exact channels
    · rfl
  · obtain ⟨table, channels, sched, station, cfg, -⟩ := s.ended_items (.rollcall own)
    have drives : s.drives (.rollcall own) = true := by
      rw [State.drives, decide_eq_true driving, composed, Option.map_some, message]
      exact decide_eq_true rfl
    have ours : addressOf own = s.cfg.address := addressOf_ofNat _
    have after : commit (.rollcall own) false s
        = { s.ended (.rollcall own) with
            lines := { (s.ended (.rollcall own)).lines with dataDriving := false }
            engine := { (s.ended (.rollcall own)).engine with transmission := .none, request := none }
            sched := { queue := s.answered.filter fun e => !e.onWire, composed := none, voids := 0 }
            station := { s.station with rollcall := if s.windowOpen then .thisCycle else s.station.rollcall } } := by
      have applies : s.haltCause (.rollcall own) true = none := by
        unfold State.haltCause
        exact if_neg fun h => nomatch h.2
      rw [commit_sent framed drives composed rfl applies]
      obtain ⟨_, _, target, composer⟩ := k
      subst request message
      show markRollcall (addressOf own)
        (ownCommitted resolveEntry (endTransmission (applyRollcall (s.ended (.rollcall own))))) = _
      have address : addressOf own = (s.ended (.rollcall own)).cfg.address := ours.trans (congrArg Configuration.address cfg).symm
      have window : (s.ended (.rollcall own)).windowOpen = s.windowOpen := by unfold State.windowOpen; rw [station]
      have answer := State.answered_congr station sched
      rw [applyRollcall_eq, address]
      refine (markRollcall_own _).trans ?_
      generalize s.ended (.rollcall own) = w at *
      rw [← answer, ← station, ← window]
      rfl
    obtain ⟨u, passes, same, framing, recessive, frame, ending, -⟩ := State.ended_leaves (.rollcall own) (t := s.ended (.rollcall own)) rfl
    refine ⟨_, exec_committing quiet (.rollcall own) false, ⟨u, passes, ?_, ?_, ?_, ?_, ?_, ?_, ?_, ?_⟩, ?_, ?_, ?_, ?_, ?_⟩
    all_goals rw [after]
    · conv_lhs => rw [same]
    · exact framing
    · exact recessive
    · exact frame
    · exact ending
    · rw [table]
    · exact table
    · exact channels
    · rfl

end Sys2Proof.Machine
end

section
/-! Committed CLAIMs of other stations (R12, R18, R75, R76, R114). -/

namespace Sys2Proof.Machine

theorem State.TimePasses.station {s u : State} (h : s.TimePasses u) : u.station = s.station := by
  obtain ⟨-, -, same, -⟩ := h
  rw [same]

/-! ## The verdict -/

theorem PlanTable.admission_refuses_iff (t : PlanTable) (budget : Nat) (owner : Address) (c : ChannelId) (start : Slot)
    (length rating : Nat) :
    t.admission budget owner c start length rating = .refuses
      ↔ t.peers[owner].present = false ∨ ∃ k : Slot, (k.val + 64 - start.val) % 64 < length
          ∧ budget < t.sums[k] - t.setAside owner c k + rating := by
  have fits := t.fits_iff budget owner c start length rating
  unfold PlanTable.admission
  cases present : t.peers[owner].present
  · simp
  · cases f : t.fits budget owner c start length rating
    · have : ¬∀ k : Slot, (k.val + 64 - start.val) % 64 < length → t.sums[k] - t.setAside owner c k + rating ≤ budget := by
        rw [← fits, f]
        decide
      simpa using this
    · have := fits.mp f
      simpa using this

theorem PlanTable.admission_admits_iff (t : PlanTable) (budget : Nat) (owner : Address) (c : ChannelId) (start : Slot)
    (length rating : Nat) :
    t.admission budget owner c start length rating = .admits ↔ ¬t.admission budget owner c start length rating = .refuses := by
  cases t.admission budget owner c start length rating <;> decide

section
variable {sender : BitVec 5} {c : ChannelId} {e : WireEntry} {s : State}

theorem channel_low (c : ChannelId) : decide (11 < (BitVec.ofNat 4 c.val).toNat) = false := by
  revert c
  decide

theorem claim_acceptable (channel : e.channel = BitVec.ofNat 4 c.val) (rated : e.rating ≠ 0) :
    (Message.claim sender e).unacceptable = false := by
  have low : decide (11 < e.channel.toNat) = false := by
    rw [channel]
    exact channel_low c
  show (decide (11 < e.channel.toNat) || e.rating == 0) = false
  rw [low, Bool.false_or]
  exact beq_false_of_ne rated

/-- The verdict of a station on a CLAIM that it receives: the admission check, in the states that judge (R17, R18). -/
theorem ownVerdict_foreign (silent : s.engine.transmission = .none) (foreign : sender ≠ BitVec.ofNat 5 s.cfg.address.val)
    (channel : e.channel = BitVec.ofNat 4 c.val) :
    s.ownVerdict sender e = if s.station.state.judges then some (s.admissionOf sender e c) else none := by
  have other : ¬addressOf sender = s.cfg.address := fun h => foreign ((addressOf_eq_iff ..).mp h)
  unfold State.ownVerdict
  rw [State.drives_of_silent silent, if_neg other, channel, channelOf?_ofNat]
  cases s.station.state.judges <;> rfl

/-- The wire verdict of a CLAIM at a station that receives it (R75). -/
theorem wireRefused_foreign (silent : s.engine.transmission = .none) (others : Bool) :
    s.wireRefused (.claim sender e) others = (others || s.lines.dataDriving
      || (s.engine.verdict.isNone && s.station.state.pullsRefuse && s.ownVerdict sender e == some .refuses)) := by
  show (if s.drives _ then others else others || s.lines.dataDriving || _) = _
  rw [State.drives_of_silent silent]
  rfl

/-- A CLAIM that commits with no difference of verdicts (R12, R76). -/
theorem commit_claim {others refused : Bool} (framed : s.engine.framing = .frame) (silent : s.engine.transmission = .none)
    (foreign : sender ≠ BitVec.ofNat 5 s.cfg.address.val) (channel : e.channel = BitVec.ofNat 4 c.val) (rated : e.rating ≠ 0)
    (wire : s.wireRefused (.claim sender e) others = refused)
    (agrees : s.verdictAtCommit (.claim sender e) ≠ some (if refused then .admits else .refuses)) :
    commit (.claim sender e) others s
      = if refused then s.ended (.claim sender e) else applyClaim (addressOf sender) c e (s.ended (.claim sender e)) := by
  rw [commit_received framed silent (claim_acceptable channel rated)
    (State.haltCause_foreign (m := .claim sender e) foreign nofun false), wire]
  show (if s.verdictAtCommit _ = some (if refused then Verdict.admits else .refuses) then _ else _) = _
  rw [if_neg agrees]
  show applyMessage (.claim sender e) refused _ = _
  rw [applyMessage, channel, channelOf?_ofNat]

end

/-- The coverage that a replaced holding loses (R23). -/
theorem losesCoverage_iff (old new : Holding) :
    PlanTable.losesCoverage old (some new) = true ↔ ∃ k : Slot, old.covers k = true ∧ ¬(k.val + 64 - new.start.val) % 64 < new.length := by
  unfold PlanTable.losesCoverage allSlots
  simp [Holding.covers, spanCovers]

/-- An admitted CLAIM that fits: its holding is inserted, and the notice follows where coverage was lost (R12, R24). -/
theorem applyClaim_commits {a : Address} {c : ChannelId} {e : WireEntry} {s : State} (present : s.table.peers[a].present = true)
    (within : s.table.WithinBudget s.cfg.budget)
    (fits : s.table.fits s.cfg.budget a c (slotOf e.start) (e.lengthLess1.toNat + 1) e.rating.toNat = true) :
    let lost := ∃ h, s.table.find a c = some h ∧ ∃ k : Slot, h.covers k = true ∧ ¬(k.val + 64 - e.start.toNat) % 64 < e.lengthLess1.toNat + 1
    let inserted := { s with table := s.table.insert (holdingOf a c e) }
    (applyClaim a c e s).table = s.table.insert (holdingOf a c e)
      ∧ applyClaim a c e s
        = { s with table := (applyClaim a c e s).table, channels := (applyClaim a c e s).channels, sched := (applyClaim a c e s).sched }
      ∧ (lost → applyClaim a c e s = freeingNotice inserted) ∧ (¬lost → applyClaim a c e s = inserted) := by
  intro lost inserted
  obtain ⟨loses, hl⟩ : ∃ loses : Bool, loses = match s.table.find a c with
      | some old => PlanTable.losesCoverage old (some (holdingOf a c e))
      | none => false := ⟨_, rfl⟩
  have loses_iff : loses = true ↔ lost := by
    rw [hl]
    cases found : s.table.find a c with
    | none => exact ⟨nofun, fun ⟨h, here, _⟩ => by rw [found] at here; cases here⟩
    | some old =>
      refine (losesCoverage_iff old (holdingOf a c e)).trans ⟨fun uncovered => ⟨old, found, uncovered⟩, fun ⟨h, here, uncovered⟩ => ?_⟩
      obtain rfl := Option.some.inj (found.symm.trans here)
      exact uncovered
  have applied : applyClaim a c e s = evictAndFree loses id inserted := by
    rw [hl]
    exact if_pos present
  have after : inserted.table.WithinBudget inserted.cfg.budget := within.insert (holdingOf a c e) fits
  have upd := evictAndFree_upd loses after
  have run := evictAndFree_of_within loses after
  rw [← applied] at upd run
  refine ⟨by rw [upd], ?_, fun h => ?_, fun h => ?_⟩
  · generalize applyClaim a c e s = t at upd ⊢
    generalize t.channels = channels, t.sched = sched at upd
    rw [upd]
  · rw [run, if_pos (loses_iff.mpr h)]
  · rw [run, if_neg fun l => h (loses_iff.mp l)]

/-- Settles O39. -/
theorem committedClaimsReplaceTheirKey : Obligations.CommittedClaimsReplaceTheirKey := by
  intro sender c e refused s framed silent quiet foreign channel rated a unheard unchanged runs lost pulling refuses
  have run : exec (.claimCommit sender e refused) s = .next (commit (.claim sender e) refused s) := exec_committing quiet (.claim sender e) refused
  have own := ownVerdict_foreign silent foreign channel
  have wire := wireRefused_foreign (sender := sender) (e := e) silent refused
  have judged : s.verdictAtCommit (.claim sender e) = s.engine.verdict.or (s.ownVerdict sender e) := rfl
  have deaf (h : unheard) : s.ownVerdict sender e = none := by
    rw [own]
    rcases h with state | state <;> rw [state] <;> rfl
  obtain ⟨table, channels, sched, station, cfg, port, counter⟩ := s.ended_items (.claim sender e)
  have leaves {t : State} (h : t = { s.ended (.claim sender e) with table := t.table, channels := t.channels, sched := t.sched })
      (peers : t.table.peers = s.table.peers) : runs t := by
    obtain ⟨u, passes, same, framing, recessive, frame, ending, -, -, verdict⟩ :=
      State.ended_leaves (.claim sender e) (s := s) (t := t) (by
        generalize t.table = table, t.channels = channels, t.sched = sched at h
        rw [h])
    have still : t.station = u.station := by
      rw [h, passes.station]
      exact station
    refine ⟨u, passes, ?_, framing, recessive, frame, ending, verdict, peers⟩
    conv_lhs => rw [same, still]
  have kept (agrees : s.verdictAtCommit (.claim sender e) ≠ some .admits) (refuse : s.wireRefused (.claim sender e) refused = true) :
      ∃ t, exec (.claimCommit sender e refused) s = .next t ∧ runs t ∧ unchanged t := by
    rw [run, commit_claim framed silent foreign channel rated refuse agrees, if_pos rfl]
    exact ⟨_, rfl, leaves rfl (by rw [table]), table, channels, sched⟩
  have apply (agrees : s.verdictAtCommit (.claim sender e) ≠ some .refuses) (allows : s.wireRefused (.claim sender e) refused = false) :
      exec (.claimCommit sender e refused) s = .next (applyClaim a c e (s.ended (.claim sender e))) := by
    rw [run, commit_claim framed silent foreign channel rated allows agrees]
    rfl
  have admission : s.admissionOf sender e c = .refuses ↔ refuses := PlanTable.admission_refuses_iff ..
  refine ⟨fun heard rests => ?_, fun unformed refuse judges => ?_, fun outside unformed others released absent => ?_,
    fun attached formed others released lawful within present fits => ?_⟩
  · refine kept ?_ ?_
    · rw [judged]
      rcases rests with ⟨outside, unformed⟩ | refuses
      · rw [unformed, deaf outside]
        exact nofun
      · rw [refuses]
        exact nofun
    · rw [wire, Bool.or_eq_true, Bool.or_eq_true]
      exact .inl heard
  · have mine : s.ownVerdict sender e = some .refuses := by
      have judging : s.station.state.judges = true := by
        rcases judges with (state | state) | ⟨state, -⟩ <;> rw [state] <;> rfl
      rw [own, if_pos judging, admission.mpr refuse]
    refine kept ?_ ?_
    · rw [judged, unformed, mine]
      exact nofun
    · rw [wire, unformed, mine, Bool.or_eq_true, Bool.or_eq_true]
      rcases judges with (state | state) | ⟨-, heard⟩
      · rw [state]
        exact .inr rfl
      · rw [state]
        exact .inr rfl
      · exact .inl heard
  · have mine := deaf outside
    have applied := apply (by rw [judged, unformed, mine]; exact nofun) (by rw [wire, others, released, mine]; exact Bool.and_false _)
    have ignored : applyClaim a c e (s.ended (.claim sender e)) = s.ended (.claim sender e) :=
      if_neg (by rw [table, absent]; decide)
    rw [applied, ignored]
    exact ⟨_, rfl, leaves rfl (by rw [table]), table, channels, sched⟩
  · have admits : s.ownVerdict sender e ≠ some .refuses := by
      rw [own]
      split
      · exact fun refuse => absurd ((PlanTable.admission_eq_admits present fits).symm.trans (Option.some.inj refuse)) (by decide)
      · exact nofun
    have mine : (s.ownVerdict sender e == some .refuses) = false := beq_false_of_ne admits
    have applied := apply
      (by
        rw [judged]
        rcases formed with none | admitted
        · rw [none]
          exact admits
        · rw [admitted]
          exact nofun)
      (by rw [wire, others, released, mine]; exact Bool.and_false _)
    obtain ⟨inserted, upd, notice, alone⟩ := applyClaim_commits (a := a) (c := c) (e := e) (s := s.ended (.claim sender e))
      (by rw [table]; exact present) (by rw [table, cfg]; exact within) (by rw [table, cfg]; exact fits)
    rw [table] at inserted notice
    rw [table] at alone
    refine ⟨_, applied, leaves upd ?_, fun owner d => ?_, fun keeps => ?_, fun loses => ?_⟩
    · rw [inserted, PlanTable.insert_peers]
    · rw [inserted, lawful.find_insert]
      by_cases key : owner = a ∧ d = c
      · rw [if_pos key, if_pos ⟨key.1.symm, key.2.symm⟩, key.1, key.2]
        rfl
      · rw [if_neg key, if_neg fun h => key ⟨h.1.symm, h.2.symm⟩]
    · rw [alone keeps]
      exact ⟨channels, sched⟩
    · rw [notice loses]
      exact freeingNotice_notifies (s := s) channels sched station

end Sys2Proof.Machine
end

section
/-! The REFUSE bit (R17, R18, R75): the verdict of a receiver on a CLAIM, and its pull. -/

namespace Sys2Proof.Machine

/-! ## A message read past its CHECK, by a station that drives none -/

/-- As `Judged`, at a station whose DATA driver item may read DRIVING: the pull on REFUSE (R75). -/
def State.Received (m : Message) (o : Objection) (b : Bool) (s : State) : Prop :=
  s.lines.dataDriving = b ∧ { s with lines := { s.lines with dataDriving := false } }.Judged m o

section
variable {m : Message} {o : Objection} {b : Bool}

theorem passClocks_received (d : Nat) (s : State) (h : s.Received m o b) : (passClocks d s).Received m o b := by
  obtain ⟨driving, still, -, formed, record⟩ := h
  exact ⟨(passClocks_data d s).2.2.trans driving, still, rfl, formed, record⟩

theorem passData_received (p : Bool) (d : Nat) (s : State) (h : s.Received m o b) : (passData p d s).Received m o b := by
  obtain ⟨driving, judged⟩ := h
  obtain ⟨still, -, formed, record⟩ := passData_judged p d _ judged
  refine ⟨?_, still, rfl, formed, record⟩
  show (s.lines.dataDriving || (decide (s.engine.transmission = .driving) && _)) = b
  rw [driving, decide_eq_false judged.1, Bool.false_and, Bool.or_false]

theorem passSlots_received (s : State) (h : s.Received m o b) : (passSlots s).Received m o b := by
  unfold passSlots
  split
  · exact h
  · exact h

/-- No level is due to be read. -/
def State.MiddleIdle (s : State) : Prop := ∀ f, s.engine.frame = some f → f.elapsed ≠ s.bits 1 * f.read.length + s.bits 1 / 2

theorem State.middle_cases (s : State) :
    s.MiddleIdle ∨ ∃ f, s.engine.frame = some f ∧ f.elapsed = s.bits 1 * f.read.length + s.bits 1 / 2 := by
  by_cases due : ∃ f, s.engine.frame = some f ∧ f.elapsed = s.bits 1 * f.read.length + s.bits 1 / 2
  · exact .inr due
  · exact .inl fun f frame middle => due ⟨f, frame, middle⟩

theorem readMiddle_of_idle {s : State} (idle : s.MiddleIdle) : readMiddle s = s := by
  unfold readMiddle
  split
  · rfl
  · next f frame => exact if_neg (idle f frame)

theorem readMiddle_of_due {s : State} {f : FrameRecord} (frame : s.engine.frame = some f)
    (due : f.elapsed = s.bits 1 * f.read.length + s.bits 1 / 2) : (readMiddle s).engine = s.engine.readLevel !s.lines.dataDominant := by
  unfold readMiddle
  rw [frame]
  dsimp only
  rw [if_pos due]

theorem readMiddle_received (fits : m.fitsLayout = true) (s : State) (h : s.Received m o b) : (readMiddle s).Received m o b := by
  obtain ⟨driving, judged⟩ := h
  obtain ⟨still, -, formed, record⟩ := readMiddle_judged fits _ judged
  have engine : (readMiddle { s with lines := { s.lines with dataDriving := false } }).engine = (readMiddle s).engine := by
    rcases s.middle_cases with idle | ⟨f, frame, due⟩
    · rw [readMiddle_of_idle idle, readMiddle_of_idle (s := { s with lines := { s.lines with dataDriving := false } }) idle]
    · rw [readMiddle_of_due frame due, readMiddle_of_due (s := { s with lines := { s.lines with dataDriving := false } }) frame due]
  rw [engine] at still formed record
  exact ⟨(congrArg LineInterface.dataDriving (readMiddle_lines s)).trans driving, still, rfl, formed, record⟩

/-- A station that passes a message pulls REFUSE, and no other bit, with its driver. -/
theorem pullsData_received (s : State) (f : FrameRecord) (h : s.Received m .pass b)
    (frame : s.engine.frame = some f) : s.pullsData = (decide (f.elapsed / s.bits 1 = 43) && b) := by
  obtain ⟨driving, still, -, formed, -⟩ := h
  unfold State.pullsData
  rw [frame]
  dsimp only at still formed ⊢
  rw [if_neg still, formed, driving, Bool.eq_iff_iff]
  simp [Config.refusePosition]

end

/-! ## The REFUSE bit -/

/-- With a frame on the wire, time leaves DATA that is recessive with no station that holds it, and the record as far as it has run. -/
theorem advanceToBit_framed {s : State} {f : FrameRecord} (frame : s.engine.frame = some f) (p : Nat) :
    (advanceToBit p s).engine.frame = some { f with elapsed := max f.elapsed (s.bits p) }
      ∧ ((advanceToBit p s).lines.dataDominant = false → (advanceToBit p s).lines.dataHold = 0) := by
  unfold advanceToBit advanceInFrame
  rw [frame]
  dsimp only
  unfold advanceInMessage
  constructor
  · have (u : State) : (passSlots u).engine = u.engine := by
      unfold passSlots
      split <;> rfl
    rw [this]
    show s.engine.frame.map _ = _
    rw [frame, Option.map_some]
    congr 2
    omega
  · rw [passSlots_lines]
    show ((passClocks _ s).lines.advanceData _ _ false).dataDominant = false → ((passClocks _ s).lines.advanceData _ _ false).dataHold = 0
    unfold LineInterface.advanceData
    split
    · exact nofun
    · exact fun _ => rfl

theorem advanceToBit_no_frame {s : State} (none : s.engine.frame = none) (p : Nat) : advanceToBit p s = s := by
  unfold advanceToBit advanceInFrame
  rw [none]

/-- The REFUSE bit at a station that receives an acceptable CLAIM (R75). -/
theorem refuse_received {sender : BitVec 5} {e : WireEntry} {s : State} (silent : s.engine.transmission = .none)
    (acceptable : (Message.claim sender e).unacceptable = false) :
    let u := advanceToBit Config.refusePosition s
    let m := Message.claim sender e
    refuse sender e s
      = { u with
          lines := { u.lines with
            dataDriving := u.lines.dataDriving || (s.station.state.pullsRefuse && s.ownVerdict sender e == some .refuses) }
          engine := { u.engine with
            frame := u.engine.frame.map fun f => { f with read := m.read m.check ++ [true] }
            accumulator := m.check, objection := some .pass, verdict := s.ownVerdict sender e } } := by
  intro u m
  have keeps : TimeKeeps s u := advanceToBit_keeps Config.refusePosition s
  have still : u.engine.transmission = .none := by
    obtain ⟨-, -, -, -, -, -, -, -, -, -, -, -, -, -, -, transmission, -⟩ := keeps
    exact transmission.trans silent
  have passes : m.objection m.check = .pass := by
    unfold Message.objection
    rw [acceptable]
    simp
  have verdict : (readMessage m m.check true u).ownVerdict sender e = s.ownVerdict sender e :=
    State.ownVerdict_congr keeps sender e
  have same : readback m u = u := readback_received still
  have run : refuse sender e s
      = let r := readMessage m m.check true (readback m u)
        { r with
          lines := { r.lines with
            dataDriving := r.lines.dataDriving || (r.station.state.pullsRefuse && r.ownVerdict sender e == some .refuses) }
          engine := { r.engine with verdict := r.ownVerdict sender e } } := if_neg (by rw [acceptable]; decide)
  rw [run, same]
  dsimp only
  rw [verdict, ← keeps.station, ← passes]
  rfl

/-- Settles O36. -/
theorem receiversJudgeClaims : Obligations.ReceiversJudgeClaims := by
  intro sender c e s framed silent quiet foreign channel rated exceeds refuses
  have acceptable := claim_acceptable (sender := sender) channel rated
  have own := ownVerdict_foreign silent foreign channel
  have admission : s.admissionOf sender e c = .refuses ↔ refuses := PlanTable.admission_refuses_iff ..
  have admitted (admits : ¬refuses) : s.admissionOf sender e c = .admits :=
    (PlanTable.admission_admits_iff ..).mpr fun refuse => admits (admission.mp refuse)
  have reads := refuse_received silent acceptable
  obtain ⟨u, hu⟩ : ∃ u, u = advanceToBit Config.refusePosition s := ⟨_, rfl⟩
  have keeps : TimeKeeps s u := hu ▸ advanceToBit_keeps _ s
  have released : u.lines.dataDriving = s.lines.dataDriving := hu ▸ advanceToBit_dataDriving silent _
  have passes : s.TimePasses u := hu ▸ advanceToBit_timePasses _ s
  rw [← hu] at reads
  obtain ⟨t, ht⟩ : ∃ t, t = refuse sender e s := ⟨_, rfl⟩
  rw [← ht] at reads
  have still : u.engine.transmission = .none := by
    obtain ⟨-, -, -, -, -, -, -, -, -, -, -, -, -, -, -, transmission, -⟩ := keeps
    exact transmission.trans silent
  have verdict : t.engine.verdict = s.ownVerdict sender e := by rw [reads]
  have driving : t.lines.dataDriving
      = (s.lines.dataDriving || (s.station.state.pullsRefuse && s.ownVerdict sender e == some .refuses)) := by rw [reads, ← released]
  refine ⟨u, t, ?_, passes, ?_, ?_, ?_, fun judging => ?_, fun hushed => ?_, fun deaf => ?_⟩
  · show Host.Outcome.next (if (ownFall s).engine.framing = .frame then refuse sender e (ownFall s) else _) = _
    rw [ownFall_none quiet, if_pos framed, ht]
  · rw [reads]
  · rw [reads]
    show u.engine.frame.map _ = _
    cases frame : s.engine.frame with
    | none => rw [hu, advanceToBit_no_frame frame, frame]; rfl
    | some f => rw [hu, (advanceToBit_framed frame _).1]; rfl
  · cases frame : s.engine.frame with
    | none =>
      have still : t.engine.frame = none := by
        rw [reads, hu, advanceToBit_no_frame frame, frame]
        rfl
      exact fun f here => nomatch still.symm.trans here
    | some f =>
      obtain ⟨record, hold⟩ := hu ▸ advanceToBit_framed frame Config.refusePosition
      have received : t.Received (.claim sender e) .pass t.lines.dataDriving := by
        refine ⟨rfl, ?_⟩
        rw [reads]
        refine ⟨?_, rfl, rfl, { f with
            read := (Message.claim sender e).read (Message.claim sender e).check ++ [true], elapsed := max f.elapsed (s.bits 43) },
          bitsOf (Message.claim sender e).check ++ [true], ?_, List.append_assoc .., ?_⟩
        · show u.engine.transmission ≠ .driving
          rw [still]
          exact nofun
        · show u.engine.frame.map _ = _
          rw [record]
          rfl
        · simp
      have pulls := State.pullsAt_of received passData_received (readMiddle_received (m := .claim sender e) rfl) passClocks_received
        passSlots_received (P := fun i => decide (i = 43) && t.lines.dataDriving) pullsData_received (by rw [reads]; exact hold)
      simpa using pulls
  · have judges : s.station.state.judges = true ∧ s.station.state.pullsRefuse = true := by
      rcases judging with state | state <;> rw [state] <;> exact ⟨rfl, rfl⟩
    rw [own, if_pos judges.1] at verdict driving
    rw [judges.2, Bool.true_and] at driving
    refine ⟨fun refuse => ?_, fun admits => ?_⟩
    · rw [admission.mpr refuse] at verdict driving
      exact ⟨verdict, driving.trans (Bool.or_true _)⟩
    · rw [admitted admits] at verdict driving
      exact ⟨verdict, driving.trans (Bool.or_false _)⟩
  · have judges : s.station.state.judges = true ∧ s.station.state.pullsRefuse = false := by rw [hushed]; exact ⟨rfl, rfl⟩
    rw [own, if_pos judges.1] at verdict
    rw [judges.2] at driving
    refine ⟨fun refuse => ?_, fun admits => ?_, driving.trans (Bool.or_false _)⟩
    · rw [verdict, admission.mpr refuse]
    · rw [verdict, admitted admits]
  · have silence : s.station.state.judges = false ∧ s.station.state.pullsRefuse = false := by
      rcases deaf with state | state <;> rw [state] <;> exact ⟨rfl, rfl⟩
    rw [own, if_neg (by rw [silence.1]; decide)] at verdict
    rw [silence.2] at driving
    exact ⟨verdict, driving.trans (Bool.or_false _)⟩

end Sys2Proof.Machine
end

section
/-! The commit of an ANNOUNCE (R10, R20, R24, R31, R114): what the overwrite makes of the plan, and what eviction makes of the station,
whatever the lines and the engine do meanwhile. -/

namespace Sys2Proof.Machine

/-! ## Eviction looks at the plan, the channels, the queue, the station and the drive table -/

/-- What eviction reads and writes at the station's own channels is the same in both states. -/
structure State.Alike (s u : State) : Prop where
  channels : u.channels = s.channels
  sched : u.sched = s.sched
  station : u.station = s.station
  drive : u.drive.table = s.drive.table

theorem State.Alike.settle {s u : State} (h : s.Alike u) (c : ChannelId) : (settle c s).Alike (settle c u) := by
  have same := settle_of_eq (s := s) (u := u) c (by rw [h.sched]) h.channels h.station
  have frame := settle_frame c s
  have sched : (Machine.settle c s).sched = { s.sched with queue := (Machine.settle c s).sched.queue } := by
    rw [Scheduler.mk.injEq]
    obtain ⟨-, -, -, -, -, -, -, -, -, -, composed, voids⟩ := frame
    exact ⟨rfl, composed, voids⟩
  obtain ⟨-, -, -, -, -, -, drive, station, -⟩ := frame
  exact ⟨by rw [same], by rw [same, h.sched]; exact sched.symm, by rw [same, station]; exact h.station, by rw [same, drive]; exact h.drive⟩

theorem State.Alike.loseHolding {s u : State} (h : s.Alike u) (b : Bool) (c : ChannelId) : (loseHolding b c s).Alike (loseHolding b c u) := by
  have cleared : (clearDrive c s).Alike (clearDrive c u) := ⟨h.channels, h.sched, h.station, congrArg (·.set c none) h.drive⟩
  unfold Machine.loseHolding
  dsimp only
  rw [cleared.channels]
  split
  · exact cleared
  · refine State.Alike.settle ?_ c
    have lost : ((clearDrive c s).mapChannel c fun ch => { ch with span := none, held := 0, evicted := true }).Alike
        ((clearDrive c u).mapChannel c fun ch => { ch with span := none, held := 0, evicted := true }) :=
      ⟨by unfold State.mapChannel; rw [cleared.channels], cleared.sched, cleared.station, cleared.drive⟩
    split
    · exact ⟨lost.channels, lost.sched, lost.station, lost.drive⟩
    · exact lost

theorem State.Alike.evictEach {s u : State} (cfg : u.cfg.address = s.cfg.address) (hs : List Holding) (h : s.Alike u) :
    (evictEach hs s).Alike (evictEach hs u) := by
  induction hs generalizing s u with
  | nil => exact h
  | cons g gs ih =>
    rw [evictEach_cons, evictEach_cons]
    refine ih ?_ ?_
    · rw [(evictOne_frame g u).2.1, (evictOne_frame g s).2.1, cfg]
    · have tables (t v : PlanTable) : State.Alike { s with table := t } { u with table := v } := ⟨h.channels, h.sched, h.station, h.drive⟩
      by_cases own : g.owner = s.cfg.address
      · rw [evictOne_of_own own, evictOne_of_own (own.trans cfg.symm)]
        exact (tables _ _).loseHolding true g.channel
      · rw [evictOne_of_other own, evictOne_of_other (cfg ▸ own)]
        exact tables _ _

/-- Eviction leaves alike what it finds alike. -/
theorem State.Alike.evict {s u : State} (h : s.Alike u) (table : u.table = s.table) (cfg : u.cfg = s.cfg) : (evict s).Alike (evict u) := by
  rw [evict_eq_evictEach, evict_eq_evictEach, State.evictions, State.evictions, table, cfg]
  exact h.evictEach (by rw [cfg]) _

/-! ## The overwrite -/

/-- One entry of an ANNOUNCE goes into the plan (R10). -/
def PlanTable.enter (owner : Address) (t : PlanTable) (e : WireEntry) : PlanTable :=
  match channelOf? e.channel with
  | some c => t.insert (holdingOf owner c e)
  | none => t

theorem PlanTable.overwrite_eq (t : PlanTable) (owner : Address) (entries : List WireEntry) :
    t.overwrite owner entries = entries.foldl (PlanTable.enter owner) (t.removeOwner owner) := rfl

theorem channelOf?_eq {x : BitVec 4} (low : x.toNat ≤ 11) : ∃ c : ChannelId, channelOf? x = some c ∧ x = BitVec.ofNat 4 c.val := by
  refine ⟨⟨x.toNat, by omega⟩, dif_pos (by omega), ?_⟩
  simp

theorem channel_inj {c d : ChannelId} (h : BitVec.ofNat 4 c.val = BitVec.ofNat 4 d.val) : c = d := by
  have := congrArg channelOf? h
  rw [channelOf?_ofNat, channelOf?_ofNat] at this
  exact Option.some.inj this

theorem PlanTable.Lawful.removeOwner_find {t : PlanTable} (lawful : t.Lawful) (owner o : Address) (c : ChannelId) :
    (t.removeOwner owner).find o c = if o = owner then none else t.find o c := by
  obtain ⟨lawful', plan, -⟩ := lawful.removeOwner owner
  split
  · next theirs =>
    refine PlanTable.find_none_iff.mpr fun h here key => ?_
    rw [plan, List.mem_filter, decide_eq_true_eq] at here
    exact here.2 (key.1.trans theirs)
  · next other =>
    refine Option.ext fun h => ?_
    rw [lawful'.find_iff, lawful.find_iff, plan, List.mem_filter, decide_eq_true_eq]
    exact ⟨fun ⟨⟨here, _⟩, key⟩ => ⟨here, key⟩, fun ⟨here, key⟩ => ⟨⟨here, key.1 ▸ other⟩, key⟩⟩

theorem PlanTable.overwrite_peers (t : PlanTable) (owner : Address) (entries : List WireEntry) :
    (t.overwrite owner entries).peers = t.peers := by
  rw [PlanTable.overwrite_eq]
  refine (List.foldlRecOn entries (PlanTable.enter owner) (motive := fun u => u.peers = (t.removeOwner owner).peers) rfl fun u same e _ => ?_).trans
    (t.removeOwner_peers owner)
  unfold PlanTable.enter
  split
  · rw [PlanTable.insert_peers, same]
  · exact same

section
variable {owner : Address}

/-- The entries of an ANNOUNCE, one by one: each is the plan's holding for its channel, and no other key changes. -/
theorem PlanTable.Lawful.enterEach_find (entries : List WireEntry) (low : ∀ e ∈ entries, e.channel.toNat ≤ 11)
    (distinct : (entries.map WireEntry.channel).Nodup) : ∀ {t : PlanTable}, t.Lawful → ∀ (o : Address) (c : ChannelId),
      (entries.foldl (PlanTable.enter owner) t).find o c
        = if o = owner then ((entries.find? fun e => e.channel == BitVec.ofNat 4 c.val).map (holdingOf owner c)).or (t.find owner c)
          else t.find o c := by
  induction entries with
  | nil =>
    intro t lawful o c
    split
    · next same => rw [same]; rfl
    · rfl
  | cons e es ih =>
    intro t lawful o c
    obtain ⟨d, names, same⟩ := channelOf?_eq (low e List.mem_cons_self)
    obtain ⟨fresh, distinct⟩ := List.nodup_cons.mp distinct
    have enters : PlanTable.enter owner t e = t.insert (holdingOf owner d e) := by
      unfold PlanTable.enter
      rw [names]
    rw [List.foldl_cons, enters, ih (fun e he => low e (List.mem_cons_of_mem _ he)) distinct (lawful.insert _).1, lawful.find_insert,
      lawful.find_insert, List.find?_cons]
    by_cases theirs : o = owner
    · subst theirs
      rw [if_pos rfl, if_pos rfl]
      by_cases here : d = c
      · subst here
        have gone : (es.find? fun e => e.channel == BitVec.ofNat 4 d.val) = none :=
          List.find?_eq_none.mpr fun f hf names => fresh (List.mem_map.mpr ⟨f, hf, (beq_iff_eq.mp names).trans same.symm⟩)
        rw [gone, if_pos ⟨rfl, rfl⟩, same, beq_self_eq_true]
        rfl
      · have other : (e.channel == BitVec.ofNat 4 c.val) = false :=
          beq_false_of_ne fun names => here (channel_inj (same.symm.trans names))
        rw [if_neg fun key => here key.2, other]
    · rw [if_neg theirs, if_neg theirs, if_neg fun key => theirs key.1.symm]

/-- An entry for a key that the plan does not hold adds its rating to the sums of the slots that it covers. -/
theorem PlanTable.insert_sums_fresh {t : PlanTable} {h : Holding} (fresh : t.find h.owner h.channel = none) (k : Slot) :
    (t.insert h).sums[k] = t.sums[k] + if h.covers k then h.rating else 0 := by
  rw [PlanTable.insert_sums, PlanTable.removeKey, fresh]

/-- What the entries draw in a slot. -/
def drawnBy (entries : List WireEntry) (k : Slot) : Nat :=
  ((entries.filter fun e => spanCovers (slotOf e.start) (e.lengthLess1.toNat + 1) k).map fun e => e.rating.toNat).sum

theorem PlanTable.Lawful.enterEach_sums (entries : List WireEntry) (low : ∀ e ∈ entries, e.channel.toNat ≤ 11)
    (distinct : (entries.map WireEntry.channel).Nodup) (k : Slot) : ∀ {t : PlanTable}, t.Lawful →
      (∀ e ∈ entries, ∀ c : ChannelId, e.channel = BitVec.ofNat 4 c.val → t.find owner c = none) →
      (entries.foldl (PlanTable.enter owner) t).sums[k] = t.sums[k] + drawnBy entries k := by
  induction entries with
  | nil => exact fun _ _ => rfl
  | cons e es ih =>
    intro t lawful fresh
    obtain ⟨d, names, same⟩ := channelOf?_eq (low e List.mem_cons_self)
    obtain ⟨once, distinct⟩ := List.nodup_cons.mp distinct
    have enters : PlanTable.enter owner t e = t.insert (holdingOf owner d e) := by
      unfold PlanTable.enter
      rw [names]
    have free : t.find owner d = none := fresh e List.mem_cons_self d same
    have later (f : WireEntry) (hf : f ∈ es) (c : ChannelId) (theirs : f.channel = BitVec.ofNat 4 c.val) :
        (t.insert (holdingOf owner d e)).find owner c = none := by
      rw [lawful.find_insert, if_neg]
      · exact fresh f (List.mem_cons_of_mem _ hf) c theirs
      · rintro ⟨-, clash⟩
        exact once (List.mem_map.mpr ⟨f, hf, theirs.trans ((congrArg (fun c : ChannelId => BitVec.ofNat 4 c.val) clash).symm.trans same.symm)⟩)
    rw [List.foldl_cons, enters, ih (fun e he => low e (List.mem_cons_of_mem _ he)) distinct (lawful.insert _).1 later,
      PlanTable.insert_sums_fresh free]
    unfold drawnBy
    rw [List.filter_cons]
    show t.sums[k] + (if spanCovers (slotOf e.start) (e.lengthLess1.toNat + 1) k = true then e.rating.toNat else 0) + _ = _
    split
    · rw [List.map_cons, List.sum_cons]
      omega
    · rw [Nat.add_zero]

end

/-- The plan behind an overwrite, key by key (R10). -/
theorem PlanTable.Lawful.overwrite_find {t : PlanTable} (lawful : t.Lawful) (owner : Address) {entries : List WireEntry}
    (low : ∀ e ∈ entries, e.channel.toNat ≤ 11) (distinct : (entries.map WireEntry.channel).Nodup) (o : Address) (c : ChannelId) :
    (t.overwrite owner entries).find o c
      = if o = owner then (entries.find? fun e => e.channel == BitVec.ofNat 4 c.val).map (holdingOf owner c) else t.find o c := by
  obtain ⟨lawful', plan, -⟩ := lawful.removeOwner owner
  rw [PlanTable.overwrite_eq, lawful'.enterEach_find entries low distinct]
  split
  · rw [lawful.removeOwner_find, if_pos rfl, Option.or_none]
  · next other => rw [lawful.removeOwner_find, if_neg other]

/-- The slot sums behind an overwrite: the other owners' holdings, and the entries (R3, R10). -/
theorem PlanTable.Lawful.overwrite_sums {t : PlanTable} (lawful : t.Lawful) (owner : Address) {entries : List WireEntry}
    (low : ∀ e ∈ entries, e.channel.toNat ≤ 11) (distinct : (entries.map WireEntry.channel).Nodup) (k : Slot) :
    (t.overwrite owner entries).sums[k]
      = ((t.plan.filter fun h => decide (h.owner ≠ owner) && h.covers k).map Holding.rating).sum + drawnBy entries k := by
  obtain ⟨lawful', plan, -⟩ := lawful.removeOwner owner
  rw [PlanTable.overwrite_eq, lawful'.enterEach_sums entries low distinct k fun _ _ c _ => by rw [lawful.removeOwner_find, if_pos rfl],
    (lawful'.2 k).1, PlanTable.sumAt, plan, List.filter_filter]
  congr 4
  funext h
  exact Bool.and_comm ..

end Sys2Proof.Machine
end

section
/-! A committed ANNOUNCE of another station (R10, R31, R136). -/

namespace Sys2Proof.Machine

/-! ## Lost coverage -/

/-- The holding that an ANNOUNCE states for a channel. -/
theorem announcedHolding_eq (owner : Address) (entries : List WireEntry) (c : ChannelId) :
    announcedHolding owner entries c = (entries.find? fun e => channelOf? e.channel == some c).map (holdingOf owner c) := by
  unfold announcedHolding
  induction entries with
  | nil => rfl
  | cons e es ih =>
    rw [List.findSome?_cons, List.find?_cons]
    by_cases here : channelOf? e.channel = some c
    · rw [if_pos here, beq_iff_eq.mpr here]
      rfl
    · rw [if_neg here, beq_false_of_ne here]
      exact ih

/-- A holding of the sender loses coverage where no entry for its channel covers all its slots (R23, R24). -/
theorem announced_loses_iff {entries : List WireEntry} (low : ∀ e ∈ entries, e.channel.toNat ≤ 11)
    (distinct : (entries.map WireEntry.channel).Nodup) (owner : Address) (h : Holding) :
    PlanTable.losesCoverage h (announcedHolding owner entries h.channel) = true
      ↔ ∀ e ∈ entries, e.channel.toNat = h.channel.val →
          ∃ k : Slot, h.covers k = true ∧ ¬(k.val + 64 - e.start.toNat) % 64 < e.lengthLess1.toNat + 1 := by
  have names (e : WireEntry) (he : e ∈ entries) : channelOf? e.channel = some h.channel ↔ e.channel.toNat = h.channel.val := by
    unfold channelOf?
    rw [dif_pos (by have := low e he; omega), Option.some.injEq, Fin.ext_iff]
  rw [announcedHolding_eq]
  cases found : entries.find? fun e => channelOf? e.channel == some h.channel with
  | none =>
    refine ⟨fun _ e he theirs => ?_, fun _ => rfl⟩
    exact absurd (beq_iff_eq.mpr ((names e he).mpr theirs)) (List.find?_eq_none.mp found e he)
  | some e =>
    have he := List.mem_of_find?_eq_some found
    have theirs := (names e he).mp (beq_iff_eq.mp (List.find?_some found :))
    refine (losesCoverage_iff h (holdingOf owner h.channel e)).trans ⟨fun uncovered f hf same => ?_, fun each => each e he theirs⟩
    have once : f = e := by
      refine List.inj_on_of_nodup_map distinct hf he (BitVec.eq_of_toNat_eq ?_)
      rw [same, theirs]
    rw [once]
    exact uncovered

/-! ## The event -/

/-- The plan and the peer table as a committed ANNOUNCE writes them, before eviction (R10, R31). -/
def PlanTable.announced (t : PlanTable) (sender : Address) (cycleAge : BitVec 16) (entries : List WireEntry) : PlanTable :=
  (t.overwrite sender entries).setPeer sender { present := true, age := 0, cycleAge := cycleAge }

/-- The event of an arrival (R31). -/
def tellArrival (arrived : Bool) (sender : Address) (s : State) : State :=
  if arrived then post .peerArrived (.address sender) s else s

theorem tellArrival_upd (arrived : Bool) (sender : Address) (s : State) :
    tellArrival arrived sender s
      = { s with port := if arrived then s.port.post ⟨.peerArrived, .address sender, s.timer.cycleCounter⟩ else s.port } := by
  unfold tellArrival
  split <;> rfl

/-- The sender loses coverage (R24). -/
def PlanTable.announceLoses (t : PlanTable) (sender : Address) (entries : List WireEntry) : Bool :=
  t.plan.any fun h => h.owner == sender && PlanTable.losesCoverage h (announcedHolding sender entries h.channel)

theorem applyAnnounce_eq (sender : Address) (cycleAge : BitVec 16) (entries : List WireEntry) (s : State) :
    applyAnnounce sender cycleAge entries s
      = evictAndFree (s.table.announceLoses sender entries)
          (tellArrival (!s.table.peers[sender].present && decide (sender ≠ s.cfg.address)) sender)
          { s with table := s.table.announced sender cycleAge entries } := rfl

theorem announceLoses_iff {t : PlanTable} {entries : List WireEntry} (low : ∀ e ∈ entries, e.channel.toNat ≤ 11)
    (distinct : (entries.map WireEntry.channel).Nodup) (sender : Address) :
    t.announceLoses sender entries = true
      ↔ ∃ h ∈ t.plan, h.owner = sender ∧ ∀ e ∈ entries, e.channel.toNat = h.channel.val →
          ∃ k : Slot, h.covers k = true ∧ ¬(k.val + 64 - e.start.toNat) % 64 < e.lengthLess1.toNat + 1 := by
  unfold PlanTable.announceLoses
  rw [List.any_eq_true]
  simp only [Bool.and_eq_true, beq_iff_eq, announced_loses_iff low distinct]

theorem announce_acceptable {sender : BitVec 5} {digest : BitVec 8} {cycleAge : BitVec 16} {entries : List WireEntry}
    (few : entries.length ≤ 12) (each : ∀ e ∈ entries, e.channel.toNat ≤ 11 ∧ e.rating ≠ 0)
    (distinct : (entries.map WireEntry.channel).Nodup) : (Message.announce sender digest cycleAge entries).unacceptable = false := by
  refine Bool.eq_false_iff.mpr fun faulty => ?_
  rcases (unacceptable_iff _).mp faulty with many | ⟨e, he, high⟩ | ⟨e, he, zero⟩ | twice
  · omega
  · have := (each e he).1
    omega
  · exact (each e he).2 zero
  · exact twice distinct

/-- A committed ANNOUNCE of another station. -/
theorem commit_announce {sender : BitVec 5} {cycleAge : BitVec 16} {entries : List WireEntry} {s : State}
    (framed : s.engine.framing = .frame) (silent : s.engine.transmission = .none) (foreign : sender ≠ BitVec.ofNat 5 s.cfg.address.val)
    (acceptable : (Message.announce sender s.cfg.digest cycleAge entries).unacceptable = false) :
    commit (.announce sender s.cfg.digest cycleAge entries) false s
      = markTraffic (applyAnnounce (addressOf sender) cycleAge entries (s.ended (.announce sender s.cfg.digest cycleAge entries))) := by
  refine commit_received framed silent acceptable (State.haltCause_foreign (m := .announce sender s.cfg.digest cycleAge entries) foreign (fun _ _ _ _ same => ?_) false)
  cases same
  rfl

theorem markTraffic_upd (s : State) :
    markTraffic s = { s with station := { s.station with traffic := s.station.traffic || s.windowOpen } } := by
  unfold markTraffic
  cases s.windowOpen
  · rw [Bool.or_false]
    rfl
  · rw [Bool.or_true]
    rfl

/-- Eviction, the events that come between, and the notice where coverage was lost or a holding was evicted (R23, R24). -/
theorem evictAndFree_cases (lost : Bool) {tell : State → State} (tells : ∀ s, ∃ port, tell s = { s with port := port }) (s : State) :
    (lost = true ∨ (evict s).table.plan.length < s.table.plan.length → evictAndFree lost tell s = freeingNotice (tell (evict s)))
      ∧ (¬(lost = true ∨ (evict s).table.plan.length < s.table.plan.length) → evictAndFree lost tell s = tell (evict s)) := by
  obtain ⟨port, told⟩ := tells (evict s)
  have table : (tell (evict s)).table = (evict s).table := by rw [told]
  have run : evictAndFree lost tell s
      = if lost || decide ((evict s).table.plan.length < s.table.plan.length) then freeingNotice (tell (evict s)) else tell (evict s) := by
    rw [← table]
    rfl
  refine ⟨fun h => ?_, fun h => ?_⟩
  · rw [run, if_pos (by simpa using h)]
  · rw [run, if_neg (by simpa using h)]

theorem evictAndFree_drive (lost : Bool) {tell : State → State} (tells : ∀ s, ∃ port, tell s = { s with port := port }) (s : State) :
    (evictAndFree lost tell s).drive = (evict s).drive := by
  obtain ⟨frees, rests⟩ := evictAndFree_cases lost tells s
  obtain ⟨port, told⟩ := tells (evict s)
  by_cases h : lost = true ∨ (evict s).table.plan.length < s.table.plan.length
  · rw [frees h, freeingNotice_upd, told]
  · rw [rests h, told]

theorem tellArrival_tells (arrived : Bool) (sender : Address) (s : State) : ∃ port, tellArrival arrived sender s = { s with port := port } :=
  ⟨_, tellArrival_upd arrived sender s⟩

/-- Settles O38. -/
theorem committedAnnouncesReplaceTheSendersHoldings : Obligations.CommittedAnnouncesReplaceTheSendersHoldings := by
  intro sender cycleAge entries s framed silent quiet foreign few each distinct lawful covers fits lost applied freed
  have low (e : WireEntry) (he : e ∈ entries) := (each e he).1
  have acceptable := announce_acceptable (sender := sender) (digest := s.cfg.digest) (cycleAge := cycleAge) few each distinct
  have run : exec (.announceCommit sender s.cfg.digest cycleAge entries) s = .next (commit _ false s) :=
    exec_committing quiet (.announce sender s.cfg.digest cycleAge entries) false
  rw [commit_announce framed silent foreign acceptable] at run
  obtain ⟨u, passes, keeps, ended⟩ := s.ended_keeps (.announce sender s.cfg.digest cycleAge entries)
  obtain ⟨table, channels, sched, station, cfg, port, counter⟩ := s.ended_items (.announce sender s.cfg.digest cycleAge entries)
  obtain ⟨w, hw⟩ : ∃ w, w = s.ended (.announce sender s.cfg.digest cycleAge entries) := ⟨_, rfl⟩
  rw [← hw] at run ended table channels sched station cfg port counter
  have loses : w.table.announceLoses (addressOf sender) entries = true ↔ lost := by
    rw [table]
    exact announceLoses_iff low distinct _
  obtain ⟨a, ha⟩ : ∃ a, a = addressOf sender := ⟨_, rfl⟩
  obtain ⟨v, hv⟩ : ∃ v, v = { w with table := w.table.announced a cycleAge entries } := ⟨_, rfl⟩
  have arrives : (!w.table.peers[a].present && decide (a ≠ w.cfg.address)) = !s.table.peers[a].present := by
    have other : a ≠ s.cfg.address := fun own => foreign ((addressOf_eq_iff ..).mp (ha.symm.trans own))
    rw [table, cfg, decide_eq_true other, Bool.and_true]
  have result : applyAnnounce a cycleAge entries w
      = evictAndFree (w.table.announceLoses a entries) (tellArrival (!s.table.peers[a].present) a) v := by
    rw [applyAnnounce_eq, arrives, hv]
  rw [← ha] at run loses
  rw [result] at run
  obtain ⟨happened, hl⟩ : ∃ b, b = w.table.announceLoses a entries := ⟨_, rfl⟩
  rw [← hl] at run loses
  have tells := tellArrival_tells (!s.table.peers[a].present) a
  obtain ⟨inputs', cfg', timer', lines', engine', station', pending', -⟩ := evictAndFree_frame happened tells v
  obtain ⟨frees, rests⟩ := evictAndFree_cases happened tells v
  have drive' := evictAndFree_drive happened tells v
  have table' := evictAndFree_table happened (tellArrival (!s.table.peers[a].present) a) (fun s => by rw [tellArrival_upd]) v
  have keepsDrive : w.drive.table = s.drive.table := by
    obtain ⟨-, -, -, -, -, -, -, -, drive, -⟩ := keeps
    rw [ended]
    exact drive
  have start : applied = { s with table := s.table.announced a cycleAge entries } := by rw [ha]; rfl
  have alike : applied.Alike v := by
    rw [start, hv]
    exact ⟨channels, sched, station, keepsDrive⟩
  have sameTable : v.table = applied.table := by
    rw [start, hv]
    show w.table.announced a cycleAge entries = _
    rw [table]
  have sameCfg : v.cfg = applied.cfg := by
    rw [start, hv]
    exact cfg
  have evicts := alike.evict sameTable sameCfg
  have evictedTable : (evict v).table = (evict applied).table := evict_table_congr sameTable (congrArg Configuration.budget sameCfg)
  obtain ⟨r, hr⟩ : ∃ r, r = evictAndFree happened (tellArrival (!s.table.peers[a].present) a) v := ⟨_, rfl⟩
  rw [← hr] at run inputs' cfg' timer' lines' engine' station' pending' frees rests drive' table'
  have reached : (evict applied).station = s.station := by
    obtain ⟨-, -, -, -, -, station, -⟩ := evict_frame applied
    exact station
  have notified (z : State) (z_channels : z.channels = (evict v).channels) (z_sched : z.sched = (evict v).sched)
      (z_station : z.station = (evict v).station) : (evict applied).Notified (freeingNotice z) :=
    freeingNotice_notifies (z_channels.trans evicts.channels) (z_sched.trans evicts.sched) (z_station.trans evicts.station)
  have upd := markTraffic_upd r
  refine ⟨u, markTraffic r, run, passes, ?_, ?_, ?_, ?_, ?_, ?_, ?_, ?_, ?_, ?_, fun h => ?_, fun fit => ?_⟩
  · rw [upd, State.mk.injEq]
    refine ⟨?_, ?_, rfl, ?_, ?_, rfl, rfl, rfl, rfl, rfl, rfl, ?_⟩
    · rw [inputs', hv, ended]
    · rw [cfg', hv, ended]
    · rw [timer', hv, ended]
    · rw [lines', hv, ended]
    · rw [pending', hv, ended]
  · rw [upd, engine', hv, ended]
  · rw [upd, engine', hv, ended]
  · rw [upd, engine', hv, ended]
  · rw [upd, engine', hv, ended]
  · rw [upd]
    show r.engine.transmission = _
    obtain ⟨-, -, -, -, -, -, -, -, -, -, -, -, -, -, -, transmission, -⟩ := keeps
    rw [engine', hv, ended]
    exact transmission.trans silent
  · have window : r.windowOpen = s.windowOpen := by
      unfold State.windowOpen
      rw [station', hv, station]
    rw [upd, window, station', hv, station]
  · rw [markTraffic_table, table', evictedTable, evict_table, PlanTable.evicted_peers]
    show ((s.table.overwrite (addressOf sender) entries).peers.set _ _) = _
    rw [PlanTable.overwrite_peers]
  · rw [markTraffic_table, table', evictedTable]
  · rw [upd]
    show r.drive.table = _
    rw [drive', evicts.drive]
  · have lossy : happened = true ∨ (evict v).table.plan.length < v.table.plan.length := by
      rw [evictedTable, sameTable]
      exact h.imp loses.mpr id
    have told := tellArrival_upd (!s.table.peers[a].present) a (evict v)
    have := notified (tellArrival (!s.table.peers[a].present) a (evict v)) (by rw [told]) (by rw [told]) (by rw [told])
    rw [upd, frees lossy]
    unfold State.Notified at this
    rw [reached] at this
    generalize evict applied = ev at this ⊢
    generalize freeingNotice _ = z at this ⊢
    exact this
  · have within : applied.table.WithinBudget applied.cfg.budget := fun k =>
      (lawful.overwrite_sums (addressOf sender) low distinct k).trans_le (fit k)
    have stays : evict v = v := evict_within (by rw [sameTable, sameCfg]; exact within)
    have told := tellArrival_upd (!s.table.peers[a].present) a v
    rw [stays] at frees rests drive' table'
    have free : happened = true → r = freeingNotice (tellArrival (!s.table.peers[a].present) a v) := fun h => frees (.inl h)
    have rest : ¬happened = true → r = tellArrival (!s.table.peers[a].present) a v := fun h =>
      rests fun either => either.elim h (lt_irrefl _)
    have still : v.channels = s.channels ∧ v.sched = s.sched ∧ v.station = s.station := by
      rw [hv]
      exact ⟨channels, sched, station⟩
    refine ⟨fun owner c => ?_, ?_, ?_, fun h => ?_, fun h => ?_⟩
    · rw [markTraffic_table, table', sameTable]
      refine (lawful.overwrite_find (addressOf sender) low distinct owner c).trans ?_
      split
      · next same => rw [same]; rfl
      · rfl
    · rw [upd]
      show r.drive = _
      rw [drive', hv, ended]
    · have arrival : (tellArrival (!s.table.peers[a].present) a v).port
          = if s.table.peers[addressOf sender].present then s.port
            else s.port.post ⟨.peerArrived, .address (addressOf sender), s.timer.cycleCounter⟩ := by
        have before : v.port = s.port ∧ v.timer.cycleCounter = s.timer.cycleCounter := by
          rw [hv]
          exact ⟨port, counter⟩
        subst ha
        rw [told, ← before.1, ← before.2]
        dsimp only
        cases s.table.peers[addressOf sender].present <;> rfl
      rw [upd, ← arrival]
      show r.port = _
      by_cases h : happened = true
      · rw [free h, freeingNotice_upd]
      · rw [rest h]
    · have := freeingNotice_notifies (s := s) (u := tellArrival (!s.table.peers[a].present) a v) (by rw [told]; exact still.1)
        (by rw [told]; exact still.2.1) (by rw [told]; exact still.2.2)
      rw [upd, free (loses.mpr h)]
      generalize freeingNotice _ = z at this ⊢
      exact this
    · rw [upd, rest fun l => h (loses.mp l), told]
      exact ⟨still.1, still.2.1⟩

end Sys2Proof.Machine
end

section
/-! The commit of the station's own CLAIM or RELEASE (R98, R110, R111): it reaches the plan, the queue and the channel. -/

namespace Sys2Proof.Machine

/-! ## A channel hears of its commit -/

theorem settle_idle_queue {c : ChannelId} {s : State} (idle : ∀ e ∈ s.sched.queue, e.onWire = false) :
    ∀ e ∈ (settle c s).sched.queue, e.onWire = false := by
  have withdrawn : ∀ e ∈ s.sched.queue.filter (fun e => e.onWire || e.request.channel? != some c), e.onWire = false :=
    fun e he => idle e (List.mem_filter.mp he).1
  have placed (r : Request) : ∀ e ∈ (placeRequest r c s).sched.queue, e.onWire = false := by
    rw [placeRequest_queue]
    split
    · intro e he
      rcases mem_offerTo he with old | rfl
      · exact idle e old
      · rfl
    · exact withdrawn
  rw [settle_eq]
  split
  · exact idle
  · split
    · exact placed _
    · split
      · exact placed _
      · exact withdrawn

theorem leaveFlight_upd (c : ChannelId) (s : State) :
    leaveFlight c s
      = { s with channels := (leaveFlight c s).channels, sched := { s.sched with queue := (leaveFlight c s).sched.queue } } :=
  tellChannel_upd (some c) s

/-- A channel in IN_FLIGHT whose record a commit writes is settled as one that waits. -/
theorem leaveFlight_mapChannel {c : ChannelId} {s : State} {f : Channel → Channel} (flying : (f s.channels[c]).state = .inFlight) :
    leaveFlight c (s.mapChannel c f) = settle c (s.mapChannel c fun ch => { f ch with state := .waiting }) := by
  have here : (s.mapChannel c f).channels[c] = f s.channels[c] := by rw [mapChannel_get, if_pos rfl]
  have flight : (s.mapChannel c f).mapChannel c (fun ch => if ch.state = .inFlight then { ch with state := .waiting } else ch)
      = s.mapChannel c fun ch => { f ch with state := .waiting } := by
    have twice (g : Channel → Channel) : (s.mapChannel c f).mapChannel c g = { s with channels := s.channels.set c (g (f s.channels[c])) } := by
      show { s with channels := (s.channels.set c _).set c (g (s.mapChannel c f).channels[c]) } = _
      rw [here, Vector.set_set]
    rw [twice, if_pos flying]
    rfl
  rw [leaveFlight, flight]

/-- The scheduler and the engine behind an own commit. -/
theorem ownCommitted_resolve (s : State) :
    ownCommitted resolveEntry (endTransmission s)
      = { s with
          lines := { s.lines with dataDriving := false }
          engine := { s.engine with transmission := .none, request := none }
          sched := { queue := resolveEntry s.sched.queue, composed := none, voids := 0 } } := rfl

theorem resolveEntry_idle {q : List QueueEntry} : ∀ e ∈ resolveEntry q, e.onWire = false := fun _ he => (mem_resolveEntry.mp he).2

/-- The station hears of its own CLAIM: the span and the held demand of the composed record, and CHANNEL_HELD (R110). -/
theorem channelAdmitted_leaves {c : ChannelId} {span : Span} {target : Nat} {s : State} (flying : s.channels[c].state = .inFlight)
    (idle : ∀ e ∈ s.sched.queue, e.onWire = false) :
    let t := channelAdmitted c span target s
    (∃ channels queue, t = { s with
        channels := channels, sched := { s.sched with queue := queue }
        port := s.port.post ⟨.channelHeld, .channel c, s.timer.cycleCounter⟩ })
      ∧ (∀ e ∈ t.sched.queue, e.onWire = false) ∧ t.channels[c].span = some span
      ∧ (0 < target → s.channels[c].target = target → span.length = slotsFor target →
          t.channels[c].state = .held ∧ t.channels[c].held = target) := by
  intro t
  obtain ⟨f, hf⟩ : ∃ f : Channel → Channel, f = fun ch => { ch with span := some span, held := target } := ⟨_, rfl⟩
  obtain ⟨v, hv⟩ : ∃ v, v = { s with port := s.port.post ⟨.channelHeld, .channel c, s.timer.cycleCounter⟩ } := ⟨_, rfl⟩
  have told : t = leaveFlight c (v.mapChannel c f) := by rw [hf, hv]; rfl
  have here : v.channels[c] = s.channels[c] := by rw [hv]
  have settled : t = settle c (v.mapChannel c fun ch => { f ch with state := .waiting }) := by
    rw [told, leaveFlight_mapChannel]
    rw [hf, here]
    exact flying
  have record : (v.mapChannel c fun ch => { f ch with state := .waiting }).channels[c]
      = { s.channels[c] with span := some span, held := target, state := .waiting } := by
    rw [mapChannel_get, if_pos rfl, here, hf]
  have queue : ∀ e ∈ t.sched.queue, e.onWire = false := by
    rw [settled]
    exact settle_idle_queue (by rw [hv]; exact idle)
  refine ⟨⟨t.channels, t.sched.queue, ?_⟩, queue, ?_, fun positive same length => ?_⟩
  · have upd := leaveFlight_upd c (v.mapChannel c f)
    rw [← told, hv] at upd
    exact upd
  · rw [settled, settle_get_fields, record]
  · have claims : (v.mapChannel c fun ch => { f ch with state := .waiting }).channels[c].needsClaim = false := by
      rw [record]
      show (decide (0 < s.channels[c].target) && decide (span.length ≠ slotsFor s.channels[c].target)) = false
      rw [same, length]
      simp
    have releases : (v.mapChannel c fun ch => { f ch with state := .waiting }).channels[c].needsRelease = false := by
      rw [record]
      simp only [Channel.needsRelease, same, decide_eq_false (Nat.pos_iff_ne_zero.mp positive), Bool.false_and]
    rw [settled, settle_of_realised (by rw [record]; exact nofun) (by rw [record]; exact nofun) claims releases, mapChannel_get, if_pos rfl,
      withdrawAll_channels, record]
    exact ⟨rfl, same⟩

/-- The station hears of its own RELEASE (R111). -/
theorem channelReleased_leaves {c : ChannelId} {s : State} (flying : s.channels[c].state = .inFlight)
    (idle : ∀ e ∈ s.sched.queue, e.onWire = false) :
    let t := channelReleased c s
    (∃ channels queue, t = { s with channels := channels, sched := { s.sched with queue := queue } })
      ∧ (∀ e ∈ t.sched.queue, e.onWire = false) ∧ t.channels[c].span = none ∧ t.channels[c].held = 0
      ∧ (s.channels[c].target = 0 → t.channels[c].state = .idle) := by
  intro t
  obtain ⟨f, hf⟩ : ∃ f : Channel → Channel, f = fun ch => { ch with span := none, held := 0 } := ⟨_, rfl⟩
  have told : t = leaveFlight c (s.mapChannel c f) := by rw [hf]; rfl
  have settled : t = settle c (s.mapChannel c fun ch => { f ch with state := .waiting }) := by
    rw [told, leaveFlight_mapChannel]
    rw [hf]
    exact flying
  have record : (s.mapChannel c fun ch => { f ch with state := .waiting }).channels[c]
      = { s.channels[c] with span := none, held := 0, state := .waiting } := by
    rw [mapChannel_get, if_pos rfl, hf]
  have after := settle_get_of_no_span (s := s.mapChannel c fun ch => { f ch with state := .waiting }) (c := c)
    (by rw [record]; exact nofun) (by rw [record]) (by rw [record])
  rw [← settled, record] at after
  refine ⟨⟨t.channels, t.sched.queue, ?_⟩, ?_, by rw [after], by rw [after], fun zero => ?_⟩
  · have upd := leaveFlight_upd c (s.mapChannel c f)
    rw [← told] at upd
    exact upd
  · rw [settled]
    exact settle_idle_queue idle
  · rw [after]
    dsimp only
    rw [if_neg nofun, if_pos zero]

/-! ## The commit -/

theorem State.drives_own {s : State} {k : Composed} {m : Message} (driving : s.engine.transmission = .driving)
    (composed : s.sched.composed = some k) (message : k.message = m) : s.drives m = true := by
  rw [State.drives, decide_eq_true driving, composed, Option.map_some, message]
  exact decide_eq_true rfl

/-- The notice leaves a channel that is not STARVED. -/
theorem freeingNotice_get {c : ChannelId} {s : State} (fed : s.channels[c].state ≠ .starved) :
    (freeingNotice s).channels[c] = s.channels[c] := by
  rw [(freeingNotice_freed s).1 c, if_neg fed]

/-- The state behind an own commit that has reached its channel (R76, R98). -/
theorem own_resolved {m : Message} {s z t : State}
    (applied : z = { s.ended m with table := z.table, channels := z.channels, sched := z.sched })
    (told : ∃ channels queue port, t = { ownCommitted resolveEntry (endTransmission z) with
      channels := channels, sched := { (ownCommitted resolveEntry (endTransmission z)).sched with queue := queue }, port := port }) :
    t.sched.voids = 0 ∧ t.sched.composed = none ∧ t.engine.transmission = .none ∧ t.engine.request = none ∧ t.engine.framing = .gap
      ∧ t.engine.ending = some { elapsed := 0, dominant := false } ∧ t.lines.dataDriving = false ∧ t.table = z.table
      ∧ ∃ u, s.TimePasses u
        ∧ t = { u with
            engine := t.engine, lines := t.lines, table := t.table, sched := t.sched, channels := t.channels, port := t.port } := by
  obtain ⟨u, passes, -, ended⟩ := s.ended_keeps m
  obtain ⟨channels, queue, port, told⟩ := told
  rw [ownCommitted_resolve] at told
  generalize z.table = table, z.channels = before, z.sched = sched at applied
  subst told
  rw [applied, ended]
  exact ⟨rfl, rfl, rfl, rfl, rfl, rfl, rfl, rfl, u, passes, rfl⟩

/-- Settles O42. -/
theorem ownClaimsAndReleasesReachTheirChannel : Obligations.OwnClaimsAndReleasesReachTheirChannel := by
  intro c k s framed driving composed request flying quiet lawful within own resolved
  have ours : addressOf own = s.cfg.address := addressOf_ofNat _
  have fed : s.channels[c].state ≠ .starved := by rw [flying]; exact nofun
  refine ⟨fun e wants message channel rated judging present fits => ?_, fun wants message outside => ?_⟩
  · obtain ⟨table, channels, sched, station, cfg, port, counter⟩ := s.ended_items (.claim own e)
    have drives := State.drives_own driving composed message
    have applies : s.haltCause (.claim own e) true = none := by
      unfold State.haltCause
      exact if_neg fun h => nomatch h.2
    have wire : s.wireRefused (.claim own e) false = false := if_pos drives
    obtain ⟨z, hz⟩ : ∃ z, z = applyClaim s.cfg.address c e (s.ended (.claim own e)) := ⟨_, rfl⟩
    have plans : applyMessage (.claim own e) false (s.ended (.claim own e)) = z := by
      rw [applyMessage, channel, channelOf?_ofNat, ours, hz]
      rfl
    have tells : reportCommit k false z
        = channelAdmitted c { start := slotOf e.start, length := e.lengthLess1.toNat + 1 } k.target
            (ownCommitted resolveEntry (endTransmission z)) := by
      obtain ⟨_, _, target, composer⟩ := k
      subst wants message
      rfl
    have run : exec (.claimCommit own e false) s = .next (reportCommit k false z) := by
      refine (exec_committing quiet (.claim own e) false).trans (congrArg Host.Outcome.next ?_)
      rw [commit_sent framed drives composed (claim_acceptable channel rated) applies, wire, plans]
      rfl
    obtain ⟨inserted, upd, notice, alone⟩ := applyClaim_commits (a := s.cfg.address) (c := c) (e := e) (s := s.ended (.claim own e))
      (by rw [table]; exact present) (by rw [table, cfg]; exact within) (by rw [table, cfg]; exact fits)
    rw [← hz] at inserted upd notice alone
    have record : z.channels[c] = s.channels[c] := by
      by_cases h : ∃ h, (s.ended (.claim own e)).table.find s.cfg.address c = some h
          ∧ ∃ k : Slot, h.covers k = true ∧ ¬(k.val + 64 - e.start.toNat) % 64 < e.lengthLess1.toNat + 1
      · rw [notice h, freeingNotice_get]
        · exact congrArg (·[c]) channels
        · show (s.ended (.claim own e)).channels[c].state ≠ _
          rw [channels]
          exact fed
      · rw [alone h]
        exact congrArg (·[c]) channels
    have told := channelAdmitted_leaves (s := ownCommitted resolveEntry (endTransmission z)) (c := c) (target := k.target)
      (span := { start := slotOf e.start, length := e.lengthLess1.toNat + 1 })
      (by show z.channels[c].state = _; rw [record]; exact flying) resolveEntry_idle
    rw [tells] at run
    generalize channelAdmitted c _ k.target _ = t at run told
    obtain ⟨⟨channels', queue', same⟩, idle, span, held⟩ := told
    obtain ⟨voids, none, silent, ended, framing, ending, released, table', leaves⟩ := own_resolved upd ⟨channels', queue', _, same⟩
    refine ⟨t, run, ⟨voids, none, idle, silent, ended, framing, ending, released, ?_, leaves⟩, ?_, span, fun positive target length => ?_, ?_⟩
    · rw [table', inserted, PlanTable.insert_peers, table]
    · rw [table', inserted, table, lawful.find_insert]
      exact if_pos ⟨rfl, rfl⟩
    · refine held positive ?_ ?_
      · show z.channels[c].target = _
        rw [record]
        exact target
      · exact length.symm
    · have kept : z.port = s.port ∧ z.timer.cycleCounter = s.timer.cycleCounter :=
        ⟨(congrArg State.port upd).trans port, (congrArg (·.timer.cycleCounter) upd).trans counter⟩
      rw [same]
      show z.port.post ⟨.channelHeld, .channel c, z.timer.cycleCounter⟩ = _
      rw [kept.1, kept.2]
  · obtain ⟨m, hm⟩ : ∃ m : Message, m = .release own (BitVec.ofNat 4 c.val) := ⟨_, rfl⟩
    rw [← hm] at message
    obtain ⟨table, channels, sched, station, cfg, port, counter⟩ := s.ended_items m
    have drives := State.drives_own driving composed message
    have applies : s.haltCause m true = none := by
      rw [hm]
      unfold State.haltCause
      exact if_neg fun h => nomatch h.2
    obtain ⟨z, hz⟩ : ∃ z, z = applyRelease s.cfg.address c (s.ended m) := ⟨_, rfl⟩
    have tells : reportCommit k false z = channelReleased c (ownCommitted resolveEntry (endTransmission z)) := by
      obtain ⟨_, _, target, composer⟩ := k
      subst wants
      rfl
    have run : exec (.releaseCommit own (BitVec.ofNat 4 c.val)) s = .next (reportCommit k false z) := by
      have wire : s.wireRefused m false = false := by rw [hm]; rfl
      have plans : applyMessage m false (s.ended m) = z := by
        rw [hz, hm, applyMessage, channelOf?_ofNat, ours]
      have commits := exec_committing quiet m false
      rw [commit_sent framed drives composed (hm ▸ release_acceptable own c) applies, wire, plans] at commits
      rw [hm] at commits
      exact commits
    obtain ⟨upd, alone, notice⟩ := applyRelease_commits (s := s.ended m) s.cfg.address c (by rw [table, cfg]; exact within)
    rw [← hz] at upd alone notice
    have record : z.channels[c] = s.channels[c] := by
      cases found : (s.ended m).table.find s.cfg.address c with
      | none =>
        rw [alone found]
        exact congrArg (·[c]) channels
      | some h =>
        rw [notice h found, freeingNotice_get]
        · exact congrArg (·[c]) channels
        · show (s.ended m).channels[c].state ≠ _
          rw [channels]
          exact fed
    have plan : z.table = s.table.removeKey s.cfg.address c := by
      rw [upd, table]
    obtain ⟨lawful', kept, peers⟩ := lawful.removeKey s.cfg.address c
    have told := channelReleased_leaves (s := ownCommitted resolveEntry (endTransmission z)) (c := c)
      (by show z.channels[c].state = _; rw [record]; exact flying) resolveEntry_idle
    rw [tells] at run
    generalize channelReleased c _ = t at run told
    obtain ⟨⟨channels', queue', same⟩, idle, span, held, idles⟩ := told
    obtain ⟨voids, none, silent, ended, framing, ending, released, table', leaves⟩ :=
      own_resolved (m := m) (s := s) (z := z) (t := t) (by
        generalize z.channels = channels, z.sched = sched at upd ⊢
        rw [upd]) ⟨channels', queue', _, same⟩
    refine ⟨t, run, ⟨voids, none, idle, silent, ended, framing, ending, released, ?_, leaves⟩, ?_, span, held, fun zero => idles ?_, ?_⟩
    · rw [table', plan, peers]
    · rw [table', plan]
      refine PlanTable.find_none_iff.mpr fun h here key => ?_
      rw [kept, List.mem_filter, Bool.not_eq_true', decide_eq_false_iff_not] at here
      exact here.2 key
    · show z.channels[c].target = 0
      rw [record]
      exact zero
    · rw [same]
      exact (congrArg State.port upd).trans port

end Sys2Proof.Machine
end

section
/-! The commit of the station's own ANNOUNCE (R10, R31, R98, R99, R143): it states the holdings that the plan has, or closes. -/

namespace Sys2Proof.Machine

/-! ## An ANNOUNCE that states what the plan holds -/

theorem holdingOf_entryOf {h : Holding} (length : 1 ≤ h.length ∧ h.length ≤ 64) (rating : h.rating ≤ 1023) :
    holdingOf h.owner h.channel (entryOf h) = h := by
  obtain ⟨owner, channel, start, len, rate⟩ := h
  dsimp only at length rating
  unfold holdingOf entryOf
  rw [Holding.mk.injEq]
  refine ⟨rfl, rfl, Fin.ext ?_, ?_, ?_⟩
  · show (BitVec.ofNat 6 start.val).toNat = start.val
    rw [BitVec.toNat_ofNat]
    omega
  · show (BitVec.ofNat 6 (len - 1)).toNat + 1 = len
    rw [BitVec.toNat_ofNat]
    omega
  · show (BitVec.ofNat 10 rate).toNat = rate
    rw [BitVec.toNat_ofNat]
    omega

theorem mem_holdingsOf {t : PlanTable} (lawful : t.Lawful) {owner : Address} {h : Holding} :
    h ∈ t.holdingsOf owner ↔ h ∈ t.plan ∧ h.owner = owner := by
  unfold PlanTable.holdingsOf
  rw [List.mem_filterMap]
  constructor
  · rintro ⟨c, -, found⟩
    obtain ⟨here, owns, -⟩ := PlanTable.find_some found
    exact ⟨here, owns⟩
  · rintro ⟨here, owns⟩
    exact ⟨h.channel, List.mem_finRange _, lawful.find_iff.mpr ⟨here, owns, rfl⟩⟩

/-- The entries that state the own holdings. -/
theorem statedEntry {t : PlanTable} (lawful : t.Lawful) (range : t.InRange) {owner : Address} (c : ChannelId) :
    (((t.holdingsOf owner).map entryOf).find? fun e => e.channel == BitVec.ofNat 4 c.val).map (holdingOf owner c) = t.find owner c := by
  cases found : ((t.holdingsOf owner).map entryOf).find? fun e => e.channel == BitVec.ofNat 4 c.val with
  | none =>
    cases here : t.find owner c with
    | none => rfl
    | some h =>
      obtain ⟨mem, owns, channel⟩ := PlanTable.find_some here
      have states := List.find?_eq_none.mp found (entryOf h) (List.mem_map_of_mem ((mem_holdingsOf lawful).mpr ⟨mem, owns⟩))
      exact absurd (by rw [← channel]; exact beq_self_eq_true _) states
  | some e =>
    obtain ⟨h, stated, rfl⟩ := List.mem_map.mp (List.mem_of_find?_eq_some found)
    obtain ⟨mem, owns⟩ := (mem_holdingsOf lawful).mp stated
    have channel : h.channel = c := channel_inj (beq_iff_eq.mp (List.find?_some found :))
    obtain ⟨atLeast, atMost, -, rating⟩ := range h mem
    rw [lawful.find_iff.mpr ⟨mem, owns, channel⟩, Option.map_some, ← owns, ← channel, holdingOf_entryOf ⟨atLeast, atMost⟩ rating]

/-- Two lawful plans with the same holding for each key are the same. -/
theorem PlanTable.Lawful.plan_ext {t u : PlanTable} (ht : t.Lawful) (hu : u.Lawful) (same : ∀ o c, t.find o c = u.find o c) :
    t.plan = u.plan := by
  have mem (h : Holding) : h ∈ t.plan ↔ h ∈ u.plan := by
    have left := ht.find_iff (o := h.owner) (c := h.channel) (h := h)
    have right := hu.find_iff (o := h.owner) (c := h.channel) (h := h)
    rw [same] at left
    simpa using left.symm.trans right
  exact ((List.perm_ext_iff_of_nodup ht.nodup hu.nodup).mpr mem).eq_of_pairwise
    (fun g h _ _ lt gt => absurd lt (Nat.lt_asymm gt)) ht.1 hu.1

/-- An ANNOUNCE of the holdings that the plan has leaves the plan, and no holding loses coverage. -/
theorem PlanTable.Lawful.overwrite_own {t : PlanTable} (lawful : t.Lawful) (range : t.InRange) {owner : Address} {entries : List WireEntry}
    (states : entries = (t.holdingsOf owner).map entryOf) (low : ∀ e ∈ entries, e.channel.toNat ≤ 11)
    (distinct : (entries.map WireEntry.channel).Nodup) :
    (t.overwrite owner entries).plan = t.plan ∧ t.announceLoses owner entries = false := by
  constructor
  · refine (lawful.overwrite owner entries).plan_ext lawful fun o c => ?_
    rw [lawful.overwrite_find owner low distinct]
    split
    · next own =>
      rw [own]
      rw [states]
      exact statedEntry lawful range c
    · rfl
  · refine Bool.eq_false_iff.mpr fun loses => ?_
    obtain ⟨h, here, owns, uncovered⟩ := (announceLoses_iff low distinct owner).mp loses
    obtain ⟨atLeast, atMost, -, rating⟩ := range h here
    have stated : entryOf h ∈ entries := by
      rw [states]
      exact List.mem_map_of_mem ((mem_holdingsOf lawful).mpr ⟨here, owns⟩)
    have channel : (entryOf h).channel.toNat = h.channel.val := by
      show (BitVec.ofNat 4 h.channel.val).toNat = _
      rw [BitVec.toNat_ofNat]
      omega
    obtain ⟨k, covered, not⟩ := uncovered _ stated channel
    have same := holdingOf_entryOf ⟨atLeast, atMost⟩ rating
    refine not (of_decide_eq_true (?_ : (holdingOf h.owner h.channel (entryOf h)).covers k = true))
    rw [same]
    exact covered

theorem PlanTable.Lawful.within_of_plan {t u : PlanTable} (ht : t.Lawful) (hu : u.Lawful) (plan : u.plan = t.plan) {budget : Nat}
    (within : t.WithinBudget budget) : u.WithinBudget budget := by
  intro k
  rw [(hu.2 k).1, PlanTable.sumAt, plan]
  have sum := within k
  rwa [(ht.2 k).1] at sum

/-! ## The event and the report -/

/-- The station's own ANNOUNCE is no arrival. -/
theorem applyAnnounce_own (cycleAge : BitVec 16) (entries : List WireEntry) {s : State}
    (within : (s.table.announced s.cfg.address cycleAge entries).WithinBudget s.cfg.budget) :
    let v := { s with table := s.table.announced s.cfg.address cycleAge entries }
    applyAnnounce s.cfg.address cycleAge entries s
      = if s.table.announceLoses s.cfg.address entries then freeingNotice v else v := by
  intro v
  have arrives : (!s.table.peers[s.cfg.address].present && decide (s.cfg.address ≠ s.cfg.address)) = false := by simp
  rw [applyAnnounce_eq, arrives]
  exact evictAndFree_within (s := v) _ (tellArrival false s.cfg.address) within rfl

theorem freeingNotice_unspan (c : ChannelId) (s : State) : (freeingNotice s).channels[c].unspan = s.channels[c].unspan := by
  by_cases starved : s.channels[c].state = .starved
  · rw [(freeingNotice_freed s).1 c, if_pos starved]
    have used : s.channels[c].state ≠ .unused := by rw [starved]; exact nofun
    refine (if_neg ?_).trans (if_neg used).symm
    split <;> exact nofun
  · rw [freeingNotice_get starved]

/-- What the own ANNOUNCE that commits leaves in every case. -/
theorem own_announce_commit {cycleAge : BitVec 16} {entries : List WireEntry} {k : Composed} {s : State}
    (framed : s.engine.framing = .frame) (driving : s.engine.transmission = .driving) (composed : s.sched.composed = some k)
    (message : k.message = .announce (BitVec.ofNat 5 s.cfg.address.val) s.cfg.digest cycleAge entries)
    (acceptable : k.message.unacceptable = false) :
    commit k.message false s
      = markTraffic (reportCommit k false (applyAnnounce s.cfg.address cycleAge entries (s.ended k.message))) := by
  have applies : s.haltCause k.message true = none := by
    rw [message]
    unfold State.haltCause
    rw [if_neg fun h => nomatch h.2]
    exact if_pos rfl
  have wire : s.wireRefused k.message false = false := by rw [message]; rfl
  rw [commit_sent framed (State.drives_own driving composed rfl) composed acceptable applies, wire]
  generalize s.ended k.message = w
  rw [message]
  show markTraffic (reportCommit k false (applyAnnounce (addressOf _) cycleAge entries w)) = _
  rw [addressOf_ofNat]

/-- The report of the own ANNOUNCE: a closing one enters QUIET, and one that was composed before the station began to leave is not
the closing one (R99). -/
theorem reportCommit_announce {k : Composed} (wants : k.request = .announce) (z : State) :
    reportCommit k false z
      = if k.station = .leaving then
          if z.station.state = .leaving then enterQuiet (ownCommitted resolveEntry (endTransmission z))
          else ownCommitted resolveEntry (endTransmission z)
        else if z.station.state = .leaving then ownCommitted returnEntry (endTransmission z)
        else ownCommitted resolveEntry (endTransmission z) := by
  obtain ⟨r, m, target, composer⟩ := k
  subst wants
  rfl

theorem announced_peers (t : PlanTable) (owner : Address) (cycleAge : BitVec 16) (entries : List WireEntry) :
    (t.announced owner cycleAge entries).peers = t.peers.set owner { present := true, age := 0, cycleAge := cycleAge } := by
  show (t.overwrite owner entries).peers.set _ _ = _
  rw [PlanTable.overwrite_peers]

/-- An entry that the attempt leaves, where it carries no cancel mark, stays queued without its mark. -/
theorem returnEntry_uncancelled {q : List QueueEntry} (kept : ∀ e ∈ q, e.onWire = true → e.cancel = false) :
    returnEntry q = q.map fun e => { e with onWire := false } := by
  rw [returnEntry_eq, ← List.filterMap_eq_map]
  refine List.filterMap_congr fun e he => if_neg ?_
  rw [Bool.and_eq_true]
  exact fun ⟨wire, cancelled⟩ => Bool.false_ne_true ((kept e he wire).symm.trans cancelled)

/-- Settles O43. -/
theorem ownAnnouncesResolve : Obligations.OwnAnnouncesResolve := by
  intro cycleAge entries k s own framed driving composed request wants message acceptable quiet lawful within wire refreshed runOn
  obtain ⟨table, channels, sched, station, cfg, port, counter⟩ := s.ended_items k.message
  obtain ⟨u, passes, keeps, ended⟩ := s.ended_keeps k.message
  have run : exec (.announceCommit own s.cfg.digest cycleAge entries) s = .next (commit k.message false s) := by
    rw [← exec_committing quiet k.message false, message]
    rfl
  rw [own_announce_commit framed driving composed message acceptable] at run
  obtain ⟨w, hw⟩ : ∃ w, w = s.ended k.message := ⟨_, rfl⟩
  rw [← hw] at run table channels sched station cfg port counter ended
  obtain ⟨low, distinct⟩ : (∀ e ∈ entries, e.channel.toNat ≤ 11) ∧ (entries.map WireEntry.channel).Nodup := by
    have fits := (unacceptable_iff k.message).not.mp (Bool.eq_false_iff.mp acceptable)
    rw [message] at fits
    refine ⟨fun e he => ?_, ?_⟩
    · by_contra high
      exact fits (.inr (.inl ⟨e, he, by omega⟩))
    · by_contra twice
      exact fits (.inr (.inr (.inr twice)))
  obtain ⟨v, hv⟩ : ∃ v, v = { w with table := s.table.announced s.cfg.address cycleAge entries } := ⟨_, rfl⟩
  have stated (states : entries = (s.table.holdingsOf s.cfg.address).map entryOf) (range : s.table.InRange) :
      applyAnnounce s.cfg.address cycleAge entries w = v ∧ v.table.plan = s.table.plan := by
    obtain ⟨plan, keepsAll⟩ := lawful.overwrite_own range states low distinct
    have after : (s.table.announced s.cfg.address cycleAge entries).WithinBudget s.cfg.budget :=
      lawful.within_of_plan ((lawful.overwrite s.cfg.address entries).setPeer _ _) plan within
    have applied := applyAnnounce_own cycleAge entries (s := w) (by rw [table, cfg]; exact after)
    rw [congrArg Configuration.address cfg, table, keepsAll] at applied
    refine ⟨(applied.trans (if_neg nofun)).trans hv.symm, ?_⟩
    rw [hv]
    exact plan
  have still : v.station = s.station ∧ v.sched = s.sched ∧ v.channels = s.channels ∧ v.port = s.port := by
    rw [hv]
    exact ⟨station, sched, channels, port⟩
  have resolves (queue : List QueueEntry → List QueueEntry) :
      let t := markTraffic (ownCommitted queue (endTransmission v))
      refreshed t ∧ t.table = v.table ∧ t.channels = s.channels ∧ t.port = s.port ∧ runOn t ∧ t.sched.queue = queue s.sched.queue
        ∧ t.station = { s.station with traffic := s.station.traffic || s.windowOpen } := by
    intro t
    have upd : t = _ := markTraffic_upd _
    have window : (ownCommitted queue (endTransmission v)).windowOpen = s.windowOpen := by
      show v.windowOpen = _
      unfold State.windowOpen
      rw [still.1]
    rw [window] at upd
    obtain ⟨-, cfg', -, -, -, -, -, pending', -⟩ := keeps
    have peers := announced_peers s.table s.cfg.address cycleAge entries
    refine ⟨⟨?_, ?_, ?_, ?_, ?_, ?_, ?_, ?_, ?_, ?_⟩, ?_, ?_, ?_, ⟨u, passes, ?_, ?_⟩, ?_, ?_⟩
    all_goals rw [upd]
    · exact (congrArg (·.table.peers) hv).trans peers
    · rfl
    · rfl
    · rfl
    · rfl
    · show v.engine.framing = _
      rw [hv, ended]
    · show v.engine.ending = _
      rw [hv, ended]
    · rfl
    · exact (congrArg State.cfg hv).trans cfg
    · show v.pending = _
      rw [hv, ended]
      exact pending'
    · rfl
    · exact still.2.2.1
    · exact still.2.2.2
    · show v.timer = _
      rw [hv, ended]
    · show v.drive = _
      rw [hv, ended]
    · exact congrArg (fun q : Scheduler => queue q.queue) still.2.1
    · exact congrArg (fun st : Station => { st with traffic := st.traffic || s.windowOpen }) still.1
  refine ⟨fun states range outside composer => ?_, fun states range leaving composer => ?_, fun closing leaving composer => ?_⟩
  · obtain ⟨applied, plan⟩ := stated states range
    have away : v.station.state ≠ .leaving := by
      rw [still.1]
      rcases outside with h | h <;> rw [h] <;> exact nofun
    rw [applied, reportCommit_announce wants, if_neg composer, if_neg away] at run
    obtain ⟨fresh, table', channels', port', runs, queue, traffic⟩ := resolves resolveEntry
    exact ⟨_, run, fresh, by rw [table', plan], channels', port', runs, queue, traffic⟩
  · obtain ⟨applied, plan⟩ := stated states range
    rw [applied, reportCommit_announce wants, if_neg composer, if_pos (by rw [still.1]; exact leaving)] at run
    obtain ⟨fresh, table', channels', port', runs, queue, traffic⟩ := resolves returnEntry
    refine ⟨_, run, fresh, by rw [table', plan], channels', port', runs, queue.trans (returnEntry_uncancelled fun e he onWire => ?_), ?_⟩
    · have mem : e ∈ s.sched.queue.filter (·.onWire) := List.mem_filter.mpr ⟨he, onWire⟩
      rw [wire, List.mem_singleton] at mem
      rw [mem]
    · have shut : s.windowOpen = false := by
        unfold State.windowOpen
        rw [leaving]
        rfl
      rw [traffic, shut, Bool.or_false]
  · subst closing
    obtain ⟨-, plan, -⟩ := lawful.removeOwner s.cfg.address
    have after : (s.table.announced s.cfg.address cycleAge []).WithinBudget s.cfg.budget := within.removeAll _
    have applied := applyAnnounce_own cycleAge [] (s := w) (by rw [table, cfg]; exact after)
    rw [congrArg Configuration.address cfg, table] at applied
    obtain ⟨z, hz⟩ : ∃ z, z = applyAnnounce s.cfg.address cycleAge [] w := ⟨_, rfl⟩
    have zIs : z = if s.table.announceLoses s.cfg.address [] = true then freeingNotice v else v := by
      rw [hz, hv]
      exact applied
    have zUpd : z = { v with channels := z.channels, sched := z.sched } := by
      rw [zIs]
      split
      · have upd := freeingNotice_upd v
        generalize freeingNotice v = y at upd ⊢
        generalize y.channels = c, y.sched.queue = q at upd
        rw [upd]
      · rfl
    have records (c : ChannelId) : z.channels[c].unspan = s.channels[c].unspan := by
      rw [zIs, ← still.2.2.1]
      split
      · exact freeingNotice_unspan c v
      · rfl
    obtain ⟨-, cfg', -, -, -, -, -, pending', -⟩ := keeps
    have zKeeps : z.table = v.table ∧ z.station = s.station ∧ z.port = s.port ∧ z.cfg = s.cfg
        ∧ z.timer.cycleCounter = s.timer.cycleCounter ∧ z.engine = v.engine ∧ z.pending = s.pending := by
      rw [zUpd]
      refine ⟨rfl, still.1, still.2.2.2, ?_, ?_, rfl, ?_⟩ <;> show _ = _
      · exact (congrArg State.cfg hv).trans cfg
      · exact (congrArg (·.timer.cycleCounter) hv).trans counter
      · show v.pending = _
        rw [hv, ended]
        exact pending'
    obtain ⟨zTable, zStation, zPort, zCfg, zCounter, zEngine, zPending⟩ := zKeeps
    rw [← hz, reportCommit_announce wants, if_pos composer, if_pos (by rw [zStation]; exact leaving)] at run
    have quietly : markTraffic (enterQuiet (ownCommitted resolveEntry (endTransmission z)))
        = enterQuiet (ownCommitted resolveEntry (endTransmission z)) := if_neg nofun
    rw [quietly] at run
    have peers := announced_peers s.table s.cfg.address cycleAge []
    refine ⟨_, run, ⟨?_, rfl, rfl, rfl, rfl, ?_, ?_, rfl, zCfg, zPending⟩, ?_, ?_, rfl, rfl, fun c => ?_, ?_⟩
    · show z.table.peers = _
      rw [zTable, hv]
      exact peers
    · show z.engine.framing = _
      rw [zEngine, hv, ended]
    · show z.engine.ending = _
      rw [zEngine, hv, ended]
    · show z.table.plan = _
      rw [zTable, hv]
      exact plan
    · rfl
    · have unspanned : (z.channels.map Channel.unspan)[c] = z.channels[c].unspan := Vector.getElem_map ..
      exact unspanned.trans (records c)
    · show z.port.post ⟨.quietEntered, .address z.cfg.address, z.timer.cycleCounter⟩ = _
      rw [zPort, zCfg, zCounter]

end Sys2Proof.Machine
end

section
/-! Verdict differences and refused own CLAIMs (R78 to R80, R139): the entry to RESYNC, and the quiet-stale flag. -/

namespace Sys2Proof.Machine

/-! ## Entry to RESYNC -/

/-- The state of RESYNC before the WAITING channels are settled (R139). -/
def resyncing (cause : Cause) (s : State) : State :=
  offer .rollcall
    (State.mapQueue
      (awaitSync { parkClaims (setStation .resync cause s) with
        table := (parkClaims (setStation .resync cause s)).table.keepOwn (parkClaims (setStation .resync cause s)).cfg.address })
      fun q => removeEntries Request.isClaim q)

theorem enterResync_eq (cause : Cause) (s : State) :
    enterResync cause s
      = post .resync (.cause cause) (if s.station.state = .leaving then settleWaiting (resyncing cause s) else resyncing cause s) := rfl

/-- No CLAIM is queued. -/
def State.Unclaiming (s : State) : Prop := ∀ e ∈ s.sched.queue, e.request.isClaim = false

theorem settle_unclaiming {c : ChannelId} {s : State} (resync : s.station.state = .resync) (none : s.Unclaiming) :
    (settle c s).Unclaiming := by
  have withdrawn : ∀ e ∈ s.sched.queue.filter (fun e => e.onWire || e.request.channel? != some c), e.request.isClaim = false :=
    fun e he => none e (List.mem_filter.mp he).1
  have claims : (holds s.sched.queue (.claim c) || s.station.state.mayQueue (.claim c)) = false := by
    have absent : holds s.sched.queue (.claim c) = false := by
      refine Bool.eq_false_iff.mpr fun h => ?_
      obtain ⟨e, he, request⟩ := (holds_iff _ _).mp h
      have := none e he
      rw [request] at this
      cases this
    rw [absent, resync]
    rfl
  intro e he
  rw [settle_eq] at he
  split at he
  · exact none e he
  · split at he
    · rw [placeRequest_queue, if_neg (by rw [claims]; decide)] at he
      exact withdrawn e he
    · split at he
      · rw [placeRequest_queue] at he
        split at he
        · rcases mem_offerTo he with old | rfl
          · exact none e old
          · rfl
        · exact withdrawn e he
      · exact withdrawn e he

theorem settleWaiting_unclaiming {s : State} (resync : s.station.state = .resync) (none : s.Unclaiming) : (settleWaiting s).Unclaiming := by
  have each (cs : List ChannelId) : ∀ {u : State}, u.station.state = .resync → u.Unclaiming →
      (cs.foldl (fun s c => settleIfWaiting c s) u).Unclaiming := by
    induction cs with
    | nil => exact fun _ h => h
    | cons c cs ih =>
      intro u state h
      rw [List.foldl_cons]
      unfold settleIfWaiting
      split
      · refine ih ?_ (settle_unclaiming state h)
        obtain ⟨-, -, -, -, -, -, -, station, -⟩ := settle_frame c u
        rw [station]
        exact state
      · exact ih state h
  unfold settleWaiting forChannels
  exact each allChannels resync none

theorem resyncing_leaves (cause : Cause) (z : State) :
    (resyncing cause z).station = { z.station with
        state := .resync, cause := cause, opened := false, count := 0, traffic := false, rollcall := .none }
      ∧ (resyncing cause z).table = z.table.keepOwn z.cfg.address
      ∧ (resyncing cause z).engine
        = { z.engine with framing := .awaitSync, ending := none, frame := none, objection := none, verdict := none }
      ∧ (resyncing cause z).lines = { z.lines with dataDriving := false }
      ∧ (resyncing cause z).port = z.port ∧ (resyncing cause z).timer = z.timer ∧ (resyncing cause z).drive = z.drive
      ∧ (resyncing cause z).cfg = z.cfg ∧ (resyncing cause z).inputs = z.inputs ∧ (resyncing cause z).pending = z.pending := by
  simp [resyncing]

/-- Entry to RESYNC keeps the own holdings and record, stops the engine until an edge, removes every CLAIM that is not on the wire and
offers a ROLLCALL (R26, R38, R63, R88, R139). -/
theorem enterResync_leaves (cause : Cause) {z : State} (idle : ∀ e ∈ z.sched.queue, e.onWire = false) :
    let t := enterResync cause z
    t.station = { z.station with
        state := .resync, cause := cause, opened := false, count := 0, traffic := false, rollcall := .none }
      ∧ t.table = z.table.keepOwn z.cfg.address
      ∧ t.engine = { z.engine with framing := .awaitSync, ending := none, frame := none, objection := none, verdict := none }
      ∧ t.lines.dataDriving = false ∧ t.Unclaiming ∧ holds t.sched.queue .rollcall = true
      ∧ t.port = z.port.post ⟨.resync, .cause cause, z.timer.cycleCounter⟩ ∧ t.timer = z.timer ∧ t.drive = z.drive
      ∧ t.cfg = z.cfg ∧ t.inputs = z.inputs ∧ t.pending = z.pending := by
  have unclaiming : (resyncing cause z).Unclaiming := by
    intro e he
    rcases mem_offerTo he with old | rfl
    · rcases mem_removeEntries.mp old with ⟨-, other⟩ | ⟨d, hd, -, wire, -⟩
      · exact other
      · exact absurd ((idle d hd).symm.trans wire) (by decide)
    · rfl
  have rollcall : holds (resyncing cause z).sched.queue .rollcall = true := holds_offerTo_self rfl
  have settled : (settleWaiting (resyncing cause z)).Unclaiming ∧ holds (settleWaiting (resyncing cause z)).sched.queue .rollcall = true := by
    refine ⟨settleWaiting_unclaiming (congrArg Station.state (resyncing_leaves cause z).1) unclaiming, ?_⟩
    obtain ⟨e, he, request⟩ := (holds_iff _ _).mp rollcall
    exact (holds_iff _ _).mpr ⟨e, (settleWaiting_mem_of_no_channel _ (by rw [request]; rfl)).mpr he, request⟩
  obtain ⟨station, table, engine, lines, port, timer, drive, cfg, inputs, pending⟩ := resyncing_leaves cause z
  have upd := settleWaiting_upd (resyncing cause z)
  rw [enterResync_eq]
  generalize resyncing cause z = x at *
  split
  · generalize settleWaiting x = y at *
    have kept : y.station = x.station ∧ y.table = x.table ∧ y.engine = x.engine ∧ y.lines = x.lines ∧ y.port = x.port
        ∧ y.timer = x.timer ∧ y.drive = x.drive ∧ y.cfg = x.cfg ∧ y.inputs = x.inputs ∧ y.pending = x.pending := by
      generalize y.channels = channels, y.sched.queue = queue at upd
      subst upd
      exact ⟨rfl, rfl, rfl, rfl, rfl, rfl, rfl, rfl, rfl, rfl⟩
    obtain ⟨station', table', engine', lines', port', timer', drive', cfg', inputs', pending'⟩ := kept
    refine ⟨station'.trans station, table'.trans table, engine'.trans engine, ?_, settled.1, settled.2, ?_, timer'.trans timer,
      drive'.trans drive, cfg'.trans cfg, inputs'.trans inputs, pending'.trans pending⟩
    · show y.lines.dataDriving = false
      rw [lines', lines]
    · show y.port.post ⟨.resync, .cause cause, y.timer.cycleCounter⟩ = _
      rw [port', port, timer', timer]
  · refine ⟨station, table, engine, ?_, unclaiming, rollcall, ?_, timer, drive, cfg, inputs, pending⟩
    · show x.lines.dataDriving = false
      rw [lines]
    · show x.port.post ⟨.resync, .cause cause, x.timer.cycleCounter⟩ = _
      rw [port, timer]

/-! ## No entry is on the wire -/

theorem loseHolding_idle {b : Bool} {c : ChannelId} {s : State} (idle : ∀ e ∈ s.sched.queue, e.onWire = false) :
    ∀ e ∈ (loseHolding b c s).sched.queue, e.onWire = false := by
  unfold loseHolding
  dsimp only
  split
  · exact idle
  · refine settle_idle_queue ?_
    split
    · exact idle
    · exact idle

theorem evict_idle {s : State} (idle : ∀ e ∈ s.sched.queue, e.onWire = false) : ∀ e ∈ (evict s).sched.queue, e.onWire = false := by
  obtain ⟨ls, run⟩ := evict_eq_loseEach s
  rw [run]
  unfold loseEach
  exact List.foldlRecOn ls _ (motive := fun s : State => ∀ e : QueueEntry, e ∈ s.sched.queue → e.onWire = false) idle fun _ h _ _ => loseHolding_idle h

theorem freeingNotice_idle {s : State} (idle : ∀ e ∈ s.sched.queue, e.onWire = false) :
    ∀ e ∈ (freeingNotice s).sched.queue, e.onWire = false := by
  rw [freeingNotice_eq]
  refine List.foldlRecOn allChannels _ (motive := fun s : State => ∀ e : QueueEntry, e ∈ s.sched.queue → e.onWire = false) idle fun u h c _ => ?_
  intro e he
  rw [retryStarved_queue] at he
  split at he
  · rcases mem_offerTo he with old | rfl
    · exact h e old
    · rfl
  · exact h e he

theorem evictAndFree_idle (lost : Bool) {s : State} (idle : ∀ e ∈ s.sched.queue, e.onWire = false) :
    ∀ d ∈ (evictAndFree lost id s).sched.queue, d.onWire = false := by
  have evicted := evict_idle idle
  unfold evictAndFree
  dsimp only
  split
  · exact freeingNotice_idle evicted
  · exact evicted

theorem applyClaim_idle {a : Address} {c : ChannelId} {e : WireEntry} {s : State} (idle : ∀ e ∈ s.sched.queue, e.onWire = false) :
    ∀ d ∈ (applyClaim a c e s).sched.queue, d.onWire = false := by
  unfold applyClaim
  split
  · exact evictAndFree_idle _ (s := { s with table := s.table.insert (holdingOf a c e) }) idle
  · exact idle

/-- An admitted CLAIM leaves every item but the plan, the channels, the queue, the outputs and the events. -/
theorem applyClaim_keeps (a : Address) (c : ChannelId) (e : WireEntry) (s : State) :
    (applyClaim a c e s).station = s.station ∧ (applyClaim a c e s).table.peers = s.table.peers ∧ (applyClaim a c e s).cfg = s.cfg
      ∧ (applyClaim a c e s).inputs = s.inputs ∧ (applyClaim a c e s).pending = s.pending ∧ (applyClaim a c e s).engine = s.engine := by
  by_cases present : s.table.peers[a].present = true
  · obtain ⟨lost, hl⟩ : ∃ lost : Bool, lost = match s.table.find a c with
        | some old => PlanTable.losesCoverage old (some (holdingOf a c e))
        | none => false := ⟨_, rfl⟩
    have applied : applyClaim a c e s = evictAndFree lost id { s with table := s.table.insert (holdingOf a c e) } := by
      rw [hl]
      exact if_pos present
    obtain ⟨inputs, cfg, -, -, engine, station, pending, -⟩ :=
      evictAndFree_frame lost (tell := id) (fun s => ⟨s.port, rfl⟩) { s with table := s.table.insert (holdingOf a c e) }
    have table := evictAndFree_table lost id (fun _ => rfl) { s with table := s.table.insert (holdingOf a c e) }
    rw [applied]
    refine ⟨station, ?_, cfg, inputs, pending, engine⟩
    rw [table, evict_table, PlanTable.evicted_peers, PlanTable.insert_peers]
  · rw [show applyClaim a c e s = s from if_neg present]
    exact ⟨rfl, rfl, rfl, rfl, rfl, rfl⟩

/-! ## What RESYNC leaves of a station -/

/-- What is left of the plan and the peer table in RESYNC (R26, R38). -/
theorem PlanTable.keepOwn_leaves (t : PlanTable) (own : Address) :
    (∀ a : Address, (t.keepOwn own).peers[a] = if a = own then t.peers[a] else .reset) ∧ ∀ h ∈ (t.keepOwn own).plan, h.owner = own := by
  refine ⟨fun a => ?_, fun h here => (PlanTable.mem_keepOwn here).2⟩
  show (Vector.ofFn _)[a] = _
  rw [Fin.getElem_fin, Vector.getElem_ofFn]

/-- The station `t` stands in RESYNC as `s` entered it (R26, R38, R63, R88, R139). -/
def State.Diverted (s : State) (cause : Cause) (t : State) : Prop :=
  t.station
      = { s.station with
          state := .resync, cause := cause, opened := false, count := 0, traffic := false, rollcall := .none }
    ∧ (∀ a : Address, t.table.peers[a] = if a = s.cfg.address then s.table.peers[a] else .reset)
    ∧ (∀ h ∈ t.table.plan, h.owner = s.cfg.address)
    ∧ t.engine.framing = .awaitSync ∧ t.engine.ending = none ∧ t.engine.frame = none ∧ t.engine.transmission = .none
    ∧ t.lines.dataDriving = false
    ∧ (∀ d ∈ t.sched.queue, d.request.isClaim = false)
    ∧ holds t.sched.queue .rollcall = true
    ∧ t.cfg = s.cfg ∧ t.inputs = s.inputs ∧ t.pending = s.pending

/-- What else stands as `s` had it, where nothing of the message was applied. -/
def State.Resynced (s : State) (cause : Cause) (t : State) : Prop :=
  s.Diverted cause t
    ∧ t.table.plan = s.table.plan.filter (fun h => decide (h.owner = s.cfg.address))
    ∧ t.port = s.port.post ⟨.resync, .cause cause, s.timer.cycleCounter⟩
    ∧ ∃ u, s.TimePasses u ∧ t.timer = u.timer ∧ t.drive = u.drive

section
variable {s z : State} {cause : Cause} (idle : ∀ e ∈ z.sched.queue, e.onWire = false) (silent : z.engine.transmission = .none)
  (station : z.station = s.station) (cfg : z.cfg = s.cfg) (inputs : z.inputs = s.inputs) (pending : z.pending = s.pending)
include idle silent station cfg inputs pending

theorem enterResync_diverted (peers : z.table.peers = s.table.peers) : s.Diverted cause (enterResync cause z) := by
  obtain ⟨station', table, engine, released, unclaiming, rollcall, -, -, -, cfg', inputs', pending'⟩ := enterResync_leaves cause idle
  obtain ⟨records, own⟩ := PlanTable.keepOwn_leaves z.table z.cfg.address
  refine ⟨station'.trans (by rw [station]), fun a => ?_, fun h here => ?_, congrArg MessageEngine.framing engine, congrArg MessageEngine.ending engine,
    congrArg MessageEngine.frame engine, ?_, released, unclaiming, rollcall, cfg'.trans cfg, inputs'.trans inputs, pending'.trans pending⟩
  · rw [table, records, cfg, peers]
  · rw [table] at here
    exact (own h here).trans (by rw [cfg])
  · rw [engine]
    exact silent

theorem enterResync_resynced (table : z.table = s.table) (lawful : s.table.Lawful) (port : z.port = s.port)
    (counter : z.timer.cycleCounter = s.timer.cycleCounter) (runs : ∃ u, s.TimePasses u ∧ z.timer = u.timer ∧ z.drive = u.drive) :
    s.Resynced cause (enterResync cause z) := by
  obtain ⟨-, table', -, -, -, -, port', timer, drive, -⟩ := enterResync_leaves cause idle
  refine ⟨enterResync_diverted idle silent station cfg inputs pending (by rw [table]), ?_, ?_, ?_⟩
  · rw [table', table, cfg, PlanTable.keepOwn_plan, (lawful.keepOwner _).2.1]
  · rw [port', port, counter]
  · rw [timer, drive]
    exact runs

end

/-- A verdict difference in JOINED and LEAVING (R78). -/
theorem reportDifference_judging {z : State} (judging : z.station.state = .joined ∨ z.station.state = .leaving) :
    reportDifference z = enterResync .divergence z := by
  unfold reportDifference
  rcases judging with state | state <;> rw [state]

/-- A refused own CLAIM in JOINED and LEAVING (R79). -/
theorem reportRefused_judging {z : State} (judging : z.station.state = .joined ∨ z.station.state = .leaving) :
    reportRefused z = enterResync .claimRefused z := by
  unfold reportRefused
  rcases judging with state | state <;> rw [state]

/-- The commit of another station's CLAIM on which the verdicts differ (R78, R80). -/
theorem commit_differs {sender : BitVec 5} {c : ChannelId} {e : WireEntry} {s : State} {others refused : Bool}
    (framed : s.engine.framing = .frame) (silent : s.engine.transmission = .none)
    (foreign : sender ≠ BitVec.ofNat 5 s.cfg.address.val) (channel : e.channel = BitVec.ofNat 4 c.val) (rated : e.rating ≠ 0)
    (wire : s.wireRefused (.claim sender e) others = refused)
    (formed : s.engine.verdict = some (if refused then .admits else .refuses)) :
    commit (.claim sender e) others s
      = reportDifference (if refused then s.ended (.claim sender e) else applyClaim (addressOf sender) c e (s.ended (.claim sender e))) := by
  have applies : s.haltCause (.claim sender e) false = none := State.haltCause_foreign (m := .claim sender e) foreign (by intro _ _ _ _ h; cases h) _
  have differs : s.verdictAtCommit (.claim sender e) = some (if refused then .admits else .refuses) := by
    show s.engine.verdict.or _ = _
    rw [formed]
    rfl
  have applied : applyMessage (.claim sender e) refused (s.ended (.claim sender e))
      = if refused then s.ended (.claim sender e) else applyClaim (addressOf sender) c e (s.ended (.claim sender e)) := by
    rw [applyMessage, channel, channelOf?_ofNat]
  rw [commit_received framed silent (claim_acceptable channel rated) applies, wire, applied, differs, stationReport, if_neg nofun, if_pos rfl]

/-- Settles O41. -/
theorem verdictDifferencesLeadToResync : Obligations.VerdictDifferencesLeadToResync := by
  intro sender c e s framed quiet channel rated diverted resynced foreign judging
  obtain ⟨m, hm⟩ : ∃ m : Message, m = .claim sender e := ⟨_, rfl⟩
  have run (refused : Bool) : exec (.claimCommit sender e refused) s = .next (commit m refused s) := by
    rw [hm]
    exact exec_committing quiet (.claim sender e) refused
  obtain ⟨table, channels, sched, station, cfg, port, counter⟩ := s.ended_items m
  obtain ⟨u, passes, keeps, ended⟩ := s.ended_keeps m
  obtain ⟨inputs, pending, engine, timer, drive⟩ : (s.ended m).inputs = s.inputs ∧ (s.ended m).pending = s.pending
      ∧ (s.ended m).engine.transmission = s.engine.transmission ∧ (s.ended m).timer = u.timer ∧ (s.ended m).drive = u.drive := by
    obtain ⟨inputs, -, -, -, -, -, -, pending, -, -, -, -, -, -, -, transmission, -⟩ := keeps
    rw [ended]
    exact ⟨inputs, pending, transmission, rfl, rfl⟩
  refine ⟨fun ⟨silent, other⟩ admitted lawful _ idle judges => ?_, fun ⟨silent, other⟩ refuses released lawful _ idle judges => ?_,
    fun k driving composed message wants request own lawful _ onWire judges => ?_,
    fun refused ⟨silent, other⟩ formed state released => ?_⟩
  · have wire : s.wireRefused (.claim sender e) true = true := by rw [wireRefused_foreign silent]; rfl
    rw [run, hm, commit_differs (refused := true) framed silent other channel rated wire admitted, ← hm, if_pos rfl,
      reportDifference_judging (by rw [station]; exact judges)]
    exact ⟨_, rfl, enterResync_resynced (by rw [sched]; exact idle) (engine.trans silent) station cfg inputs pending table lawful port counter
      ⟨u, passes, timer, drive⟩⟩
  · have wire : s.wireRefused (.claim sender e) false = false := by rw [wireRefused_foreign silent, released, refuses]; rfl
    obtain ⟨station', peers', cfg', inputs', pending', engine'⟩ := applyClaim_keeps (addressOf sender) c e (s.ended m)
    have idle' := applyClaim_idle (a := addressOf sender) (c := c) (e := e) (s := s.ended m) (by rw [sched]; exact idle)
    rw [run, hm, commit_differs (refused := false) framed silent other channel rated wire refuses, ← hm, if_neg nofun,
      reportDifference_judging (by rw [station', station]; exact judges)]
    refine ⟨_, rfl, enterResync_diverted idle' (by rw [engine', engine]; exact silent) (station'.trans station) (cfg'.trans cfg)
      (inputs'.trans inputs) (pending'.trans pending) (by rw [peers', table]), fun absent => ?_⟩
    rw [show applyClaim (addressOf sender) c e (s.ended m) = s.ended m from if_neg (by rw [table, absent]; decide)]
    exact enterResync_resynced (by rw [sched]; exact idle) (engine.trans silent) station cfg inputs pending table lawful port counter
      ⟨u, passes, timer, drive⟩
  · have drives := State.drives_own driving composed message
    have applies : s.haltCause (.claim sender e) true = none := if_neg fun h => nomatch h.2
    have wire : s.wireRefused (.claim sender e) true = true := if_pos drives
    obtain ⟨z, hz⟩ : ∃ z, z = ownCommitted resolveEntry (endTransmission (s.ended m)) := ⟨_, rfl⟩
    have tells : reportCommit k true (s.ended m) = leaveFlight c z := by
      obtain ⟨_, _, target, composer⟩ := k
      subst wants message
      rw [hz]
      rfl
    have applied : applyMessage (.claim sender e) true (s.ended (.claim sender e)) = s.ended (.claim sender e) := by
      rw [applyMessage, channel, channelOf?_ofNat]
      rfl
    have ran : commit m true s = reportRefused (leaveFlight c z) := by
      rw [hm, commit_sent framed drives composed (claim_acceptable channel rated) applies, wire, applied, ← hm, tells]
      rw [hm]
      rfl
    have idle : ∀ d ∈ (leaveFlight c z).sched.queue, d.onWire = false :=
      settle_idle_queue (by rw [hz]; exact resolveEntry_idle)
    have upd := leaveFlight_upd c z
    generalize leaveFlight c z = y at *
    generalize y.channels = after, y.sched.queue = queue at upd
    rw [hz, ownCommitted_resolve] at upd
    have state : y.station = s.station := by rw [upd]; exact station
    rw [run, ran, reportRefused_judging (by rw [state]; exact judges)]
    refine ⟨_, rfl, enterResync_resynced idle ?_ state ?_ ?_ ?_ ?_ lawful ?_ ?_ ⟨u, passes, ?_, ?_⟩⟩
    all_goals rw [upd]
    · exact cfg
    · exact inputs
    · exact pending
    · exact table
    · exact port
    · exact counter
    · exact timer
    · exact drive
  · have wire : s.wireRefused (.claim sender e) refused = refused := by
      rw [wireRefused_foreign silent, released, formed]
      cases refused <;> rfl
    rw [run, hm, commit_differs framed silent other channel rated wire formed, ← hm]
    obtain ⟨z, hz⟩ : ∃ z, z = if refused = true then s.ended m else applyClaim (addressOf sender) c e (s.ended m) := ⟨_, rfl⟩
    have kept : z.station = s.station ∧ z.engine = (s.ended m).engine := by
      obtain ⟨station', -, -, -, -, engine'⟩ := applyClaim_keeps (addressOf sender) c e (s.ended m)
      rw [hz]
      split
      · exact ⟨station, rfl⟩
      · exact ⟨station'.trans station, engine'⟩
    have marked : reportDifference z = { z with station := { z.station with quietStale := true } } := by
      unfold reportDifference
      rw [kept.1, state]
    rw [← hz, marked]
    refine ⟨_, rfl, by rw [kept.1], ?_, ?_, ?_⟩
    · exact (congrArg MessageEngine.framing kept.2).trans (by rw [ended])
    · exact (congrArg MessageEngine.frame kept.2).trans (by rw [ended])
    · exact (congrArg MessageEngine.ending kept.2).trans (by rw [ended])

end Sys2Proof.Machine
end

section
/-! The start of a frame (R65, R66, R89 to R92): selection, the composed record, and the bits that the station pulls. -/

namespace Sys2Proof.Machine

/-! ## The bits of the message that the station drives -/

/-- The station drives the message of `k`: from its SOF on where the SOF is its `own`, and from the first KIND bit on otherwise. -/
def State.Sends (own : Bool) (k : Composed) (s : State) : Prop :=
  s.engine.transmission = .driving ∧ s.sched.composed = some k
    ∧ ∃ n, s.engine.frame.map FrameRecord.elapsed = some n ∧ s.lines.dataDriving = (own || decide (s.bits 1 ≤ n))

section
variable {own : Bool} {k : Composed}

theorem passClocks_sends (d : Nat) (s : State) (h : s.Sends own k) : (passClocks d s).Sends own k := by
  obtain ⟨driving, composed, n, frame, drives⟩ := h
  exact ⟨driving, composed, n, frame, (passClocks_data d s).2.2.trans drives⟩

theorem passData_sends (p : Bool) (d : Nat) (s : State) (h : s.Sends own k) : (passData p d s).Sends own k := by
  obtain ⟨driving, composed, n, frame, drives⟩ := h
  obtain ⟨f, here, rfl⟩ := Option.map_eq_some_iff.mp frame
  refine ⟨driving, composed, f.elapsed + d, ?_, ?_⟩
  · show (s.engine.frame.map fun f => { f with elapsed := f.elapsed + d }).map FrameRecord.elapsed = _
    rw [here]
    rfl
  · show (s.lines.dataDriving || (decide (s.engine.transmission = .driving) && s.engine.frame.any fun f => decide (s.bits 1 ≤ f.elapsed + d)))
        = (own || decide (s.bits 1 ≤ f.elapsed + d))
    rw [drives, driving, here, decide_eq_true rfl, Bool.true_and, Option.any_some, Bool.or_assoc]
    congr 1
    rw [Bool.eq_iff_iff]
    simp only [Bool.or_eq_true, decide_eq_true_eq]
    omega

theorem readMiddle_sends (s : State) (h : s.Sends own k) : (readMiddle s).Sends own k := by
  obtain ⟨driving, composed, n, frame, drives⟩ := h
  have keeps := readMiddle_keeps s
  have same : (readMiddle s).bits 1 = s.bits 1 := by rw [State.bits, readMiddle_cfg]; rfl
  refine ⟨?_, (congrArg Scheduler.composed keeps.sched).trans composed, n, (readMiddle_elapsed s).trans frame, ?_⟩
  · obtain ⟨-, -, -, -, -, -, -, -, -, -, -, -, -, -, -, transmission, -⟩ := keeps
    exact transmission.trans driving
  · rw [readMiddle_lines, same]
    exact drives

theorem passSlots_sends (s : State) (h : s.Sends own k) : (passSlots s).Sends own k := by
  unfold passSlots
  split
  · exact h
  · exact h

theorem advance_sends (d : Nat) (s : State) (h : s.Sends own k) : (advance d s).Sends own k :=
  passSlots_sends _ (passBits_invariant passData_sends readMiddle_sends _ d _ (passClocks_sends d s h))

theorem pullsData_sends (s : State) (f : FrameRecord) (h : s.Sends own k) (frame : s.engine.frame = some f) :
    s.pullsData = ((own || decide (1 ≤ f.elapsed / s.bits 1)) && k.message.wire[f.elapsed / s.bits 1]? == some false) := by
  obtain ⟨driving, composed, n, elapsed, drives⟩ := h
  have positive : 0 < s.bits 1 := by have := s.bits_one; omega
  rw [frame, Option.map_some, Option.some.injEq] at elapsed
  subst elapsed
  unfold State.pullsData
  rw [frame]
  dsimp only
  rw [if_pos driving, composed, Option.any_some, drives]
  congr 2
  exact decide_eq_decide.mpr (by rw [Nat.le_div_iff_mul_le positive, Nat.one_mul])

/-- As time passes the station pulls DATA at the dominant bits of the message that it drives and at no other (R65, R66). -/
theorem State.Sends.pullsAt {s : State} (h : s.Sends own k) (level : s.lines.dataDominant = true) :
    s.PullsAt fun i => (own = true ∨ 1 ≤ i) ∧ k.message.wire[i]? = some false := by
  simpa using State.pullsAt_of (P := fun i => (own || decide (1 ≤ i)) && k.message.wire[i]? == some false) h passData_sends readMiddle_sends passClocks_sends passSlots_sends pullsData_sends
    fun off => absurd (level.symm.trans off) (by decide)

end

/-- The frame record runs on with the time. -/
theorem passBits_elapsed (fuel : Nat) : ∀ (d : Nat) (s : State),
    (passBits fuel d s).engine.frame.map FrameRecord.elapsed = s.engine.frame.map fun f => f.elapsed + d := by
  have time (p : Bool) (d : Nat) (s : State) :
      (passData p d s).engine.frame.map FrameRecord.elapsed = s.engine.frame.map fun f => f.elapsed + d := Option.map_map ..
  induction fuel with
  | zero => exact fun d s => time _ d s
  | succ fuel ih =>
    intro d s
    unfold passBits
    split
    · exact time _ d s
    · next f frame =>
      dsimp only
      split
      · exact time _ d s
      · next beyond =>
        have read := readMiddle_elapsed (passData s.pullsData (s.bits 1 / 2 - f.elapsed % (s.bits 1 / 2)) s)
        rw [time, frame] at read
        obtain ⟨g, here, elapsed⟩ := Option.map_eq_some_iff.mp read
        rw [ih, here, frame, Option.map_some, Option.map_some, elapsed]
        exact congrArg some (by dsimp only; omega)

theorem advance_elapsed (d : Nat) (s : State) :
    (advance d s).engine.frame.map FrameRecord.elapsed = s.engine.frame.map fun f => f.elapsed + d := by
  rw [advance_engine]
  exact passBits_elapsed _ d (passClocks d s)

/-! ## The start of the frame -/

/-- The channel of a request that goes out is IN_FLIGHT (R108). -/
def departing (r : Request) (channels : Vector Channel 12) : Vector Channel 12 :=
  match r.channel? with
  | some c => channels.set c { channels[c] with state := .inFlight }
  | none => channels

theorem driveFrame_eq (pulls : Bool) (k : Composed) (s : State) :
    driveFrame pulls k s
      = { s with
          lines := { s.lines with dataDriving := pulls }
          engine := { s.engine with transmission := .driving, request := some k.request }
          sched := { s.sched with queue := markOnWire k.request s.sched.queue, composed := some k }
          channels := departing k.request s.channels } := by
  unfold driveFrame departing
  cases k.request.channel? <;> rfl

/-- At an opportunity on a recessive line no time passes before the SOF. -/
theorem advanceToGap_of_opportunity {s : State} {gap : Nat} (opportunity : s.opportunity gap = true) (level : s.lines.dataDominant = false) :
    advanceToGap gap s = s := by
  simp only [State.opportunity, Bool.and_eq_true, decide_eq_true_eq] at opportunity
  obtain ⟨⟨⟨⟨idle, reached⟩, -⟩, -⟩, -⟩ := opportunity
  have free : s.endHold = 0 := by
    unfold State.endHold
    split
    · exact if_neg fun h => by rw [idle] at h; exact nomatch h.1
    · rfl
  unfold advanceToGap
  rw [level, free, if_neg (by decide), if_pos reached]

/-- Selection decides what an opportunity brings (R65, R89). -/
theorem exec_startOfFrame {s : State} (opportunity : s.opportunity Config.idleGapBits = true) (level : s.lines.dataDominant = false)
    (quiet : s.fallWaits = false) : exec .startOfFrame s = .next (startFrame s) := by
  show Host.Outcome.next (if (advanceToGap _ (ownFall s)).opportunity _ then startFrame (advanceToGap _ (ownFall s)) else _) = _
  rw [ownFall_none quiet, advanceToGap_of_opportunity opportunity level, if_pos opportunity]

theorem startFrame_sends {s z : State} {k : Composed} (selected : selectMessage s = (z, some k)) :
    startFrame s = driveFrame true k (openFrame (fallData 0 z)) := by
  unfold startFrame
  rw [selected]

theorem startFrame_silent {s z : State} (selected : selectMessage s = (z, none)) : startFrame s = z := by
  unfold startFrame
  rw [selected]

/-- What an own SOF leaves, and the bits that follow it (R65, R66, R90). -/
theorem ownFrame_leaves (k : Composed) (z : State) :
    let t := driveFrame true k (openFrame (fallData 0 z))
    t.sched = { z.sched with queue := markOnWire k.request z.sched.queue, composed := some k }
      ∧ t.engine.transmission = .driving ∧ t.engine.request = some k.request ∧ t.engine.framing = .frame
      ∧ t.engine.frame = some { read := [], elapsed := 0 } ∧ t.engine.accumulator = 0xFF
      ∧ t.lines = { z.lines with
          dataDriving := true, dataDominant := true, dominantTime := 0, dataHold := 0, idleTime := 0 }
      ∧ t = { z with lines := t.lines, engine := t.engine, sched := t.sched, channels := departing k.request z.channels }
      ∧ t.PullsAt fun i => k.message.wire[i]? = some false := by
  intro t
  have eq : t = _ := driveFrame_eq true k (openFrame (fallData 0 z))
  have sends : t.Sends true k := by
    rw [eq]
    exact ⟨rfl, rfl, 0, rfl, rfl⟩
  have pulls := sends.pullsAt (by rw [eq]; rfl)
  simp only [true_or, true_and] at pulls
  clear_value t
  subst eq
  exact ⟨rfl, rfl, rfl, rfl, rfl, rfl, rfl, rfl, pulls⟩

/-! ## Selection -/

theorem selectMessage_announce {s : State} (announces : s.selectable .announce = true) :
    selectMessage s = (s, some (s.composedOf .announce (composeAnnounce s))) := if_pos announces

theorem selectMessage_release {s : State} {c : ChannelId} {cs : List ChannelId} (announces : s.selectable .announce = false)
    (first : s.releases.filter (fun c => s.station.state.permits (.release c)) = c :: cs) :
    selectMessage s = (s, some (s.composedOf (.release c) (.release s.ownSender (BitVec.ofNat 4 c.val)))) := by
  unfold selectMessage
  rw [if_neg (by rw [announces]; decide), first]

/-- What goes out where the CLAIMs have been tried: the one that was placed, or a queued ROLLCALL (R89). -/
def orRollcall : State × Option Composed → State × Option Composed
  | (s, some k) => (s, some k)
  | (s, none) => if s.selectable .rollcall then (s, some (s.composedOf .rollcall (.rollcall s.ownSender))) else (s, none)

/-- Behind the ANNOUNCE and the RELEASEs the CLAIMs are tried, and the ROLLCALL comes last (R89). -/
theorem selectMessage_claims {s : State} (announces : s.selectable .announce = false)
    (none : s.releases.filter (fun c => s.station.state.permits (.release c)) = []) :
    selectMessage s = orRollcall (tryClaims (s.claims.filter fun c => s.station.state.permits (.claim c)) s) := by
  refine (if_neg (by rw [announces]; decide)).trans ?_
  generalize s.releases.filter _ = cs at none ⊢
  subst none
  rfl

/-- The channel of a RELEASE. -/
def Request.released? : Request → Option ChannelId
  | .release c => some c
  | .announce | .claim _ | .rollcall => none

theorem State.releases_eq (s : State) : s.releases = s.sched.queue.filterMap fun e => e.request.released? := rfl

/-- Settles O31. -/
theorem selectionSendsTheMostUrgentRequest : Obligations.SelectionSendsTheMostUrgentRequest := by
  intro s opportunity level quiet own sends
  have run := exec_startOfFrame opportunity level quiet
  have sent {r : Request} {m : Message} {channels : Vector Channel 12} (target : (s.composedOf r m).target = 0)
      (selected : selectMessage s = (s, some (s.composedOf r m))) (departs : departing r s.channels = channels) : sends r m channels := by
    have record : s.composedOf r m = { request := r, message := m, target := 0, station := s.station.state } := by rw [← target]; rfl
    rw [record] at selected
    rw [← departs]
    obtain ⟨sched, driving, request, framing, frame, accumulator, lines, same, pulls⟩ :=
      ownFrame_leaves { request := r, message := m, target := 0, station := s.station.state } s
    exact ⟨_, run.trans (congrArg Host.Outcome.next (startFrame_sends selected)), sched, driving, request, framing, frame, accumulator,
      lines, same, pulls⟩
  refine ⟨fun queued outside => ?_, fun c before after e unqueued outside queue request first => ?_, fun listens queued => ?_⟩
  · refine sent rfl (selectMessage_announce ?_) rfl
    rw [State.selectable, queued]
    rcases outside with state | state | state <;> rw [state] <;> rfl
  · refine sent rfl (selectMessage_release (cs := after.filterMap fun e => e.request.released?) ?_ ?_) rfl
    · rw [State.selectable, unqueued]
      rfl
    · have permitted : s.releases.filter (fun c => s.station.state.permits (.release c)) = s.releases := by
        refine List.filter_eq_self.mpr fun b _ => ?_
        rcases outside with state | state <;> rw [state] <;> rfl
      have ahead : before.filterMap (fun e => e.request.released?) = [] := by
        refine List.filterMap_eq_nil_iff.mpr fun d hd => ?_
        cases here : d.request with
        | release b => exact absurd here (first d hd b)
        | announce | claim | rollcall => rfl
      rw [permitted, State.releases_eq, queue, List.filterMap_append, ahead, List.nil_append, List.filterMap_cons, request]
      rfl
  · have silent : selectMessage s = (s, some (s.composedOf .rollcall (.rollcall s.ownSender))) := by
      rw [selectMessage_claims]
      · have none : s.claims.filter (fun c => s.station.state.permits (.claim c)) = [] :=
          List.filter_eq_nil_iff.mpr fun c _ => by rw [listens]; exact nofun
        rw [none, tryClaims]
        refine if_pos ?_
        rw [State.selectable, queued, listens]
        rfl
      · rw [State.selectable, listens]
        exact Bool.and_false _
      · exact List.filter_eq_nil_iff.mpr fun c _ => by rw [listens]; exact nofun
    exact sent rfl silent rfl

end Sys2Proof.Machine
end

section
/-! The CLAIMs at an opportunity (R89, R92, R108): each is placed or starves, and the first that is placed goes out. -/

namespace Sys2Proof.Machine

/-! ## The CLAIMs that find no fit -/

/-- The CLAIMs of these channels are withdrawn, one after the other, and the channels starve. -/
def starveAll (cs : List ChannelId) (s : State) : State := cs.foldl (fun s c => starve c s) s

theorem starve_get (c d : ChannelId) (s : State) :
    (starve c s).channels[d] = if d = c then { s.channels[d] with state := .starved, starved := true } else s.channels[d] := by
  have marked := mapChannel_get c d (fun ch => { ch with state := .starved, starved := true })
    (s.mapQueue fun q => removeEntries (· == .claim c) q)
  refine Eq.trans marked ?_
  by_cases same : d = c
  · rw [if_pos same, if_pos same, same]
    rfl
  · rw [if_neg same, if_neg same]
    rfl

theorem starve_upd (c : ChannelId) (s : State) :
    starve c s = { s with
      sched := { s.sched with queue := removeEntries (· == .claim c) s.sched.queue }
      channels := (starve c s).channels, port := s.port.post ⟨.channelStarved, .channel c, s.timer.cycleCounter⟩ } := rfl

theorem starve_queue {c : ChannelId} {s : State} (idle : ∀ e ∈ s.sched.queue, e.onWire = false) :
    (starve c s).sched.queue = s.sched.queue.filter fun e => e.request != .claim c := by
  show removeEntries (· == .claim c) s.sched.queue = _
  have each (q : List QueueEntry) (idle : ∀ e ∈ q, e.onWire = false) :
      removeEntries (· == .claim c) q = q.filter fun e => e.request != .claim c := by
    unfold removeEntries
    rw [← List.filterMap_eq_filter]
    refine List.filterMap_congr fun e he => ?_
    by_cases claim : e.request = .claim c
    · simp [claim, idle e he, Option.guard]
    · simp [claim, Option.guard]
  exact each _ idle

theorem starveAll_get (cs : List ChannelId) (d : ChannelId) : ∀ s : State,
    (starveAll cs s).channels[d] = if d ∈ cs then { s.channels[d] with state := .starved, starved := true } else s.channels[d] := by
  induction cs with
  | nil => exact fun _ => rfl
  | cons c cs ih =>
    intro s
    refine (ih (starve c s)).trans ?_
    rw [starve_get]
    by_cases head : d = c
    · rw [if_pos head, if_pos (List.mem_cons.mpr (.inl head))]
      split <;> rfl
    · rw [if_neg head]
      simp only [List.mem_cons, head, false_or]

/-- What starving leaves beside the channels. -/
theorem starveAll_upd (cs : List ChannelId) : ∀ {s : State}, (∀ e ∈ s.sched.queue, e.onWire = false) →
    starveAll cs s = { s with
      sched := { s.sched with queue := s.sched.queue.filter fun e => cs.all fun d => e.request != .claim d }
      channels := (starveAll cs s).channels
      port := cs.foldl (fun p d => p.post ⟨.channelStarved, .channel d, s.timer.cycleCounter⟩) s.port } := by
  induction cs with
  | nil =>
    intro s _
    have all : s.sched.queue.filter (fun e => ([] : List ChannelId).all fun d => e.request != .claim d) = s.sched.queue :=
      List.filter_eq_self.mpr fun _ _ => rfl
    rw [all]
    rfl
  | cons c cs ih =>
    intro s idle
    have queue := starve_queue (c := c) idle
    have rest := ih (s := starve c s) (by rw [queue]; exact fun e he => idle e (List.mem_filter.mp he).1)
    have step : starveAll (c :: cs) s = starveAll cs (starve c s) := rfl
    have both : (s.sched.queue.filter fun e => e.request != .claim c).filter (fun e => cs.all fun d => e.request != .claim d)
        = s.sched.queue.filter fun e => (c :: cs).all fun d => e.request != .claim d := by
      rw [List.filter_filter]
      exact List.filter_congr fun e _ => by rw [List.all_cons, Bool.and_comm]
    rw [queue, both, ← step] at rest
    generalize starveAll (c :: cs) s = t at rest ⊢
    generalize t.channels = channels at rest ⊢
    rw [rest]
    rfl

/-- Whether a CLAIM finds a fit does not depend on what starved before it. -/
theorem composeClaim_starve (c d : ChannelId) (s : State) : composeClaim d (starve c s) = composeClaim d s := by
  have record : (starve c s).channels[d].target = s.channels[d].target ∧ (starve c s).channels[d].rating = s.channels[d].rating := by
    rw [starve_get]
    split <;> exact ⟨rfl, rfl⟩
  unfold composeClaim
  rw [record.1, record.2]
  rfl

/-- The CLAIMs that find no fit starve before the others are tried (R89). -/
theorem tryClaims_starves (starved rest : List ChannelId) : ∀ {s : State}, (∀ d ∈ starved, composeClaim d s = none) →
    tryClaims (starved ++ rest) s = tryClaims rest (starveAll starved s) := by
  induction starved with
  | nil => exact fun _ => rfl
  | cons c cs ih =>
    intro s unfit
    have here : tryClaims (c :: (cs ++ rest)) s = tryClaims (cs ++ rest) (starve c s) := by
      conv_lhs => rw [tryClaims, unfit c (List.mem_cons_self ..)]
    rw [List.cons_append, here]
    exact ih fun d hd => (composeClaim_starve c d s).trans (unfit d (List.mem_cons_of_mem _ hd))

theorem composeClaim_starveAll (cs : List ChannelId) (d : ChannelId) : ∀ s : State, composeClaim d (starveAll cs s) = composeClaim d s := by
  induction cs with
  | nil => exact fun _ => rfl
  | cons c cs ih => exact fun s => (ih (starve c s)).trans (composeClaim_starve c d s)

/-- The channel of a CLAIM. -/
def Request.claimed? : Request → Option ChannelId
  | .claim c => some c
  | .announce | .release _ | .rollcall => none

theorem State.claims_eq (s : State) : s.claims = s.sched.queue.filterMap fun e => e.request.claimed? := rfl

/-! ## The channels that go out -/

theorem departing_claim_get (c d : ChannelId) (channels : Vector Channel 12) :
    (departing (.claim c) channels)[d] = if d = c then { channels[d] with state := .inFlight } else channels[d] := by
  show (channels.set c { channels[c] with state := .inFlight })[d] = _
  rw [Fin.getElem_fin, Vector.getElem_set]
  by_cases same : d = c
  · rw [if_pos same, if_pos (congrArg Fin.val same.symm), same]
  · rw [if_neg same, if_neg fun h => same (Fin.ext h.symm)]
    rfl

/-- Settles O32. -/
theorem claimsArePlacedOrStarve : Obligations.ClaimsArePlacedOrStarve := by
  intro s opportunity level quiet outside unannounced unreleased idle own tried placed left runs sends
  have run := exec_startOfFrame opportunity level quiet
  have announces : s.selectable .announce = false := by
    rw [State.selectable, unannounced]
    rfl
  have releases : s.releases.filter (fun c => s.station.state.permits (.release c)) = [] := by
    have none : s.releases = [] := by
      rw [State.releases_eq]
      refine List.filterMap_eq_nil_iff.mpr fun e he => ?_
      cases request : e.request with
      | release b => exact absurd request (unreleased e he b)
      | announce | claim | rollcall => rfl
    rw [none]
    rfl
  have claims : s.claims.filter (fun c => s.station.state.permits (.claim c)) = tried := by
    rcases outside with state | state
    · have all : s.claims.filter (fun c => s.station.state.permits (.claim c)) = s.claims :=
        List.filter_eq_self.mpr fun _ _ => by rw [state]; rfl
      rw [all]
      exact (if_pos state).symm
    · have none : s.claims.filter (fun c => s.station.state.permits (.claim c)) = [] :=
        List.filter_eq_nil_iff.mpr fun _ _ => by rw [state]; exact nofun
      rw [none]
      exact (if_neg fun joined => by rw [state] at joined; cases joined).symm
  have unfit {d : ChannelId} (h : placed d = none) : composeClaim d s = none := congrArg (Option.map _) h
  have selected := selectMessage_claims announces releases
  rw [claims] at selected
  have leaves (starved : List ChannelId) {k : Composed} {t : State} (went : exec .startOfFrame s = .next t)
      (sent : t = driveFrame true k (openFrame (fallData 0 (starveAll starved s)))) :
      sends starved k t ∧ t.port = starved.foldl (fun p d => p.post ⟨.channelStarved, .channel d, s.timer.cycleCounter⟩) s.port
        ∧ t.channels = departing k.request (starveAll starved s).channels
        ∧ t = { s with lines := t.lines, engine := t.engine, sched := t.sched, channels := t.channels, port := t.port } := by
    obtain ⟨sched, driving, request, framing, frame, accumulator, lines, same, pulls⟩ := ownFrame_leaves k (starveAll starved s)
    rw [← sent] at sched driving request framing frame accumulator lines same pulls
    have upd := starveAll_upd starved idle
    generalize (starveAll starved s).channels = channels at same upd ⊢
    rw [upd] at sched lines same
    refine ⟨⟨sched, driving, request, framing, frame, lines, pulls⟩, ?_, ?_, ?_⟩
    · rw [same]
    · rw [same]
    · generalize t.lines = lines, t.engine = engine, t.sched = sched at same
      rw [same]
  refine ⟨fun starved c after start order unplaced here => ?_, fun unplaced => ?_⟩
  · obtain ⟨m, hm⟩ : ∃ m : Message, m = .claim own
        { channel := BitVec.ofNat 4 c.val, start := BitVec.ofNat 6 start.val
          lengthLess1 := BitVec.ofNat 6 ((s.channels[c].target + 7) / 8 - 1), rating := BitVec.ofNat 10 s.channels[c].rating } := ⟨_, rfl⟩
    have fits : composeClaim c s = some m := by
      rw [hm]
      exact congrArg (Option.map _) here
    have fed : c ∉ starved := fun h => by rw [unplaced c h] at here; cases here
    have target : (starveAll starved s).channels[c] = s.channels[c] := by rw [starveAll_get, if_neg fed]
    have picked : selectMessage s = (starveAll starved s, some ((starveAll starved s).composedOf (.claim c) m)) := by
      rw [selected, order, tryClaims_starves _ _ fun d hd => unfit (unplaced d hd), tryClaims, composeClaim_starveAll, fits]
      rfl
    have record : (starveAll starved s).composedOf (.claim c) m
        = { request := .claim c, message := m, target := s.channels[c].target, station := s.station.state } := by
      rw [← target]
      have state : (starveAll starved s).station = s.station := by rw [starveAll_upd starved idle]
      unfold State.composedOf
      rw [state]
    rw [record] at picked
    have went := run.trans (congrArg Host.Outcome.next (startFrame_sends picked))
    obtain ⟨sent, port, channels, same⟩ := leaves starved went rfl
    refine ⟨_, ⟨went, fun d => ?_, port, same⟩, hm ▸ sent⟩
    rw [channels, departing_claim_get, starveAll_get]
    by_cases other : d = c
    · subst other
      rw [if_pos rfl, if_neg fed, if_neg fed, if_pos rfl]
    · rw [if_neg other, if_neg (c := some c = some d) fun h => other (Option.some.inj h).symm]
  · have exhausted : tryClaims tried s = (starveAll tried s, none) := by
      have all := tryClaims_starves tried [] fun d hd => unfit (unplaced d hd)
      rw [List.append_nil] at all
      exact all
    rw [exhausted] at selected
    unfold orRollcall at selected
    dsimp only at selected
    have upd := starveAll_upd tried idle
    have state : (starveAll tried s).station = s.station := by rw [upd]
    have sender : (starveAll tried s).ownSender = own := by
      unfold State.ownSender
      rw [upd]
    have permitted : (starveAll tried s).station.state.permits .rollcall = true := by
      rw [state]
      rcases outside with h | h <;> rw [h] <;> rfl
    have kept : holds (starveAll tried s).sched.queue .rollcall = holds s.sched.queue .rollcall := by
      rw [Bool.eq_iff_iff, holds_iff, holds_iff, upd]
      dsimp only
      constructor
      · exact fun ⟨e, he, request⟩ => ⟨e, (List.mem_filter.mp he).1, request⟩
      · rintro ⟨e, he, request⟩
        exact ⟨e, List.mem_filter.mpr ⟨he, by rw [request]; exact List.all_eq_true.mpr fun _ _ => rfl⟩, request⟩
    have others (d : ChannelId) : (starveAll tried s).channels[d]
        = if d ∈ tried then { s.channels[d] with state := .starved, starved := true }
          else if none = some d then { s.channels[d] with state := .inFlight } else s.channels[d] := starveAll_get tried d s
    refine ⟨fun queued => ?_, fun unqueued => ?_⟩
    · rw [State.selectable, kept, queued, permitted, if_pos (by decide)] at selected
      have record : (starveAll tried s).composedOf .rollcall (.rollcall (starveAll tried s).ownSender)
          = { request := .rollcall, message := .rollcall own, target := 0, station := s.station.state } := by
        rw [sender]
        unfold State.composedOf
        rw [state]
      rw [record] at selected
      have went := run.trans (congrArg Host.Outcome.next (startFrame_sends selected))
      obtain ⟨sent, port, channels, same⟩ := leaves tried went rfl
      refine ⟨_, ⟨went, fun d => ?_, port, same⟩, sent⟩
      rw [channels]
      exact others d
    · rw [State.selectable, kept, unqueued, Bool.false_and, if_neg (by decide)] at selected
      have went := run.trans (congrArg Host.Outcome.next (startFrame_silent selected))
      generalize starveAll tried s = t at *
      generalize hc : t.channels = channels at upd
      refine ⟨t, ⟨went, others, ?_, ?_⟩, ?_, ?_, ?_⟩
      all_goals subst upd
      · rfl
      · rfl
      · rfl
      · rfl
      · rfl

end Sys2Proof.Machine
end

section
/-! Another station's start of frame that this station joins (R66). -/

namespace Sys2Proof.Machine

/-! ## Selection does not look at the lines and the engine -/

/-- The state with other lines and another engine. -/
def State.onWire (s : State) (l : LineInterface) (e : MessageEngine) : State := { s with lines := l, engine := e }

theorem tryClaims_onWire (l : LineInterface) (e : MessageEngine) (cs : List ChannelId) : ∀ s : State,
    tryClaims cs (s.onWire l e) = ((tryClaims cs s).1.onWire l e, (tryClaims cs s).2) := by
  induction cs with
  | nil => exact fun _ => rfl
  | cons c cs ih =>
    intro s
    have same : composeClaim c (s.onWire l e) = composeClaim c s := rfl
    unfold tryClaims
    rw [same]
    cases composeClaim c s with
    | some m => rfl
    | none => exact ih (starve c s)

theorem orRollcall_onWire (l : LineInterface) (e : MessageEngine) : ∀ r : State × Option Composed,
    orRollcall (r.1.onWire l e, r.2) = ((orRollcall r).1.onWire l e, (orRollcall r).2)
  | (_, some _) => rfl
  | (z, none) => by
    have same : (z.onWire l e).selectable .rollcall = z.selectable .rollcall := rfl
    unfold orRollcall
    dsimp only
    rw [same]
    split
    · rfl
    · rfl

theorem selectMessage_onWire (l : LineInterface) (e : MessageEngine) (s : State) :
    selectMessage (s.onWire l e) = ((selectMessage s).1.onWire l e, (selectMessage s).2) := by
  cases announces : s.selectable .announce with
  | true =>
    rw [selectMessage_announce announces]
    exact selectMessage_announce (s := s.onWire l e) announces
  | false =>
    cases releases : s.releases.filter (fun c => s.station.state.permits (.release c)) with
    | cons c cs =>
      rw [selectMessage_release announces releases]
      exact selectMessage_release (s := s.onWire l e) announces releases
    | nil =>
      rw [selectMessage_claims announces releases, selectMessage_claims (s := s.onWire l e) announces releases]
      exact (congrArg orRollcall (tryClaims_onWire l e _ s)).trans (orRollcall_onWire l e _)

theorem tryClaims_upd (cs : List ChannelId) : ∀ s : State, (tryClaims cs s).1
    = { s with sched := (tryClaims cs s).1.sched, channels := (tryClaims cs s).1.channels, port := (tryClaims cs s).1.port } := by
  induction cs with
  | nil => exact fun _ => rfl
  | cons c cs ih =>
    intro s
    unfold tryClaims
    split
    · rfl
    · exact ih (starve c s)

/-- Selection leaves all but the queue, the channels and the events (R89, R92). -/
theorem selectMessage_upd (s : State) : (selectMessage s).1
    = { s with sched := (selectMessage s).1.sched, channels := (selectMessage s).1.channels, port := (selectMessage s).1.port } := by
  have fallback (r : State × Option Composed) : (orRollcall r).1 = r.1 := by
    obtain ⟨z, _ | k⟩ := r
    · unfold orRollcall
      dsimp only
      split
      · rfl
      · rfl
    · rfl
  cases announces : s.selectable .announce with
  | true => rw [selectMessage_announce announces]
  | false =>
    cases releases : s.releases.filter (fun c => s.station.state.permits (.release c)) with
    | cons c cs => rw [selectMessage_release announces releases]
    | nil =>
      rw [selectMessage_claims announces releases, fallback]
      exact tryClaims_upd _ s

/-! ## The frame that is joined -/

/-- The lines behind another station's SOF. -/
def State.fallen (s : State) (hold : Nat) : LineInterface :=
  { s.lines with dataDominant := true, dominantTime := 0, dataHold := hold, idleTime := 0 }

/-- The engine at the beginning of a frame. -/
def State.opened (s : State) : MessageEngine :=
  { s.engine with
    framing := .frame, frame := some { read := [], elapsed := 0 }, accumulator := 0xFF, objection := none, verdict := none }

theorem joinFrame_receives {hold : Nat} {s : State} (selected : (selectMessage s).2 = none) :
    joinFrame hold s = (selectMessage s).1.onWire (s.fallen hold) s.opened := by
  have run : joinFrame hold s = match selectMessage (s.onWire (s.fallen hold) s.opened) with
      | (s, none) => s
      | (s, some k) => driveFrame false k s := rfl
  rw [run, selectMessage_onWire, selected]

theorem joinFrame_sends {hold : Nat} {k : Composed} {s : State} (selected : (selectMessage s).2 = some k) :
    joinFrame hold s = driveFrame false k ((selectMessage s).1.onWire (s.fallen hold) s.opened) := by
  have run : joinFrame hold s = match selectMessage (s.onWire (s.fallen hold) s.opened) with
      | (s, none) => s
      | (s, some k) => driveFrame false k s := rfl
  rw [run, selectMessage_onWire, selected]

/-- What a joined SOF leaves, and the bits that follow it (R66, R90). -/
theorem joinedFrame_leaves (hold : Nat) (k : Composed) (s : State) :
    let t := driveFrame false k ((selectMessage s).1.onWire (s.fallen hold) s.opened)
    t.engine = { s.opened with transmission := .driving, request := some k.request }
      ∧ t.lines = { s.fallen hold with dataDriving := false }
      ∧ t.sched.composed = some k
      ∧ t = { s with lines := t.lines, engine := t.engine, sched := t.sched, channels := t.channels, port := t.port }
      ∧ (∀ d : Nat, (advance d t).lines.dataDriving = true ↔ bitPeriods s.cfg.rateCode.val ≤ d)
      ∧ t.PullsAt fun i => 1 ≤ i ∧ k.message.wire[i]? = some false := by
  intro t
  have eq : t = _ := driveFrame_eq false k ((selectMessage s).1.onWire (s.fallen hold) s.opened)
  have upd := selectMessage_upd s
  have bit : s.bits 1 = bitPeriods s.cfg.rateCode.val := Nat.one_mul _
  have positive := s.bits_one
  generalize (selectMessage s).1 = z at eq upd
  clear_value t
  have sends : t.Sends false k := by
    rw [eq]
    refine ⟨rfl, rfl, 0, rfl, ?_⟩
    have later : ¬(z.bits 1 ≤ 0) := by have := z.bits_one; omega
    exact (decide_eq_false later).symm
  have pulls := sends.pullsAt (by rw [eq]; rfl)
  simp only [Bool.false_eq_true, false_or] at pulls
  have frame : t.engine.frame = some { read := [], elapsed := 0 } := by rw [eq]; rfl
  have unset : z.cfg = s.cfg := by rw [upd]
  have cfg : t.cfg = s.cfg := by rw [eq]; exact unset
  refine ⟨?_, ?_, sends.2.1, ?_, fun d => ?_, pulls⟩
  · rw [eq]
    rfl
  · rw [eq]
    rfl
  · generalize z.sched = sched, z.channels = channels, z.port = port at upd
    subst upd eq
    rfl
  · obtain ⟨-, -, n, elapsed, drives⟩ := advance_sends d t sends
    rw [advance_elapsed, frame, Option.map_some, Option.some.injEq, Nat.zero_add] at elapsed
    subst elapsed
    have same : (advance d t).bits 1 = bitPeriods s.cfg.rateCode.val := by
      rw [State.bits, advance_keeps_cfg, cfg, Nat.one_mul]
    rw [drives, Bool.false_or, decide_eq_true_iff, same]

/-- Settles O33. -/
theorem stationsJoinAStartOfFrame : Obligations.StationsJoinAStartOfFrame := by
  intro hold s idle level quiet lines engine joined
  have run : exec .joinStartOfFrame s
      = .next (if (advanceToGap Config.joinGapBits s).opportunity Config.joinGapBits then
          joinFrame (s.bits 1) (advanceToGap Config.joinGapBits s) else dataFall (s.bits 1) s) := by
    show Host.Outcome.next (if (advanceToGap _ (ownFall s)).opportunity _ then joinFrame ((ownFall s).bits 1) (advanceToGap _ (ownFall s))
      else dataFall ((ownFall s).bits 1) (ownFall s)) = _
    rw [ownFall_none quiet]
  have bit : s.bits 1 = bitPeriods s.cfg.rateCode.val := Nat.one_mul _
  have landed (hold : Nat) : dataFall hold s
      = if s.opportunity Config.joinGapBits then joinFrame hold s else openFrame (fallData hold s) := by
    rw [dataFall_of_recessive level]
    unfold landFall
    rw [idle]
  have joins (opportunity : s.opportunity Config.joinGapBits = true) :
      exec .joinStartOfFrame s = .next (joinFrame (bitPeriods s.cfg.rateCode.val) s)
        ∧ exec (.dataFall hold) s = .next (joinFrame hold s) := by
    rw [run, exec_dataFall quiet, landed hold, advanceToGap_of_opportunity opportunity level, if_pos opportunity, if_pos opportunity, bit]
    exact ⟨rfl, rfl⟩
  refine ⟨fun k opportunity selected => ?_, fun opportunity selected => ?_, fun noFrame opportunity => ?_, fun barred guard => ?_⟩
  · obtain ⟨ofRow, ofFall⟩ := joins opportunity
    rw [ofRow, ofFall, joinFrame_sends selected, joinFrame_sends selected]
    exact ⟨⟨_, rfl, joinedFrame_leaves _ k s⟩, ⟨_, rfl, joinedFrame_leaves hold k s⟩⟩
  · obtain ⟨ofRow, ofFall⟩ := joins opportunity
    rw [ofRow, ofFall, joinFrame_receives selected, joinFrame_receives selected]
    exact ⟨rfl, rfl⟩
  · obtain ⟨t, ht⟩ : ∃ t, t = advanceToGap Config.joinGapBits s := ⟨_, rfl⟩
    rw [run, if_pos opportunity, ← ht]
    rw [← ht] at opportunity
    have quiet' : t.fallWaits = false ∧ t.lines.dataDominant = false ∧ t.bits 1 = s.bits 1 := by
      rcases advanceToGap_cases Config.joinGapBits s with same | ⟨d, later⟩
      · rw [ht, same]
        exact ⟨quiet, level, rfl⟩
      · rw [ht, later]
        refine ⟨advance_fallWaits quiet d, ?_, ?_⟩
        · rw [advance_data_of_no_frame noFrame, level]
          rfl
        · rw [State.bits, advance_keeps_cfg]
          rfl
    obtain ⟨still, recessive, bits⟩ := quiet'
    show _ = Host.Outcome.next (if (advanceToGap _ (ownFall t)).opportunity _ then joinFrame ((ownFall t).bits 1) (advanceToGap _ (ownFall t))
      else dataFall ((ownFall t).bits 1) (ownFall t))
    rw [ownFall_none still, advanceToGap_of_opportunity opportunity recessive, if_pos opportunity, bits]
  · have none {t : State} (acquired : t.timer.syncAcquired = s.timer.syncAcquired)
        (transmission : t.engine.transmission = s.engine.transmission) (guard : t.inGuard = s.inGuard) :
        t.opportunity Config.joinGapBits = false := by
      unfold State.opportunity
      rw [acquired, transmission, guard]
      rcases barred with unsynced | guarded | attempt
      · simp [unsynced]
      · simp [guarded]
      · simp [attempt]
    have later : (advanceToGap Config.joinGapBits s).opportunity Config.joinGapBits = false := by
      refine none ?_ ?_ guard.symm
      · rcases advanceToGap_cases Config.joinGapBits s with same | ⟨d, later⟩
        · rw [same]
        · rw [later]
          obtain ⟨-, -, -, -, -, -, -, -, -, -, -, acquired, -⟩ := advance_keeps d s
          exact acquired
      · rcases advanceToGap_cases Config.joinGapBits s with same | ⟨d, later⟩
        · rw [same]
        · rw [later]
          obtain ⟨-, -, -, -, -, -, -, -, -, -, -, -, -, -, -, transmission, -⟩ := advance_keeps d s
          exact transmission
    rw [run, if_neg (by rw [later]; decide), landed, if_neg (by rw [none rfl rfl rfl]; decide), bit]
    rfl

end Sys2Proof.Machine
end

section
/-! The falls of SYNC (R52, R53): which order an edge takes, and the falls that restart nothing. -/

namespace Sys2Proof.Machine

/-! ## An edge with which no outcome falls -/

/-- No outcome of a message falls together with the fall that comes next. -/
def State.Unmet (s : State) (order : List EdgePart) : Prop :=
  ∀ late, EdgePart.outcomeIn (EdgePart.taken order) = some late → s.canMeet late = false

theorem edgeOrder_of_unmet {s : State} {order : List EdgePart} (unmet : s.Unmet order) : EdgePart.outcomeIn (s.edgeOrder order) = none := by
  cases outcome : EdgePart.outcomeIn (EdgePart.taken order) with
  | none => rw [edgeOrder_of_none s outcome, outcome]
  | some late =>
    rw [edgeOrder_of_not_canMeet outcome (unmet late outcome)]
    rfl

theorem fallWith_of_unmet {s : State} {order : List EdgePart} (unmet : s.Unmet order) (hold : Nat) :
    fallWith hold (s.edgeOrder order) s = takeFall hold (s.edgeOrder order) .none s :=
  fallWith_of_none hold s (edgeOrder_of_unmet unmet)

/-- Outside a frame no outcome falls together with a fall of SYNC (R77). -/
theorem State.unmet_of_unframed {s : State} (unframed : s.engine.framing ≠ .frame) (order : List EdgePart) : s.Unmet order := fun late _ => by
  unfold State.canMeet
  rw [decide_eq_false unframed, Bool.false_and]

/-! ## The falls that are not valid -/

theorem fallIsValid_stopped {s : State} (stopped : s.timer.running = false) : s.fallIsValid = false := by
  unfold State.fallIsValid
  rw [stopped, Bool.false_and]

theorem takeFall_invalid {hold : Nat} {order : List EdgePart} {handOffs : HandOffs} {s : State} (invalid : s.fallIsValid = false) :
    takeFall hold order handOffs s = fallSync hold s := if_neg (by rw [invalid]; decide)

theorem advanceToRise_high {s : State} (high : s.lines.syncLow = false) : advanceToRise s = s := if_neg (by rw [high]; decide)

theorem advanceToRise_low {s : State} (low : s.lines.syncLow = true) : advanceToRise s = advance s.lines.syncHold s := if_pos low

theorem State.fallWaits_released {s : State} (released : s.lines.syncDriving = false) : s.fallWaits = false := by
  unfold State.fallWaits
  rw [released, Bool.false_and]

theorem State.fallWaits_low {s : State} (low : s.lines.syncLow = true) : s.fallWaits = false := by
  unfold State.fallWaits
  rw [low]
  exact Bool.and_false _

/-- A line that this station's own pulse holds does not rise. -/
theorem advance_pulsing {s : State} (driving : s.lines.syncDriving = true) (low : s.lines.syncLow = true) (d : Nat) :
    (advance d s).lines.syncLow = true := by
  rw [advance_syncLow, driving, low]
  rfl

/-- SYNC_EDGE is the fall of a line that is high by then. -/
theorem exec_syncEdge_falls {s t : State} {hold : Nat} {order : List EdgePart} (reached : (if s.fallWaits then s else advanceToFall s) = t)
    (high : t.lines.syncLow = false) : exec (.syncEdge hold order) s = .next (fallWith hold (t.edgeOrder order) t) := by
  subst reached
  exact congrArg Host.Outcome.next (if_neg (by rw [high]; decide))

/-- A fall of SYNC at a stopped timer restarts the measures alone (R52). -/
theorem exec_syncEdge_stopped {s : State} {hold : Nat} {order : List EdgePart} (released : s.lines.syncDriving = false)
    (rises : (advanceToRise s).lines.syncLow = false) (stopped : s.timer.running = false)
    (same : (advanceToRise s).timer.running = false) (unframed : (advanceToRise s).engine.framing ≠ .frame) :
    exec (.syncEdge hold order) s = .next (fallSync hold (advanceToRise s)) := by
  have reached : (if s.fallWaits then s else advanceToFall s) = advanceToRise s := by
    rw [State.fallWaits_released released]
    exact if_neg (c := s.timer.running = true) (by rw [stopped]; decide)
  rw [exec_syncEdge_falls reached rises, fallWith_of_unmet (State.unmet_of_unframed unframed order),
    takeFall_invalid (fallIsValid_stopped same)]

/-- Settles O19. -/
theorem otherFallsOfSyncRestartNothing : Obligations.OtherFallsOfSyncRestartNothing := by
  intro hold order s fallen short
  have invalid : exec (.invalidSyncEdge hold) s
      = .next (if s.fallWaits || (advanceToRise s).lines.syncLow || (advanceToRise s).fallIsValid then s
          else fallSync hold (advanceToRise s)) := rfl
  refine ⟨fun released high => ⟨fun late => ?_, fun running long => ?_, fun stopped unframed => ?_⟩, fun released low => ?_, fun driving => ?_⟩
  · have judged : s.fallIsValid = false := by
      rcases late with stopped | short
      · exact fallIsValid_stopped stopped
      · exact Bool.and_eq_false_iff.mpr (.inr (decide_eq_false (Nat.not_le.mpr short)))
    rw [invalid, advanceToRise_high high, State.fallWaits_released released, high, judged]
    rfl
  · have judged : s.fallIsValid = true := by
      unfold State.fallIsValid
      rw [running, Bool.true_and]
      exact decide_eq_true (Nat.not_lt.mp long)
    rw [invalid, advanceToRise_high high, judged, Bool.or_true]
    rfl
  · have rise := advanceToRise_high high
    rw [exec_syncEdge_stopped released (by rw [rise, high]) stopped (by rw [rise, stopped]) (by rw [rise]; exact unframed), rise]
    rfl
  · have rise := advanceToRise_low low
    have rises : (advance s.lines.syncHold s).lines.syncLow = false := by
      rw [advance_syncLow, released, low]
      simp
    have fresh : (advance s.lines.syncHold s).lines.syncHighTime = 0 := by
      refine (congrArg (·.2.2.2.1) (advance_syncItems s.lines.syncHold s)).trans ?_
      show (s.lines.advanceSync s.lines.syncHold s.counting).syncHighTime = _
      unfold LineInterface.advanceSync
      rw [if_pos low, if_neg (by rw [released]; simp)]
      simp
    have judged : (advance s.lines.syncHold s).fallIsValid = false := by
      unfold State.fallIsValid
      have positive := (advance s.lines.syncHold s).bits_one
      rw [fresh, decide_eq_false, Bool.and_false]
      have : (advance s.lines.syncHold s).bits 16 = 16 * (advance s.lines.syncHold s).bits 1 := by unfold State.bits; omega
      show ¬(advance s.lines.syncHold s).bits 16 ≤ 0
      omega
    refine ⟨advance s.lines.syncHold s, advance_timePasses _ s, rises, ?_, fun stopped unframed => ?_⟩
    · rw [invalid, rise, State.fallWaits_released released, rises, judged]
      rfl
    · rw [exec_syncEdge_stopped released (by rw [rise, rises]) stopped
        (by rw [rise]; exact (advance_running _ s).trans stopped) (by rw [rise, advance_framing]; exact unframed), rise]
      rfl
  · refine ⟨?_, fun low => ?_⟩
    · cases low : s.lines.syncLow with
      | false =>
        have waits : s.fallWaits = true := by
          unfold State.fallWaits
          rw [driving, low]
          rfl
        rw [invalid, waits]
        rfl
      | true =>
        rw [invalid, advanceToRise_low low, advance_pulsing driving low, Bool.or_true]
        rfl
    · have held : (advanceToFall s).lines.syncLow = true := by
        unfold advanceToFall
        split
        · exact advance_pulsing driving low _
        · rw [advanceToRise_low low]
          exact advance_pulsing driving low _
      show Host.Outcome.next (if (if s.fallWaits then s else advanceToFall s).lines.syncLow then s else _) = _
      rw [if_neg (c := s.fallWaits = true) (by rw [State.fallWaits_low low]; decide), if_pos held]

end Sys2Proof.Machine
end

section
/-! A valid SYNC edge (R53, R57): the fall is judged valid, and each block takes its part once, in an order that the manual allows. -/

namespace Sys2Proof.Machine

/-! ## The parts in their order -/

/-- An order of the four blocks' parts alone, each once. -/
def EdgePart.Quiet (order : List EdgePart) : Prop :=
  EdgePart.orderAllowed order = true ∧ EdgePart.outcomeIn order = none

/-- An item that one part alone changes is what that part makes of it. -/
theorem edgeParts_once {h : HandOffs} {α : Type} {f : State → α} {g : α → α} {p : EdgePart} (others : ∀ q, q ≠ p → ∀ s, f (edgePart h q s) = f s)
    (acts : ∀ s, f (edgePart h p s) = g (f s)) : ∀ {order : List EdgePart}, order.Nodup → p ∈ order → ∀ s : State,
      f (order.foldl (fun s q => edgePart h q s) s) = g (f s)
  | q :: qs, distinct, here, s => by
    obtain ⟨once, distinct⟩ := List.nodup_cons.mp distinct
    rw [List.foldl_cons]
    by_cases this : q = p
    · subst this
      rw [← acts]
      exact foldl_keepsOn f qs (fun r hr u => others r (fun same => once (same ▸ hr)) u) _
    · rw [edgeParts_once others acts distinct ((List.mem_cons.mp here).resolve_left fun same => this same.symm), others q this]
where
  foldl_keepsOn {h : HandOffs} {α : Type} (f : State → α) (qs : List EdgePart) (keeps : ∀ q ∈ qs, ∀ s, f (edgePart h q s) = f s) (s : State) :
      f (qs.foldl (fun s q => edgePart h q s) s) = f s := by
    induction qs generalizing s with
    | nil => rfl
    | cons q qs ih =>
      rw [List.foldl_cons, ih (fun r hr => keeps r (List.mem_cons_of_mem _ hr)), keeps q (List.mem_cons_self ..)]

/-! ## The fall -/

/-- SYNC has been high for 16 bit times once the time has passed that its rise and those bits need. -/
theorem advance_untilHigh {s : State} (counting : s.counting = true) (released : s.lines.syncDriving = false) :
    (advance s.untilHigh s).lines.syncLow = false ∧ s.bits Config.syncHighBits ≤ (advance s.untilHigh s).lines.syncHighTime := by
  rw [advance_syncLow, released]
  rw [advance_syncHighTime counting fun low => ⟨released, by unfold State.untilHigh; rw [if_pos low]; omega⟩]
  unfold State.untilHigh
  cases low : s.lines.syncLow
  · exact ⟨rfl, by simp; omega⟩
  · simp

/-- SYNC_EDGE at a running timer, on a line that the own pulse does not hold, is a valid edge after the time in which SYNC stays or gets
high (R52, R53). -/
theorem exec_syncEdge_valid (hold : Nat) (order : List EdgePart) {s : State} (running : s.timer.running = true)
    (configured : s.station.state ≠ .unconfigured)
    (pulse : s.lines.syncDriving = true → s.lines.syncLow = false ∧ 16 * bitPeriods s.cfg.rateCode.val ≤ s.lines.syncHighTime) :
    ∃ t, (t = s ∨ ∃ d, t = advance d s) ∧ (if s.fallWaits then s else advanceToFall s) = t ∧ (s.fallWaits = true → t = s)
      ∧ t.lines.syncLow = false ∧ t.fallIsValid = true ∧ exec (.syncEdge hold order) s = .next (fallWith hold (t.edgeOrder order) t) := by
  have counting : s.counting = true := decide_eq_true configured
  cases waits : s.fallWaits with
  | true =>
    simp only [State.fallWaits, Bool.and_eq_true, Bool.not_eq_true'] at waits
    obtain ⟨driving, high⟩ := waits
    have reached : (if s.fallWaits then s else advanceToFall s) = s := if_pos (by unfold State.fallWaits; rw [driving, high]; rfl)
    refine ⟨s, .inl rfl, rfl, fun _ => rfl, high, ?_, exec_syncEdge_falls reached high⟩
    unfold State.fallIsValid
    rw [running, Bool.true_and]
    exact decide_eq_true (pulse driving).2
  | false =>
    have released : s.lines.syncDriving = false := by
      cases driving : s.lines.syncDriving with
      | false => rfl
      | true =>
        unfold State.fallWaits at waits
        rw [driving, (pulse driving).1] at waits
        cases waits
    obtain ⟨high, long⟩ := advance_untilHigh counting released
    have reached : (if s.fallWaits then s else advanceToFall s) = advance s.untilHigh s := by
      rw [waits]
      exact if_pos (c := s.timer.running = true) running
    refine ⟨advance s.untilHigh s, .inr ⟨_, rfl⟩, ?_, nofun, high, ?_, exec_syncEdge_falls reached high⟩
    · rw [waits] at reached
      exact reached
    · unfold State.fallIsValid
      rw [advance_running, running, Bool.true_and]
      have bits : (advance s.untilHigh s).bits Config.syncHighBits = s.bits Config.syncHighBits := by
        unfold State.bits
        rw [advance_keeps_cfg]
      rw [bits]
      exact decide_eq_true long

/-- The same with which no outcome of a message falls. -/
theorem exec_syncEdge_unmet (hold : Nat) (order : List EdgePart) {s : State} (running : s.timer.running = true)
    (configured : s.station.state ≠ .unconfigured)
    (pulse : s.lines.syncDriving = true → s.lines.syncLow = false ∧ 16 * bitPeriods s.cfg.rateCode.val ≤ s.lines.syncHighTime)
    (unmet : ∀ late, EdgePart.outcomeIn (EdgePart.taken order) = some late →
      s.fallWaits = true ∧ ∀ f, s.engine.frame = some f → f.elapsed < late.instant (s.bits 1)) :
    ∃ t o, (t = s ∨ ∃ d, t = advance d s) ∧ EdgePart.Quiet o
      ∧ exec (.syncEdge hold order) s = .next (o.foldl (fun s q => edgePart .none q s) (edgeTimer (fallSync hold t))) := by
  obtain ⟨t, path, -, same, -, valid, run⟩ := exec_syncEdge_valid hold order running configured pulse
  have away : t.Unmet order := fun late outcome => by
    obtain ⟨waits, early⟩ := unmet late outcome
    rw [same waits]
    unfold State.canMeet
    rw [waits]
    cases frame : s.engine.frame with
    | none => exact Bool.and_false _
    | some f =>
      rw [Option.any_some, decide_eq_false (Nat.not_le.mpr (early f frame))]
      exact Bool.and_false _
  refine ⟨t, t.edgeOrder order, path, ⟨edgeOrder_allowed t order, edgeOrder_of_unmet away⟩, ?_⟩
  rw [run, fallWith_of_unmet away, takeFall, if_pos valid]
  rfl

/-! ## Ageing and expiry -/

/-- The records that an edge finds at the expiry, in ascending order. -/
def PlanTable.due (t : PlanTable) (expiry : Nat) : List Address :=
  allAddresses.filter fun a => t.peers[a].present && decide (expiry ≤ t.peers[a].age)

/-- The plan and the peer table behind an edge (R37). -/
def PlanTable.cycled (cfg : Configuration) (t : PlanTable) : PlanTable :=
  ((t.agePeers.due (3 * cfg.interval)).foldl (PlanTable.expired (3 * cfg.interval)) t.agePeers).evicted cfg.budget

theorem expireAll_table (as : List Address) (s : State) :
    (expireAll as s).table = (as.foldl (PlanTable.expired s.expiry) s.table).evicted s.cfg.budget := by
  obtain ⟨ls, run⟩ := expireRecords_eq_loseEach as s
  have tells (s : State) : (as.foldl (fun s a => postExpiry a s) s).table = s.table :=
    foldl_keeps State.table (fun s a => postExpiry a s) (fun _ _ => rfl) as s
  have removed : (as.foldl (fun s a => expireRecord a s) s).table = as.foldl (PlanTable.expired s.expiry) s.table := by
    rw [run, loseEach_withTable]
  have cfg : (as.foldl (fun s a => expireRecord a s) s).cfg = s.cfg := foldl_keeps State.cfg _ (fun s a => by simp) as s
  unfold expireAll
  dsimp only
  rw [evictAndFree_table _ _ tells, evict_table, removed, cfg]

theorem edgePlan_table (s : State) : (edgePlan s).table = s.table.cycled s.cfg := by
  unfold edgePlan
  dsimp only
  rw [(announceDueTest_frame _).2.2.1, expireAll_table]
  rfl

theorem PlanTable.mem_due {t : PlanTable} {expiry : Nat} {a : Address} :
    a ∈ t.due expiry ↔ t.peers[a].present = true ∧ expiry ≤ t.peers[a].age := by
  unfold PlanTable.due allAddresses
  rw [List.mem_filter, Bool.and_eq_true, decide_eq_true_iff]
  exact ⟨fun h => h.2, fun h => ⟨List.mem_finRange a, h⟩⟩

/-- A PRESENT record is due at an edge where it is a cycle short of the expiry (R37). -/
theorem PlanTable.mem_aged_due {t : PlanTable} {expiry : Nat} {a : Address} :
    a ∈ t.agePeers.due expiry ↔ t.peers[a].present = true ∧ expiry ≤ t.peers[a].age + 1 := by
  rw [PlanTable.mem_due, PlanTable.agePeers_get]
  by_cases present : t.peers[a].present = true
  · rw [if_pos present]
  · rw [if_neg present]
    exact ⟨fun h => absurd h.1 present, fun h => absurd h.1 present⟩

theorem PlanTable.cycled_peers (cfg : Configuration) (t : PlanTable) (a : Address) :
    (t.cycled cfg).peers[a]
      = if t.peers[a].present = true then
          if t.peers[a].age + 1 < 3 * cfg.interval then { t.peers[a] with age := t.peers[a].age + 1 }
          else { t.peers[a] with present := false, age := 3 * cfg.interval }
        else t.peers[a] := by
  unfold PlanTable.cycled
  rw [PlanTable.evicted_peers, PlanTable.expired_peers, PlanTable.agePeers_get]
  simp only [PlanTable.mem_aged_due]
  by_cases present : t.peers[a].present = true
  · by_cases young : t.peers[a].age + 1 < 3 * cfg.interval
    · rw [if_neg fun h => absurd h.2 (Nat.not_le.mpr young), if_pos present, if_pos present, if_pos young]
    · rw [if_pos ⟨present, Nat.not_lt.mp young⟩, if_pos present, if_pos present, if_neg young]
  · rw [if_neg fun h => present h.1, if_neg present, if_neg present]

theorem PlanTable.Lawful.agePeers {t : PlanTable} (lawful : t.Lawful) : t.agePeers.Lawful := lawful.of_eq rfl rfl rfl

/-- Expiries within the budget: exactly the holdings of the owners that expire go. -/
theorem PlanTable.Lawful.expired_plan {expiry : Nat} (as : List Address) : ∀ {t : PlanTable}, t.Lawful →
    (as.foldl (PlanTable.expired expiry) t).plan = t.plan.filter fun g => !decide (g.owner ∈ as) := by
  induction as with
  | nil => exact fun _ => (List.filter_eq_self.mpr fun _ _ => by simp).symm
  | cons a as ih =>
    intro t lawful
    have first : (t.expired expiry a).plan = t.plan.filter fun g => decide (g.owner ≠ a) := (lawful.without a expiry).2
    rw [List.foldl_cons, ih (t := t.expired expiry a) (lawful.without a expiry).1, first, List.filter_filter]
    refine List.filter_congr fun g _ => ?_
    rw [Bool.eq_iff_iff]
    simp only [Bool.and_eq_true, Bool.not_eq_true', decide_eq_false_iff_not, decide_eq_true_iff, List.mem_cons, not_or]
    exact and_comm

theorem PlanTable.WithinBudget.expired {expiry budget : Nat} (as : List Address) {t : PlanTable} (within : t.WithinBudget budget) :
    (as.foldl (PlanTable.expired expiry) t).WithinBudget budget :=
  List.foldlRecOn as _ within fun _ h a _ => PlanTable.WithinBudget.without h a expiry

theorem PlanTable.WithinBudget.evicted {t : PlanTable} {budget : Nat} (within : t.WithinBudget budget) : t.evicted budget = t := by
  have same := evict_table { State.reset with table := t, cfg := { State.reset.cfg with budget := budget } }
  rw [evict_within (by exact within)] at same
  exact same.symm

theorem PlanTable.Lawful.cycled_plan {t : PlanTable} {cfg : Configuration} (lawful : t.Lawful) (within : t.WithinBudget cfg.budget) :
    (t.cycled cfg).plan
      = t.plan.filter fun g => !(t.peers[g.owner].present && decide (3 * cfg.interval ≤ t.peers[g.owner].age + 1)) := by
  have aged : t.agePeers.WithinBudget cfg.budget := within
  unfold PlanTable.cycled
  rw [(aged.expired _).evicted, lawful.agePeers.expired_plan]
  refine List.filter_congr fun g _ => ?_
  rw [Bool.eq_iff_iff]
  simp [PlanTable.mem_aged_due]

/-! ## The items that one block alone changes -/

theorem EdgePart.Quiet.mem {order : List EdgePart} (quiet : EdgePart.Quiet order) {p : EdgePart} (block : p ∈ EdgePart.blocks) : p ∈ order :=
  (EdgePart.allowed_nodup quiet.1).2 block

theorem EdgePart.Quiet.nodup {order : List EdgePart} (quiet : EdgePart.Quiet order) : order.Nodup := (EdgePart.allowed_nodup quiet.1).1

/-- The plan and the peer table behind an edge with which no outcome falls. -/
theorem quietEdge_table {order : List EdgePart} (quiet : EdgePart.Quiet order) (s : State) :
    (order.foldl (fun s q => edgePart .none q s) s).table = s.table.cycled s.cfg := by
  have once := edgeParts_once (h := .none) (f := fun s => (s.table, s.cfg)) (g := fun x => (x.1.cycled x.2, x.2)) (p := .planTable)
    (fun q other s => by
      cases q with
      | planTable => exact absurd rfl other
      | driveUnit | messageEngine | stationController => simp [edgePart]
      | message | attemptReport | stationReport => rfl)
    (fun s => Prod.ext (edgePlan_table s) (edgePlan_frame s).2.1) quiet.nodup (quiet.mem (by decide)) s
  exact congrArg Prod.fst once

/-- Settles O17. -/
theorem syncEdgeAgesAndExpires : Obligations.SyncEdgeAgesAndExpires := by
  intro hold order s running configured pulse none
  obtain ⟨t, o, path, quiet, run⟩ :=
    exec_syncEdge_unmet hold order running configured pulse fun late outcome => by rw [none] at outcome; cases outcome
  have kept : t.table = s.table ∧ t.cfg = s.cfg := by
    rcases path with rfl | ⟨d, rfl⟩
    · exact ⟨rfl, rfl⟩
    · exact ⟨(advance_keeps d s).table, advance_keeps_cfg d s⟩
  have table := quietEdge_table quiet (edgeTimer (fallSync hold t))
  rw [show (edgeTimer (fallSync hold t)).table = s.table from kept.1, show (edgeTimer (fallSync hold t)).cfg = s.cfg from kept.2] at table
  refine ⟨_, run, fun a => ?_, fun lawful within => ?_⟩
  · rw [table]
    exact PlanTable.cycled_peers s.cfg s.table a
  · rw [table]
    exact lawful.cycled_plan within

end Sys2Proof.Machine
end

section
/-! What each block's part of a SYNC edge does to the station, the engine, the queue and the void counter (R53, R57, R64, R77, R97, R137). -/

namespace Sys2Proof.Machine

/-! ## The parts, one after the other -/

/-- What holds while the parts `rest` are still to come holds of none at the end. -/
theorem edgeParts_invariant {h : HandOffs} {I : List EdgePart → State → Prop}
    (part : ∀ p rest s, I (p :: rest) s → I rest (edgePart h p s)) :
    ∀ (order : List EdgePart) (s : State), I order s → I [] (order.foldl (fun s q => edgePart h q s) s)
  | [], _, start => start
  | p :: rest, s, start => edgeParts_invariant part rest (edgePart h p s) (part p rest s start)

/-- What one part brings about, and the others keep, holds behind the edge. -/
theorem edgeParts_establish {h : HandOffs} {A P : State → Prop} {p : EdgePart} (awaits : ∀ q, q ≠ p → ∀ s, A s → A (edgePart h q s))
    (makes : ∀ s, A s → P (edgePart h p s)) (keeps : ∀ q s, P s → P (edgePart h q s)) {order : List EdgePart} (here : p ∈ order)
    {s : State} (start : A s) : P (order.foldl (fun s q => edgePart h q s) s) := by
  have all := edgeParts_invariant (h := h) (I := fun rest s => P s ∨ A s ∧ p ∈ rest) (fun q rest s stands => by
    rcases stands with done | ⟨waits, ahead⟩
    · exact .inl (keeps q s done)
    · by_cases this : q = p
      · exact .inl (this ▸ makes s waits)
      · exact .inr ⟨awaits q this s waits, (List.mem_cons.mp ahead).resolve_left fun same => this same.symm⟩) order s (.inr ⟨start, here⟩)
  exact all.resolve_right fun stands => absurd stands.2 List.not_mem_nil

/-- An item that neither the Plan Table nor the Drive Unit changes, and of the other blocks those alone that are named. -/
theorem edgePart_none_other {q : EdgePart} {α : Type} (f : State → α) (s : State) (plan : f (edgePlan s) = f s) (drive : f (edgeDrive s) = f s)
    (engine : q = .messageEngine → f (edgeEngine s) = f s) (station : q = .stationController → f (edgeStation s) = f s) :
    f (edgePart .none q s) = f s := by
  cases q with
  | planTable => exact plan
  | driveUnit => exact drive
  | messageEngine => exact engine rfl
  | stationController => exact station rfl
  | message | attemptReport | stationReport => rfl

/-! ## The Message Engine -/

theorem edgeEngine_of_attempt {s : State} (framed : s.engine.framing = .frame) (attempt : s.engine.transmission ≠ .none) :
    edgeEngine s = reportVoid .sync (dropFrame s) := by
  rw [edgeEngine_eq, if_neg (by rw [framed]; decide), if_pos ⟨framed, attempt⟩]

theorem edgeEngine_of_silent {s : State} (on : s.engine.framing ≠ .off) (silent : s.engine.transmission = .none) :
    edgeEngine s = dropFrame s := by
  rw [edgeEngine_eq, if_neg on, if_neg fun h => h.2 silent]

/-- A void attempt ends, and counts (R97). -/
theorem reportVoid_upd (cause : Cause) (s : State) :
    reportVoid cause s
      = { s with
          lines := { s.lines with dataDriving := false }
          engine := { s.engine with transmission := .none, request := none }
          channels := (endAttempt s).channels
          sched :=
            { queue := (endAttempt s).sched.queue, composed := none
              voids := if s.sched.voids < 8 then s.sched.voids + 1 else s.sched.voids }
          port := if s.sched.voids = 7 then s.port.post ⟨.txObjected, .cause cause, s.timer.cycleCounter⟩ else s.port } := by
  have upd := endAttempt_upd s
  show countVoid cause (endAttempt s) = _
  rw [countVoid_eq]
  generalize endAttempt s = t at upd ⊢
  generalize t.channels = channels, t.sched.queue = queue at upd ⊢
  subst upd
  rfl

/-! ## The queue behind the end of an attempt -/

theorem endAttempt_queue_cases (s : State) :
    (endAttempt s).sched.queue = returnEntry s.sched.queue ∨ ∃ c, endAttempt s = leaveFlight c s.returned := by
  rw [endAttempt_eq]
  cases s.attemptChannel with
  | none => exact .inl rfl
  | some c => exact .inr ⟨c, rfl⟩

theorem endAttempt_idle (s : State) : ∀ e ∈ (endAttempt s).sched.queue, e.onWire = false := by
  have returned : ∀ e ∈ returnEntry s.sched.queue, e.onWire = false := fun e he => (mem_returnEntry he).1
  rcases endAttempt_queue_cases s with same | ⟨c, told⟩
  · rw [same]
    exact returned
  · rw [told]
    exact settle_idle_queue returned

/-- The entries that are for no channel and stay or return at the end of an attempt. -/
theorem endAttempt_mem_of_no_channel {s : State} {e : QueueEntry} (none : e.request.channel? = none) :
    e ∈ (endAttempt s).sched.queue ↔ e ∈ returnEntry s.sched.queue := by
  rcases endAttempt_queue_cases s with same | ⟨c, told⟩
  · rw [same]
  · rw [told]
    exact settle_mem_of_no_channel c _ none

theorem endAttempt_announces {s : State} (lawful : s.sched.Lawful) (announce : holds s.sched.queue .announce = true) :
    holds (endAttempt s).sched.queue .announce = true := by
  obtain ⟨e, here, request⟩ := (holds_iff _ _).mp announce
  have stays : e.cancel = false := by
    cases cancel : e.cancel with
    | false => rfl
    | true =>
      have removable := (lawful.2.2 e here cancel).2
      rw [request] at removable
      cases removable
  refine (holds_iff _ _).mpr ⟨{ e with onWire := false }, (endAttempt_mem_of_no_channel (by rw [request]; rfl)).mpr ?_, request⟩
  rw [returnEntry_eq, List.mem_filterMap]
  exact ⟨e, here, if_neg (by rw [stays, Bool.and_false]; decide)⟩

/-- A ROLLCALL that entry to JOINED cancelled on the wire is gone behind the end of its attempt (R87). -/
theorem endAttempt_no_rollcall {s : State} (cancelled : ∀ e ∈ s.sched.queue, e.request = .rollcall → e.onWire = true ∧ e.cancel = true) :
    ∀ e ∈ (endAttempt s).sched.queue, e.request ≠ .rollcall := by
  intro e he rollcall
  obtain ⟨-, d, hd, request, cancel, returns⟩ := mem_returnEntry ((endAttempt_mem_of_no_channel (by rw [rollcall]; rfl)).mp he)
  obtain ⟨wire, marked⟩ := cancelled d hd (request.trans rollcall)
  rw [returns wire] at marked
  cases marked

/-! ## The Plan Table -/

theorem expireAll_run (as : List Address) (s : State) :
    ∃ lost, expireAll as s
      = evictAndFree lost (fun s => as.foldl (fun s a => postExpiry a s) s) (as.foldl (fun s a => expireRecord a s) s) := ⟨_, rfl⟩

theorem expireAll_mem_of_no_channel (as : List Address) (s : State) {e : QueueEntry} (none : e.request.channel? = none) :
    e ∈ (expireAll as s).sched.queue ↔ e ∈ s.sched.queue := by
  have loses (l : Bool × ChannelId) (u : State) : (e ∈ (loseHolding l.1 l.2 u).sched.queue) = (e ∈ u.sched.queue) := by
    unfold loseHolding
    dsimp only
    split
    · rfl
    · rw [propext (settle_mem_of_no_channel l.2 _ none)]
      cases l.1
      · rfl
      · rfl
  have each (ls : List (Bool × ChannelId)) (u : State) : (e ∈ (loseEach ls u).sched.queue) = (e ∈ u.sched.queue) :=
    foldl_keeps (fun s => e ∈ s.sched.queue) _ (fun s l => loses l s) ls u
  have noticed (u : State) : (e ∈ (freeingNotice u).sched.queue) = (e ∈ u.sched.queue) := by
    have each (c : ChannelId) (v : State) : (e ∈ (retryStarved c v).sched.queue) = (e ∈ v.sched.queue) := by
      rw [retryStarved_queue]
      split
      · exact propext (mem_offerTo_of_no_channel rfl none)
      · rfl
    rw [freeingNotice]
    exact forChannels_keeps (fun s => e ∈ s.sched.queue) retryStarved each u
  have evicted (u : State) : (e ∈ (evict u).sched.queue) = (e ∈ u.sched.queue) := by
    obtain ⟨ls, run⟩ := evict_eq_loseEach u
    rw [run]
    exact each ls { u with table := u.table.evicted u.cfg.budget }
  have removed : (e ∈ (as.foldl (fun s a => expireRecord a s) s).sched.queue) = (e ∈ s.sched.queue) := by
    obtain ⟨ls, run⟩ := expireRecords_eq_loseEach as s
    rw [run]
    exact each ls { s with table := as.foldl (PlanTable.expired s.expiry) s.table }
  have posts (u : State) : (as.foldl (fun s a => postExpiry a s) u).sched = u.sched :=
    foldl_keeps State.sched (fun s a => postExpiry a s) (fun _ _ => rfl) as u
  obtain ⟨lost, run⟩ := expireAll_run as s
  generalize as.foldl (fun s a => expireRecord a s) s = u at run removed
  rw [run, ← removed]
  exact iff_of_eq (evictAndFree_keeps (fun s => e ∈ s.sched.queue) lost _ u (evicted u) (fun v => by rw [posts]) noticed)

theorem announceDueTest_queue (s : State) :
    (announceDueTest s).sched.queue = s.sched.queue ∨ (announceDueTest s).sched.queue = offerTo s.sched.queue .announce := by
  unfold announceDueTest
  split
  · exact .inr rfl
  · exact .inl rfl

theorem expireAll_idle (as : List Address) {s : State} (idle : ∀ e ∈ s.sched.queue, e.onWire = false) :
    ∀ e ∈ (expireAll as s).sched.queue, e.onWire = false := by
  have removed : ∀ e ∈ (as.foldl (fun s a => expireRecord a s) s).sched.queue, e.onWire = false := by
    obtain ⟨ls, run⟩ := expireRecords_eq_loseEach as s
    rw [run]
    exact List.foldlRecOn ls _ (motive := fun s : State => ∀ e : QueueEntry, e ∈ s.sched.queue → e.onWire = false) idle
      fun _ h _ _ => loseHolding_idle h
  have posts (u : State) : (as.foldl (fun s a => postExpiry a s) u).sched = u.sched :=
    foldl_keeps State.sched (fun s a => postExpiry a s) (fun _ _ => rfl) as u
  obtain ⟨lost, run⟩ := expireAll_run as s
  rw [run]
  generalize as.foldl (fun s a => expireRecord a s) s = u at removed ⊢
  have evicted := evict_idle removed
  unfold evictAndFree
  dsimp only
  split
  · exact freeingNotice_idle (by rw [posts]; exact evicted)
  · rw [posts]
    exact evicted

theorem edgePlan_idle {s : State} (idle : ∀ e ∈ s.sched.queue, e.onWire = false) : ∀ e ∈ (edgePlan s).sched.queue, e.onWire = false := by
  obtain ⟨aged, ha⟩ : ∃ aged, aged = { s with table := s.table.agePeers } := ⟨_, rfl⟩
  have run : edgePlan s = announceDueTest (expireAll aged.dueRecords aged) := by rw [ha]; rfl
  have expired := expireAll_idle aged.dueRecords (s := aged) (by rw [ha]; exact idle)
  rw [run]
  intro e he
  rcases announceDueTest_queue (expireAll aged.dueRecords aged) with same | offered
  · rw [same] at he
    exact expired e he
  · rw [offered] at he
    rcases mem_offerTo he with old | rfl
    · exact expired e old
    · rfl

/-- The Plan Table's part of an edge touches no ROLLCALL, and offers an ANNOUNCE at most. -/
theorem edgePlan_mem_of_no_channel {s : State} {e : QueueEntry} (none : e.request.channel? = none) :
    (e ∈ s.sched.queue → e ∈ (edgePlan s).sched.queue) ∧ (e ∈ (edgePlan s).sched.queue → e ∈ s.sched.queue ∨ e = .fresh .announce) := by
  obtain ⟨aged, ha⟩ : ∃ aged, aged = { s with table := s.table.agePeers } := ⟨_, rfl⟩
  have run : edgePlan s = announceDueTest (expireAll aged.dueRecords aged) := by rw [ha]; rfl
  have expired := expireAll_mem_of_no_channel aged.dueRecords aged none
  have same : aged.sched = s.sched := by rw [ha]
  rw [same] at expired
  rw [run]
  rcases announceDueTest_queue (expireAll aged.dueRecords aged) with same | offered
  · rw [same]
    exact ⟨expired.mpr, fun h => .inl (expired.mp h)⟩
  · rw [offered]
    refine ⟨fun h => ?_, fun h => (mem_offerTo h).imp expired.mp id⟩
    rw [offerTo_announce]
    split
    · exact List.mem_append_left _ (expired.mpr h)
    · exact expired.mpr h

/-! ## The Station Controller -/

/-- The Station Controller's part of an edge: entry to JOINED at the end of a join window, or a change of its own items alone. -/
theorem edgeStation_cases (s : State) :
    (∃ cause, edgeStation s = enterJoined cause { s with station := { s.station with count := s.station.count + 1 } })
      ∨ ∃ station, edgeStation s = { s with station := station } := by
  have window (s : State) : (∃ cause, (if !s.station.opened then openWindow s
      else match State.windowEnd { s with station := { s.station with count := s.station.count + 1 } } with
        | some cause => enterJoined cause { s with station := { s.station with count := s.station.count + 1 } }
        | none => continueWindow { s with station := { s.station with count := s.station.count + 1 } })
          = enterJoined cause { s with station := { s.station with count := s.station.count + 1 } })
      ∨ ∃ station, (if !s.station.opened then openWindow s
      else match State.windowEnd { s with station := { s.station with count := s.station.count + 1 } } with
        | some cause => enterJoined cause { s with station := { s.station with count := s.station.count + 1 } }
        | none => continueWindow { s with station := { s.station with count := s.station.count + 1 } }) = { s with station := station } := by
    split
    · exact .inr ⟨_, rfl⟩
    · split
      · next cause _ => exact .inl ⟨cause, rfl⟩
      · exact .inr ⟨_, rfl⟩
  unfold edgeStation
  cases s.station.state with
  | listen | resync => exact window s
  | unconfigured | joined | leaving | quiet | fault | halt => exact .inr ⟨_, rfl⟩

/-- The window items and the station state behind an edge (R135, R137). -/
def Station.cycled (expiry : Nat) (st : Station) : Station :=
  if st.state = .listen ∨ st.state = .resync then
    if st.opened = false then { st with opened := true }
    else if st.traffic = false ∧ st.rollcall = .earlier then
      { st with state := .joined, cause := .early, opened := false, count := 0, traffic := false, rollcall := .none }
    else if expiry ≤ st.count + 1 then
      { st with state := .joined, cause := .window, opened := false, count := 0, traffic := false, rollcall := .none }
    else { st with count := st.count + 1, traffic := false, rollcall := if st.rollcall = .none then .none else .earlier }
  else st

theorem edgeStation_unopened {s : State} (window : s.station.state = .listen ∨ s.station.state = .resync) (opened : s.station.opened = false) :
    edgeStation s = openWindow s := by
  have opens : (!s.station.opened) = true := by rw [opened]; rfl
  unfold edgeStation
  rcases window with state | state
  · rw [state]
    exact if_pos opens
  · rw [state]
    exact if_pos opens

/-- The Station Controller's part in an open join window (R137). -/
theorem edgeStation_opened {s : State} (window : s.station.state = .listen ∨ s.station.state = .resync) (opened : s.station.opened = true) :
    edgeStation s = match State.windowEnd { s with station := { s.station with count := s.station.count + 1 } } with
      | some cause => enterJoined cause { s with station := { s.station with count := s.station.count + 1 } }
      | none => continueWindow { s with station := { s.station with count := s.station.count + 1 } } := by
  have opens : ¬(!s.station.opened) = true := by rw [opened]; decide
  unfold edgeStation
  rcases window with state | state
  · rw [state]
    exact if_neg opens
  · rw [state]
    exact if_neg opens

theorem continueWindow_station (s : State) :
    (continueWindow s).station
      = { s.station with traffic := false, rollcall := if s.station.rollcall = .none then .none else .earlier } := by
  unfold continueWindow
  dsimp only
  generalize s.station.rollcall = mark
  cases mark <;> rfl

theorem windowEnd_eq (s : State) :
    s.windowEnd = if s.station.traffic = false ∧ s.station.rollcall = .earlier then some .early
      else if s.expiry ≤ s.station.count then some .window else none := by
  unfold State.windowEnd
  refine ite_congr (propext ?_) (fun _ => rfl) fun _ => rfl
  simp

theorem windowEnd_counted (s : State) :
    State.windowEnd { s with station := { s.station with count := s.station.count + 1 } }
      = if s.station.traffic = false ∧ s.station.rollcall = .earlier then some .early
        else if s.expiry ≤ s.station.count + 1 then some .window else none := windowEnd_eq _

theorem edgeStation_station (s : State) : (edgeStation s).station = s.station.cycled s.expiry := by
  unfold Station.cycled
  by_cases window : s.station.state = .listen ∨ s.station.state = .resync
  · rw [if_pos window]
    by_cases opened : s.station.opened = false
    · rw [if_pos opened, edgeStation_unopened window opened]
      rfl
    · rw [if_neg opened, edgeStation_opened window (Bool.not_eq_false _ ▸ opened), windowEnd_counted]
      by_cases early : s.station.traffic = false ∧ s.station.rollcall = .earlier
      · rw [if_pos early, if_pos early]
        dsimp only
        rw [enterJoined_station]
        rfl
      · rw [if_neg early, if_neg early]
        by_cases full : s.expiry ≤ s.station.count + 1
        · rw [if_pos full, if_pos full]
          dsimp only
          rw [enterJoined_station]
          rfl
        · rw [if_neg full, if_neg full]
          dsimp only
          exact continueWindow_station _
  · rw [if_neg window]
    unfold edgeStation
    cases state : s.station.state with
    | listen => exact absurd (.inl state) window
    | resync => exact absurd (.inr state) window
    | unconfigured | joined | leaving | quiet | fault | halt => rfl

theorem settleWaiting_idle {s : State} (idle : ∀ e ∈ s.sched.queue, e.onWire = false) :
    ∀ e ∈ (settleWaiting s).sched.queue, e.onWire = false := by
  unfold settleWaiting forChannels
  refine List.foldlRecOn allChannels _ (motive := fun s : State => ∀ e : QueueEntry, e ∈ s.sched.queue → e.onWire = false) idle
    fun u h c _ => ?_
  show ∀ e ∈ (settleIfWaiting c u).sched.queue, e.onWire = false
  unfold settleIfWaiting
  split
  · exact settle_idle_queue h
  · exact h

theorem enterJoined_idle (cause : Cause) {s : State} (idle : ∀ e ∈ s.sched.queue, e.onWire = false) :
    ∀ e ∈ (enterJoined cause s).sched.queue, e.onWire = false := by
  rw [enterJoined_eq, post_sched]
  refine settleWaiting_idle fun e he => ?_
  rw [enteringJoined_queue] at he
  rcases mem_offerTo he with old | rfl
  · rcases mem_removeEntries.mp old with ⟨here, -⟩ | ⟨d, hd, -, wire, rfl⟩
    · exact idle e here
    · exact absurd ((idle d hd).symm.trans wire) (by decide)
  · rfl

theorem edgeStation_idle {s : State} (idle : ∀ e ∈ s.sched.queue, e.onWire = false) : ∀ e ∈ (edgeStation s).sched.queue, e.onWire = false := by
  rcases edgeStation_cases s with ⟨cause, joins⟩ | ⟨station, stays⟩
  · rw [joins]
    exact enterJoined_idle cause idle
  · rw [stays]
    exact idle

end Sys2Proof.Machine
end

section
/-! A valid SYNC edge with which no outcome falls restarts the cycle, voids an own attempt and moves the join window on (R53, R77, R137). -/

namespace Sys2Proof.Machine

/-! ## The items behind the edge -/

section
variable {order : List EdgePart} (quiet : EdgePart.Quiet order) (s : State)

/-- The state behind the parts of an edge with which no outcome falls. -/
def quietEdge (order : List EdgePart) (s : State) : State := order.foldl (fun s q => edgePart .none q s) s

theorem quietEdge_keeps (order : List EdgePart) : (quietEdge order s).cfg = s.cfg ∧ (quietEdge order s).inputs = s.inputs
    ∧ (quietEdge order s).pending = s.pending ∧ (quietEdge order s).timer = s.timer
    ∧ (quietEdge order s).lines.syncItems = s.lines.syncItems := by
  have part (p : EdgePart) (s : State) :
      (fun s : State => (s.cfg, s.inputs, s.pending, s.timer)) (edgePart .none p s) = (fun s => (s.cfg, s.inputs, s.pending, s.timer)) s :=
    edgePart_none_other (fun s : State => (s.cfg, s.inputs, s.pending, s.timer)) s (by simp) (by simp) (fun _ => by simp) (fun _ => by simp)
  have items := foldl_keeps (fun s : State => (s.cfg, s.inputs, s.pending, s.timer)) _ (fun s p => part p s) order s
  exact ⟨congrArg Prod.fst items, congrArg (·.2.1) items, congrArg (·.2.2.1) items, congrArg (·.2.2.2) items,
    foldl_keeps (fun s => s.lines.syncItems) _ (fun s p => edgePart_syncItems p s) order s⟩

include quiet

theorem quietEdge_station : (quietEdge order s).station = s.station.cycled s.expiry := by
  have once := edgeParts_once (h := .none) (f := fun s : State => (s.station, s.cfg)) (g := fun x => (x.1.cycled (3 * x.2.interval), x.2))
    (p := .stationController)
    (fun q other s => edgePart_none_other (fun s : State => (s.station, s.cfg)) s (by simp) (by simp) (fun _ => by simp)
      fun this => absurd this other)
    (fun s => Prod.ext (edgeStation_station s) (edgeStation_frame s).2.1) quiet.nodup (quiet.mem (by decide)) s
  exact congrArg Prod.fst once

/-- The engine, the driver of DATA, the composed record and the void counter behind the Message Engine's part (R64, R77, R97). -/
def wireCycled (x : MessageEngine × Bool × Option Composed × Nat) : MessageEngine × Bool × Option Composed × Nat :=
  if x.1.framing = .off then x
  else if x.1.framing = .frame ∧ x.1.transmission ≠ .none then
    ({ x.1 with
        framing := .gap, recessiveTime := 0, ending := none, frame := none, objection := none, verdict := none
        transmission := .none, request := none }, false, none, if x.2.2.2 < 8 then x.2.2.2 + 1 else x.2.2.2)
  else
    ({ x.1 with framing := .gap, recessiveTime := 0, ending := none, frame := none, objection := none, verdict := none }, false, x.2.2)

omit quiet in
theorem edgeEngine_wire (s : State) :
    ((edgeEngine s).engine, (edgeEngine s).lines.dataDriving, (edgeEngine s).sched.composed, (edgeEngine s).sched.voids)
      = wireCycled (s.engine, s.lines.dataDriving, s.sched.composed, s.sched.voids) := by
  rw [edgeEngine_eq]
  unfold wireCycled
  split
  · rfl
  · split
    · have upd := reportVoid_upd .sync (dropFrame s)
      generalize reportVoid .sync (dropFrame s) = t at upd ⊢
      generalize (endAttempt (dropFrame s)).channels = channels, (endAttempt (dropFrame s)).sched.queue = queue at upd
      subst upd
      rfl
    · rfl

theorem quietEdge_wire :
    ((quietEdge order s).engine, (quietEdge order s).lines.dataDriving, (quietEdge order s).sched.composed, (quietEdge order s).sched.voids)
      = wireCycled (s.engine, s.lines.dataDriving, s.sched.composed, s.sched.voids) :=
  edgeParts_once (f := fun s : State => (s.engine, s.lines.dataDriving, s.sched.composed, s.sched.voids)) (p := .messageEngine)
    (fun q other s => edgePart_none_other (fun s : State => (s.engine, s.lines.dataDriving, s.sched.composed, s.sched.voids)) s
      (by simp) (by simp) (fun this => absurd this other) (fun _ => by simp))
    edgeEngine_wire quiet.nodup (quiet.mem (by decide)) s

end

/-! ## The on-wire mark -/

theorem edgePart_idle (q : EdgePart) {s : State} (idle : ∀ e ∈ s.sched.queue, e.onWire = false) :
    ∀ e ∈ (edgePart .none q s).sched.queue, e.onWire = false := by
  cases q with
  | planTable => exact edgePlan_idle idle
  | driveUnit =>
    show ∀ e ∈ (edgeDrive s).sched.queue, _
    rw [show (edgeDrive s).sched = s.sched by simp]
    exact idle
  | messageEngine =>
    show ∀ e ∈ (edgeEngine s).sched.queue, _
    rw [edgeEngine_eq]
    split
    · exact idle
    · split
      · rw [reportVoid_upd]
        exact endAttempt_idle (dropFrame s)
      · exact idle
  | stationController => exact edgeStation_idle idle
  | message | attemptReport | stationReport => exact idle

/-- An own message is framed and on the wire. -/
def State.Attempting (s : State) : Prop := s.engine.framing = .frame ∧ s.engine.transmission ≠ .none

theorem edgePart_attempting {q : EdgePart} (other : q ≠ .messageEngine) {s : State} (attempts : s.Attempting) :
    (edgePart .none q s).Attempting := by
  have same : (edgePart .none q s).engine = s.engine :=
    edgePart_none_other State.engine s (by simp) (by simp) (fun this => absurd this other) (fun _ => by simp)
  unfold State.Attempting
  rw [same]
  exact attempts

/-- Behind the edge no entry carries the on-wire mark (R77, R97). -/
theorem quietEdge_idle {order : List EdgePart} (quiet : EdgePart.Quiet order) {s : State}
    (wire : s.Attempting ∨ ∀ e ∈ s.sched.queue, e.onWire = false) : ∀ e ∈ (quietEdge order s).sched.queue, e.onWire = false := by
  rcases wire with attempts | idle
  · refine edgeParts_establish (A := State.Attempting) (P := fun s : State => ∀ e : QueueEntry, e ∈ s.sched.queue → e.onWire = false)
      (p := .messageEngine) (fun q other s h => edgePart_attempting other h) (fun s h => ?_) (fun q s h => edgePart_idle q h)
      (quiet.mem (by decide)) attempts
    show ∀ e ∈ (edgeEngine s).sched.queue, e.onWire = false
    rw [edgeEngine_of_attempt h.1 h.2, reportVoid_upd]
    exact endAttempt_idle (dropFrame s)
  · exact edgeParts_invariant (I := fun _ s => ∀ e : QueueEntry, e ∈ s.sched.queue → e.onWire = false)
      (fun q _ s h => edgePart_idle q h) order s idle

/-! ## The end of a join window -/

/-- The edge ends the join window of the station. -/
def State.WindowEnds (s : State) : Prop := (s.station.cycled s.expiry).state = .joined ∧ s.station.state ≠ .joined

theorem edgeStation_joins {s : State} (ends : s.WindowEnds) :
    ∃ cause, edgeStation s = enterJoined cause { s with station := { s.station with count := s.station.count + 1 } } := by
  obtain ⟨joined, other⟩ := ends
  unfold Station.cycled at joined
  split at joined
  · next window =>
    split at joined
    · exact absurd joined other
    · next opened =>
      rw [edgeStation_opened window (Bool.not_eq_false _ ▸ opened), windowEnd_counted]
      split at joined
      · next early =>
        rw [if_pos early]
        exact ⟨_, rfl⟩
      · next late =>
        split at joined
        · next full =>
          rw [if_neg late, if_pos full]
          exact ⟨_, rfl⟩
        · exact absurd joined other
  · exact absurd joined other

theorem edgePart_windowEnds {q : EdgePart} (other : q ≠ .stationController) {s : State} (ends : s.WindowEnds) :
    (edgePart .none q s).WindowEnds := by
  have same : (edgePart .none q s).station = s.station ∧ (edgePart .none q s).cfg = s.cfg :=
    ⟨edgePart_none_other State.station s (by simp) (by simp) (fun _ => by simp) (fun this => absurd this other),
      edgePart_none_other State.cfg s (by simp) (by simp) (fun _ => by simp) (fun _ => by simp)⟩
  unfold State.WindowEnds State.expiry
  rw [same.1, same.2]
  exact ends

theorem edgePart_queueLawful (q : EdgePart) {s : State} (lawful : s.sched.Lawful) : (edgePart .none q s).sched.Lawful :=
  (edgePart_changes HandOffs.Arises.none.changing q .refl).keeps kept_queueLawful.edge lawful

theorem edgePart_announces (q : EdgePart) {s : State} (lawful : s.sched.Lawful) (announce : holds s.sched.queue .announce = true) :
    holds (edgePart .none q s).sched.queue .announce = true := by
  obtain ⟨e, here, request⟩ := (holds_iff _ _).mp announce
  cases q with
  | planTable => exact (holds_iff _ _).mpr ⟨e, (edgePlan_mem_of_no_channel (by rw [request]; rfl)).1 here, request⟩
  | driveUnit =>
    show holds (edgeDrive s).sched.queue _ = true
    rw [show (edgeDrive s).sched = s.sched by simp]
    exact announce
  | messageEngine =>
    show holds (edgeEngine s).sched.queue _ = true
    rw [edgeEngine_eq]
    split
    · exact announce
    · split
      · rw [reportVoid_upd]
        exact endAttempt_announces (s := dropFrame s) lawful announce
      · exact announce
  | stationController =>
    show holds (edgeStation s).sched.queue _ = true
    rcases edgeStation_cases s with ⟨cause, joins⟩ | ⟨station, stays⟩
    · rw [joins]
      exact (enterJoined_queue cause _).1
    · rw [stays]
      exact announce
  | message | attemptReport | stationReport => exact announce

/-- Behind the edge that ends a join window an ANNOUNCE is queued (R138). -/
theorem quietEdge_announces {order : List EdgePart} (quiet : EdgePart.Quiet order) {s : State} (lawful : s.sched.Lawful)
    (ends : s.WindowEnds) : holds (quietEdge order s).sched.queue .announce = true := by
  have all := edgeParts_establish (A := fun s => s.sched.Lawful ∧ s.WindowEnds)
    (P := fun s => s.sched.Lawful ∧ holds s.sched.queue .announce = true) (p := .stationController)
    (fun q other s h => ⟨edgePart_queueLawful q h.1, edgePart_windowEnds other h.2⟩)
    (fun s h => ⟨edgePart_queueLawful .stationController h.1, by
      obtain ⟨cause, joins⟩ := edgeStation_joins h.2
      show holds (edgeStation s).sched.queue _ = true
      rw [joins]
      exact (enterJoined_queue cause _).1⟩)
    (fun q s h => ⟨edgePart_queueLawful q h.1, edgePart_announces q h.1 h.2⟩) (quiet.mem (by decide)) (s := s) ⟨lawful, ends⟩
  exact all.2

/-- A ROLLCALL is queued on the wire alone, and cancelled there. -/
def State.RollcallCancelled (s : State) : Prop := ∀ e ∈ s.sched.queue, e.request = .rollcall → e.onWire = true ∧ e.cancel = true

theorem edgePart_rollcallCancelled (q : EdgePart) {s : State} (cancelled : s.RollcallCancelled) : (edgePart .none q s).RollcallCancelled := by
  cases q with
  | planTable =>
    intro e he rollcall
    rcases (edgePlan_mem_of_no_channel (by rw [rollcall]; rfl)).2 he with old | rfl
    · exact cancelled e old rollcall
    · cases rollcall
  | driveUnit =>
    show (edgeDrive s).RollcallCancelled
    unfold State.RollcallCancelled
    rw [show (edgeDrive s).sched = s.sched by simp]
    exact cancelled
  | messageEngine =>
    show (edgeEngine s).RollcallCancelled
    rw [edgeEngine_eq]
    split
    · exact cancelled
    · split
      · rw [reportVoid_upd]
        exact fun e he rollcall => absurd rollcall (endAttempt_no_rollcall (s := dropFrame s) cancelled e he)
      · exact cancelled
  | stationController =>
    show (edgeStation s).RollcallCancelled
    rcases edgeStation_cases s with ⟨cause, joins⟩ | ⟨station, stays⟩
    · rw [joins]
      exact (enterJoined_queue cause _).2
    · rw [stays]
      exact cancelled
  | message | attemptReport | stationReport => exact cancelled

/-- Behind the edge that ends a join window no ROLLCALL is queued (R87, R138). -/
theorem quietEdge_no_rollcall {order : List EdgePart} (quiet : EdgePart.Quiet order) {s : State}
    (wire : s.Attempting ∨ ∀ e ∈ s.sched.queue, e.onWire = false) (ends : s.WindowEnds) :
    ∀ e ∈ (quietEdge order s).sched.queue, e.request ≠ .rollcall := by
  have cancelled := edgeParts_establish (A := State.WindowEnds) (P := State.RollcallCancelled) (p := .stationController)
    (fun q other s h => edgePart_windowEnds other h)
    (fun s h => by
      obtain ⟨cause, joins⟩ := edgeStation_joins h
      show (edgeStation s).RollcallCancelled
      rw [joins]
      exact (enterJoined_queue cause _).2)
    (fun q s h => edgePart_rollcallCancelled q h) (quiet.mem (by decide)) (s := s) ends
  intro e he rollcall
  have idle := quietEdge_idle quiet wire e he
  rw [(cancelled e he rollcall).1] at idle
  cases idle

end Sys2Proof.Machine
end

section
/-! A valid SYNC edge at which no record expires and no join window moves on: the report of a void attempt, its channel and its queue
entry (R77, R97, R109). -/

namespace Sys2Proof.Machine

/-! ## Offers of an ANNOUNCE at the tail -/

/-- What the announce-due test of an edge may have put at the tail of the queue. -/
def Due (due : List QueueEntry) : Prop := due = [] ∨ due = [{ request := .announce, onWire := false, cancel := false }]

theorem offerTo_due {q due : List QueueEntry} (pending : Due due) : ∃ due', Due due' ∧ offerTo (q ++ due) .announce = q ++ due' := by
  rw [offerTo_announce]
  by_cases queued : holds (q ++ due) .announce = false
  · rw [if_pos queued]
    rcases pending with rfl | rfl
    · exact ⟨_, .inr rfl, by rw [List.append_nil]; rfl⟩
    · rw [holds_append] at queued
      simp [holds] at queued
  · rw [if_neg queued]
    exact ⟨due, pending, rfl⟩

/-! ## A calm edge -/

/-- No join window is open or about to open, no slot is over budget, and no record reaches the expiry while the Plan Table's part is among
those to come. -/
def State.CalmBefore (rest : List EdgePart) (s : State) : Prop :=
  rest.Nodup ∧ ¬(s.station.state = .listen ∨ s.station.state = .resync) ∧ s.table.WithinBudget s.cfg.budget
    ∧ (.planTable ∈ rest → ∀ a : Address, s.table.peers[a].present = true → s.table.peers[a].age + 1 < 3 * s.cfg.interval)

theorem edgePlan_of_calm {s : State} (within : s.table.WithinBudget s.cfg.budget)
    (young : ∀ a : Address, s.table.peers[a].present = true → s.table.peers[a].age + 1 < 3 * s.cfg.interval) :
    edgePlan s = announceDueTest { s with table := s.table.agePeers } := by
  obtain ⟨aged, ha⟩ : ∃ aged, aged = { s with table := s.table.agePeers } := ⟨_, rfl⟩
  have none : aged.dueRecords = [] := by
    refine List.eq_nil_iff_forall_not_mem.mpr fun a due => ?_
    have old : a ∈ s.table.agePeers.due (3 * s.cfg.interval) := by rw [ha] at due; exact due
    obtain ⟨present, late⟩ := PlanTable.mem_aged_due.mp old
    have := young a present
    omega
  have run : edgePlan s = announceDueTest (expireAll aged.dueRecords aged) := by rw [ha]; rfl
  have still : expireAll [] aged = aged := by
    show evictAndFree (decide (aged.table.plan.length < aged.table.plan.length)) id aged = aged
    rw [evictAndFree_of_within _ (by rw [ha]; exact within), if_neg (by simp)]
  rw [run, none, still, ha]

theorem edgeStation_of_calm {s : State} (calm : ¬(s.station.state = .listen ∨ s.station.state = .resync)) : edgeStation s = s := by
  unfold edgeStation
  cases state : s.station.state with
  | listen => exact absurd (.inl state) calm
  | resync => exact absurd (.inr state) calm
  | unconfigured | joined | leaving | quiet | fault | halt => rfl

/-- A part other than the Message Engine's changes the plan table, the outputs and the queue alone, and the queue by the offer of an
ANNOUNCE at most, which is none in LEAVING (R39). -/
theorem edgePart_of_calm {q : EdgePart} {rest : List EdgePart} {s : State} (calm : s.CalmBefore (q :: rest)) (other : q ≠ .messageEngine) :
    ∃ table drive queue, edgePart .none q s = { s with table := table, drive := drive, sched := { s.sched with queue := queue } }
      ∧ (queue = s.sched.queue ∨ s.station.state ≠ .leaving ∧ queue = offerTo s.sched.queue .announce)
      ∧ (edgePart .none q s).table.WithinBudget s.cfg.budget ∧ (q = .planTable ∨ table = s.table) := by
  obtain ⟨-, closed, within, young⟩ := calm
  have nothing (h : edgePart .none q s = s) : ∃ table drive queue,
      edgePart .none q s = { s with table := table, drive := drive, sched := { s.sched with queue := queue } }
      ∧ (queue = s.sched.queue ∨ s.station.state ≠ .leaving ∧ queue = offerTo s.sched.queue .announce)
      ∧ (edgePart .none q s).table.WithinBudget s.cfg.budget ∧ (q = .planTable ∨ table = s.table) := by
    rw [h]
    exact ⟨s.table, s.drive, s.sched.queue, rfl, .inl rfl, within, .inr rfl⟩
  cases q with
  | planTable =>
    have run := edgePlan_of_calm within (young (List.mem_cons_self ..))
    have aged : s.table.agePeers.WithinBudget s.cfg.budget := within
    show ∃ table drive queue, edgePlan s = _ ∧ _ ∧ (edgePlan s).table.WithinBudget s.cfg.budget ∧ _
    rw [run]
    unfold announceDueTest
    split
    · next due =>
      refine ⟨s.table.agePeers, s.drive, offerTo s.sched.queue .announce, rfl, .inr ⟨fun leaving => ?_, rfl⟩, aged, .inl rfl⟩
      rw [Bool.and_eq_true, Bool.or_eq_true, decide_eq_true_iff, decide_eq_true_iff] at due
      rcases due.1 with state | state
      · exact absurd (leaving.symm.trans state) (by decide)
      · exact absurd (leaving.symm.trans state) (by decide)
    · exact ⟨s.table.agePeers, s.drive, s.sched.queue, rfl, .inl rfl, aged, .inl rfl⟩
  | driveUnit =>
    obtain ⟨drive, run⟩ : ∃ drive, edgeDrive s = { s with drive := drive } := by
      unfold edgeDrive setOutputs latch
      split
      · exact ⟨_, rfl⟩
      · exact ⟨_, rfl⟩
    have run : edgePart .none .driveUnit s = { s with drive := drive } := run
    rw [run]
    exact ⟨s.table, drive, s.sched.queue, rfl, .inl rfl, within, .inr rfl⟩
  | messageEngine => exact absurd rfl other
  | stationController => exact nothing (edgeStation_of_calm closed)
  | message | attemptReport | stationReport => exact nothing rfl

theorem edgePart_calm {q : EdgePart} {rest : List EdgePart} {s : State} (calm : s.CalmBefore (q :: rest)) :
    (edgePart .none q s).CalmBefore rest := by
  obtain ⟨distinct, closed, within, young⟩ := calm
  obtain ⟨once, distinct'⟩ := List.nodup_cons.mp distinct
  by_cases engine : q = .messageEngine
  · subst engine
    obtain ⟨-, cfg, table, -, -, station, -⟩ := edgeEngine_frame s
    have same : edgePart .none .messageEngine s = edgeEngine s := rfl
    unfold State.CalmBefore
    rw [same, cfg, table, station]
    exact ⟨distinct', closed, within, fun ahead => young (List.mem_cons_of_mem _ ahead)⟩
  · obtain ⟨table, drive, queue, run, -, within', ages⟩ := edgePart_of_calm ⟨distinct, closed, within, young⟩ engine
    have kept : (edgePart .none q s).station = s.station ∧ (edgePart .none q s).cfg = s.cfg ∧ (edgePart .none q s).table = table := by
      rw [run]
      exact ⟨rfl, rfl, rfl⟩
    unfold State.CalmBefore
    rw [kept.1, kept.2.1]
    refine ⟨distinct', closed, within', fun ahead => ?_⟩
    rcases ages with rfl | same
    · exact absurd ahead once
    · rw [kept.2.2, same]
      exact young (List.mem_cons_of_mem _ ahead)

/-! ## The void attempt -/

/-- The port behind a calm edge with an own message on the wire (R97). -/
theorem quietEdge_port {order : List EdgePart} (quiet : EdgePart.Quiet order) {s : State} (attempts : s.Attempting)
    (calm : s.CalmBefore order) :
    (quietEdge order s).port
      = if s.sched.voids = 7 then s.port.post ⟨.txObjected, .cause .sync, s.timer.cycleCounter⟩ else s.port := by
  have all := edgeParts_invariant (h := .none)
    (I := fun rest u => u.CalmBefore rest
      ∧ (EdgePart.messageEngine ∈ rest ∧ u.Attempting ∧ u.sched.voids = s.sched.voids ∧ u.port = s.port ∧ u.timer = s.timer
        ∨ EdgePart.messageEngine ∉ rest
          ∧ u.port = if s.sched.voids = 7 then s.port.post ⟨.txObjected, .cause .sync, s.timer.cycleCounter⟩ else s.port))
    (fun q rest u h => ?_) order s ⟨calm, .inl ⟨quiet.mem (by decide), attempts, rfl, rfl, rfl⟩⟩
  · rcases all.2 with ⟨ahead, -⟩ | ⟨-, port⟩
    · exact absurd ahead List.not_mem_nil
    · exact port
  · obtain ⟨calm, stands⟩ := h
    refine ⟨edgePart_calm calm, ?_⟩
    obtain ⟨once, -⟩ := List.nodup_cons.mp calm.1
    by_cases engine : q = .messageEngine
    · subst engine
      rcases stands with ⟨-, ⟨framed, attempt⟩, voids, port, timer⟩ | ⟨behind, -⟩
      · refine .inr ⟨once, ?_⟩
        show (edgeEngine u).port = _
        rw [edgeEngine_of_attempt framed attempt, reportVoid_upd]
        show (if u.sched.voids = 7 then u.port.post ⟨.txObjected, .cause .sync, u.timer.cycleCounter⟩ else u.port) = _
        rw [voids, port, timer]
      · exact absurd (List.mem_cons_self ..) behind
    · obtain ⟨table, drive, queue, run, -⟩ := edgePart_of_calm calm engine
      rw [run]
      rcases stands with ⟨ahead, attempts, voids, port, timer⟩ | ⟨behind, port⟩
      · exact .inl ⟨(List.mem_cons.mp ahead).resolve_left fun h => engine h.symm, attempts, voids, port, timer⟩
      · exact .inr ⟨fun h => behind (List.mem_cons_of_mem _ h), port⟩

/-- The channels and the queue behind a calm edge with an own message on the wire. `ends` says what the end of the attempt makes of them,
whatever ANNOUNCE is due. -/
theorem quietEdge_returns {order : List EdgePart} (quiet : EdgePart.Quiet order) {s : State} {channels : Vector Channel 12}
    {q : List QueueEntry} (attempts : s.Attempting) (calm : s.CalmBefore order)
    (ends : ∀ (u : State) (due : List QueueEntry), Due due → u.station = s.station → u.engine.request = s.engine.request →
      u.channels = s.channels → u.sched.queue = s.sched.queue ++ due →
        (endAttempt u).channels = channels ∧ (endAttempt u).sched.queue = q ++ due) :
    (quietEdge order s).channels = channels
      ∧ ∃ due, Due due ∧ (s.station.state = .leaving → due = []) ∧ (quietEdge order s).sched.queue = q ++ due := by
  have all := edgeParts_invariant (h := .none)
    (I := fun rest u => u.CalmBefore rest ∧ u.station = s.station ∧ ∃ due, Due due ∧ (s.station.state = .leaving → due = [])
      ∧ (EdgePart.messageEngine ∈ rest ∧ u.Attempting ∧ u.engine.request = s.engine.request ∧ u.channels = s.channels
          ∧ u.sched.queue = s.sched.queue ++ due
        ∨ EdgePart.messageEngine ∉ rest ∧ u.channels = channels ∧ u.sched.queue = q ++ due))
    (fun p rest u h => ?_) order s
    ⟨calm, rfl, [], .inl rfl, fun _ => rfl, .inl ⟨quiet.mem (by decide), attempts, rfl, rfl, (List.append_nil _).symm⟩⟩
  · obtain ⟨-, -, due, pending, none, stands⟩ := all
    rcases stands with ⟨ahead, -⟩ | ⟨-, records, queue⟩
    · exact absurd ahead List.not_mem_nil
    · exact ⟨records, due, pending, none, queue⟩
  · obtain ⟨calm, station, due, pending, none, stands⟩ := h
    obtain ⟨once, -⟩ := List.nodup_cons.mp calm.1
    by_cases engine : p = .messageEngine
    · subst engine
      refine ⟨edgePart_calm calm, (edgeEngine_frame u).2.2.2.2.2.1.trans station, due, pending, none, ?_⟩
      rcases stands with ⟨-, ⟨framed, attempt⟩, request, records, queue⟩ | ⟨behind, -⟩
      · obtain ⟨ended, left⟩ := ends (dropFrame u) due pending station request records queue
        have run : edgePart .none .messageEngine u = _ := (edgeEngine_of_attempt framed attempt).trans (reportVoid_upd ..)
        rw [run]
        exact .inr ⟨once, ended, left⟩
      · exact absurd (List.mem_cons_self ..) behind
    · obtain ⟨table, drive, queue, run, becomes, -⟩ := edgePart_of_calm calm engine
      have calm' := edgePart_calm calm
      obtain ⟨due', pending', none', grows⟩ : ∃ due', Due due' ∧ (s.station.state = .leaving → due' = [])
          ∧ ∀ p : List QueueEntry, u.sched.queue = p ++ due → queue = p ++ due' := by
        rcases becomes with same | ⟨stays, offered⟩
        · exact ⟨due, pending, none, fun p h => same.trans h⟩
        · have apart : ¬s.station.state = .leaving := by rw [← station]; exact stays
          rcases stands with ⟨-, -, -, -, here⟩ | ⟨-, -, here⟩
          · obtain ⟨due', pending', eq⟩ := offerTo_due (q := s.sched.queue) pending
            refine ⟨due', pending', fun h => absurd h apart, fun p h => ?_⟩
            have same : p = s.sched.queue := List.append_cancel_right (h.symm.trans here)
            rw [offered, here, same, eq]
          · obtain ⟨due', pending', eq⟩ := offerTo_due (q := q) pending
            refine ⟨due', pending', fun h => absurd h apart, fun p h => ?_⟩
            have same : p = q := List.append_cancel_right (h.symm.trans here)
            rw [offered, here, same, eq]
      refine ⟨calm', ?_⟩
      rw [run]
      refine ⟨station, due', pending', none', ?_⟩
      rcases stands with ⟨ahead, attempts, request, records, here⟩ | ⟨behind, records, here⟩
      · exact .inl ⟨(List.mem_cons.mp ahead).resolve_left fun h => engine h.symm, attempts, request, records, grows _ here⟩
      · exact .inr ⟨fun h => behind (List.mem_cons_of_mem _ h), records, grows _ here⟩

end Sys2Proof.Machine
end

section
/-! SYNC_EDGE at a running timer, where no outcome of a message falls together with it (R53, R56, R57). -/

namespace Sys2Proof.Machine

/-- The end of an attempt whose CLAIM is cancelled, at a station that may not queue it again (R87, R105, R109). -/
theorem endAttempt_cancelled {s : State} {c : ChannelId} {before after : List QueueEntry} (request : s.engine.request = some (.claim c))
    (flying : s.channels[c].state = .inFlight) (needs : s.channels[c].needsClaim = true) (state : s.station.state = .leaving)
    (queue : s.sched.queue = before ++ { request := .claim c, onWire := true, cancel := true } :: after)
    (others : ∀ e ∈ before ++ after, e.onWire = false ∧ e.request.channel? ≠ some c) :
    (endAttempt s).channels = s.channels.set c { s.channels[c] with state := .waiting } ∧ (endAttempt s).sched.queue = before ++ after := by
  have told : endAttempt s = leaveFlight c s.returned := by
    rw [endAttempt_eq, State.attemptChannel, request]
    rfl
  have returned : s.returned.sched.queue = before ++ after := by
    show returnEntry s.sched.queue = _
    rw [queue, returnEntry_place fun e he => (others e he).1]
    simp
  have gone : holds s.returned.sched.queue (.claim c) = false := by
    refine Bool.eq_false_iff.mpr fun h => ?_
    obtain ⟨e, he, same⟩ := (holds_iff _ _).mp h
    rw [returned] at he
    exact (others e he).2 (by rw [same]; rfl)
  have bars : ¬(holds s.returned.sched.queue (.claim c) || s.returned.station.state.mayQueue (.claim c)) = true := by
    rw [gone, show s.returned.station.state = .leaving from state]
    exact nofun
  have claims : s.returned.channels[c].needs c (.claim c) := .inl ⟨rfl, needs⟩
  rw [told, leaveFlight_channels (s := s.returned) flying claims, leaveFlight_queue (s := s.returned) flying claims, if_neg bars, if_neg bars,
    returned]
  refine ⟨rfl, List.filter_eq_self.mpr fun e he => ?_⟩
  rw [Bool.or_eq_true]
  exact .inr (bne_iff_ne.mpr (others e he).2)

/-- What the time before a valid edge, its fall and the Cycle Timer's part leave for the blocks. -/
theorem edgeStart_items {s t : State} (path : t = s ∨ ∃ d, t = advance d s) (hold : Nat) :
    let z := edgeTimer (fallSync hold t)
    z.inputs = s.inputs ∧ z.cfg = s.cfg ∧ z.table = s.table ∧ z.sched = s.sched ∧ z.channels = s.channels ∧ z.station = s.station
      ∧ z.port = s.port ∧ z.pending = s.pending ∧ z.timer.running = s.timer.running
      ∧ z.timer.cycleCounter = s.timer.cycleCounter + 1 ∧ z.lines.syncDriving = s.lines.syncDriving
      ∧ z.engine.framing = s.engine.framing ∧ z.engine.transmission = s.engine.transmission ∧ z.engine.request = s.engine.request := by
  have keeps : TimeKeeps s t := by
    rcases path with rfl | ⟨d, rfl⟩
    · exact .refl _
    · exact advance_keeps d s
  obtain ⟨inputs, cfg, table, sched, channels, station, port, pending, -, running, counter, -, driving, framing, -, transmission, request, -⟩ :=
    keeps
  exact ⟨inputs, cfg, table, sched, channels, station, port, pending, running, congrArg (· + 1) counter, driving, framing, transmission,
    request⟩

/-- Settles O16. -/
theorem syncEdgeRestartsTheCycle : Obligations.SyncEdgeRestartsTheCycle := by
  intro hold order s running configured pulse framed unmet quietPeers window joins
  obtain ⟨t, o, path, quiet, run⟩ := exec_syncEdge_unmet hold order running configured pulse fun late outcome => by
    obtain ⟨driving, early⟩ := unmet late outcome
    refine ⟨by unfold State.fallWaits; rw [driving, (pulse driving).1]; rfl, fun f frame => ?_⟩
    have bit : s.bits 1 = bitPeriods s.cfg.rateCode.val := Nat.one_mul _
    have := early f frame
    unfold LateOutcome.instant
    rw [bit]
    cases late <;> exact this
  have start := edgeStart_items path hold
  obtain ⟨z, hz⟩ : ∃ z, z = edgeTimer (fallSync hold t) := ⟨_, rfl⟩
  have low : z.lines.syncLow = true ∧ z.lines.syncLowTime = 0 ∧ z.lines.syncHighTime = 0 ∧ z.lines.syncHold = hold := by
    rw [hz]
    exact ⟨rfl, rfl, rfl, rfl⟩
  have restarts : z.timer.localTime = 0 ∧ z.timer.slotIndex = 0 ∧ z.timer.syncAcquired = true := by
    rw [hz]
    exact ⟨rfl, rfl, rfl⟩
  rw [← hz] at run
  have run : exec (.syncEdge hold order) s = .next (quietEdge o z) := run
  simp only [← hz] at start
  clear hz
  obtain ⟨inputs, cfg, table, sched, channels, station, port, pending, runs, counter, driving, framing, transmission, request⟩ := start
  obtain ⟨cfg', inputs', pending', timer, sync⟩ := quietEdge_keeps z o
  have wire := quietEdge_wire quiet z
  have ends := quietEdge_station quiet z
  have expiry : z.expiry = 3 * s.cfg.interval := by
    unfold State.expiry
    rw [cfg]
  rw [station, expiry] at ends
  have attempting (attempt : s.engine.transmission ≠ .none) : z.Attempting := by
    unfold State.Attempting
    rw [framing, transmission]
    exact ⟨framed attempt, attempt⟩
  have marks (lawful : s.WireLawful) : z.Attempting ∨ ∀ e ∈ z.sched.queue, e.onWire = false := by
    by_cases attempt : s.engine.transmission = .none
    · unfold State.WireLawful at lawful
      rw [if_pos attempt] at lawful
      rw [sched]
      exact .inr lawful.2.2
    · exact .inl (attempting attempt)
  have joined {cause : Cause} (closed : window) (becomes : s.station.cycled (3 * s.cfg.interval)
      = { s.station with state := .joined, cause := cause, opened := false, count := 0, traffic := false, rollcall := .none }) :
      joins cause (quietEdge o z) := by
    have windowEnds : z.WindowEnds := by
      unfold State.WindowEnds
      rw [station, expiry, becomes]
      refine ⟨rfl, fun state => ?_⟩
      rcases closed with other | other
      · exact absurd (state.symm.trans other) (by decide)
      · exact absurd (state.symm.trans other) (by decide)
    exact ⟨ends.trans becomes, fun lawful => quietEdge_announces quiet (by rw [sched]; exact lawful) windowEnds,
      fun lawful => quietEdge_no_rollcall quiet (marks lawful) windowEnds⟩
  refine ⟨quietEdge o z, run, ?_, (congrArg (·.2.2.1) sync).trans low.1, (congrArg (·.2.2.2.2.1) sync).trans low.2.1,
    (congrArg (·.2.2.2.1) sync).trans low.2.2.1, (congrArg (·.2.2.2.2.2.1) sync).trans low.2.2.2,
    (congrArg Prod.fst sync).trans driving, fun on => ?_, cfg'.trans cfg, inputs'.trans inputs, pending'.trans pending, fun open' => ?_,
    fun closed fresh => ?_, fun closed opened => ⟨fun quietCycle earlier => ?_, fun late => ⟨fun full => ?_, fun short => ?_⟩⟩,
    fun attempt => ?_⟩
  · rw [timer]
    have goes := runs.trans running
    generalize z.timer = clock at restarts goes counter ⊢
    obtain ⟨running', localTime, slotIndex, cycleCounter, syncAcquired⟩ := clock
    dsimp only at restarts goes counter
    obtain ⟨rfl, rfl, rfl⟩ := restarts
    subst goes counter
    rfl
  · unfold wireCycled at wire
    rw [if_neg (by dsimp only; rw [framing]; exact on)] at wire
    split at wire
    · have engine := congrArg Prod.fst wire
      refine ⟨?_, ?_, ?_, ?_, ?_, ?_, ?_, congrArg (·.2.1) wire⟩
      all_goals exact (congrArg _ engine).trans rfl
    · next silent =>
      have engine := congrArg Prod.fst wire
      dsimp only at engine
      have off : z.engine.transmission = .none := by
        rw [transmission]
        by_contra attempt
        exact silent (attempting attempt)
      refine ⟨?_, ?_, ?_, ?_, ?_, ?_, ?_, congrArg (·.2.1) wire⟩
      all_goals rw [engine]
      exact off
  · rw [ends]
    exact if_neg open'
  · rw [ends, Station.cycled, if_pos closed, if_pos fresh]
  · exact joined closed (by rw [Station.cycled, if_pos closed, if_neg (by rw [opened]; decide), if_pos ⟨quietCycle, earlier⟩])
  · have busy : ¬(s.station.traffic = false ∧ s.station.rollcall = .earlier) := fun ⟨quietCycle, earlier⟩ =>
      late.elim (fun traffic => by rw [quietCycle] at traffic; cases traffic) fun h => h earlier
    exact joined closed (by rw [Station.cycled, if_pos closed, if_neg (by rw [opened]; decide), if_neg busy, if_pos full])
  · have busy : ¬(s.station.traffic = false ∧ s.station.rollcall = .earlier) := fun ⟨quietCycle, earlier⟩ =>
      late.elim (fun traffic => by rw [quietCycle] at traffic; cases traffic) fun h => h earlier
    rw [ends, Station.cycled, if_pos closed, if_neg (by rw [opened]; decide), if_neg busy, if_neg (Nat.not_le.mpr short)]
  · have attempts := attempting attempt
    have calm (away : ¬window) (young : quietPeers) (within : s.table.WithinBudget s.cfg.budget) : z.CalmBefore o := by
      unfold State.CalmBefore
      rw [station, table, cfg]
      exact ⟨quiet.nodup, away, within, fun _ => young⟩
    unfold wireCycled at wire
    dsimp only at wire
    rw [if_neg (by rw [attempts.1]; decide), if_pos (show z.engine.framing = .frame ∧ z.engine.transmission ≠ .none from attempts)] at wire
    refine ⟨congrArg (·.2.2.1) wire, ?_, fun _ => quietEdge_idle quiet (.inl attempts), fun away young within => ?_,
      fun c r cancelled before after away young within asks flying queue others => ⟨fun claim cancels needs state => ?_, fun needs stays => ?_⟩⟩
    · rw [show (quietEdge o z).sched.voids = _ from congrArg (·.2.2.2) wire, sched]
    · rw [quietEdge_port quiet attempts (calm away young within), sched, port, counter]
    · have returns := quietEdge_returns quiet (channels := s.channels.set c { s.channels[c] with state := .waiting }) (q := before ++ after)
        attempts (calm away young within) fun u due pending station' request' channels' queue' => by
          have here : u.channels[c] = s.channels[c] := by rw [channels', channels]
          subst claim cancels
          have ended := endAttempt_cancelled (s := u) (c := c) (before := before) (after := after ++ due)
            (by rw [request', request, asks]) (by rw [here]; exact flying) (by rw [here]; exact needs)
            (by rw [station', station]; exact state) (by rw [queue', sched, queue, List.append_assoc, List.cons_append]) fun e he => by
              rw [← List.append_assoc] at he
              rcases List.mem_append.mp he with old | new
              · exact others e old
              · rcases pending with rfl | rfl
                · cases new
                · rw [List.mem_singleton.mp new]
                  exact ⟨rfl, nofun⟩
          rw [here, channels', channels, ← List.append_assoc] at ended
          exact ended
      obtain ⟨records, due, -, none, left⟩ := returns
      rw [none (by rw [station]; exact state), List.append_nil] at left
      exact ⟨records, left⟩
    · have returns := quietEdge_returns quiet (channels := s.channels.set c { s.channels[c] with state := .queued })
        (q := before ++ { request := r, onWire := false, cancel := false } :: after)
        attempts (calm away young within) fun u due pending station' request' channels' queue' => by
          have here : u.channels[c] = s.channels[c] := by rw [channels', channels]
          subst stays
          have ended := endAttempt_requeues (s := u) (c := c) (r := r) (before := before) (after := after ++ due)
            (by rw [request', request, asks]) (by rw [here]; exact flying) (by rw [here]; exact needs)
            (by rw [queue', sched, queue, List.append_assoc, List.cons_append]) fun e he => by
              rw [← List.append_assoc] at he
              rcases List.mem_append.mp he with old | new
              · exact (others e old).1
              · rcases pending with rfl | rfl
                · cases new
                · rw [List.mem_singleton.mp new]
          rw [here, channels', channels, ← List.cons_append, ← List.append_assoc] at ended
          exact ended
      obtain ⟨records, due, pending, -, left⟩ := returns
      exact ⟨records, due, left, pending⟩

end Sys2Proof.Machine
end

section
/-! A message that is void by objection (R74, R97, R109, R136), away from an edge and together with one. -/

namespace Sys2Proof.Machine

/-! ## The end of an objected message -/

/-- The station transmits a message of the KIND and SENDER of `m`, stopped or not (R68, R70). -/
def State.Sent (s : State) (m : Message) : Prop :=
  ∃ k, s.sched.composed = some k ∧ s.engine.transmission ≠ .none ∧ k.message.kindBits = m.kindBits ∧ k.message.sender = m.sender

/-- The readback of the message that the wire carries ends or stops an own attempt at most. -/
theorem readback_upd (m : Message) (s : State) :
    ∃ driving transmission request channels sched, readback m s = { s with
        lines := { s.lines with dataDriving := driving }
        engine := { s.engine with transmission := transmission, request := request }
        channels := channels, sched := sched }
      ∧ (s.engine.transmission = .none → transmission = .none ∧ channels = s.channels ∧ sched = s.sched)
      ∧ (s.Sent m → transmission ≠ .none ∧ request = s.engine.request ∧ channels = s.channels ∧ sched = s.sched) := by
  unfold readback
  split
  · next silent =>
    exact ⟨_, _, _, _, _, rfl, fun _ => ⟨silent, rfl, rfl⟩, fun ⟨_, _, attempt, _⟩ => absurd silent attempt⟩
  · next attempt =>
    split
    · next none =>
      exact ⟨_, _, _, _, _, rfl, fun silent => absurd silent attempt, fun ⟨_, here, _⟩ => by rw [none] at here; cases here⟩
    · next k composed =>
      split
      · next lost =>
        have upd := endAttempt_upd s
        refine ⟨_, _, _, _, _, upd, fun silent => absurd silent attempt, fun ⟨j, here, _, kind, sender⟩ => ?_⟩
        obtain rfl := Option.some.inj (composed.symm.trans here)
        simp [Message.sameArbitration, kind, sender] at lost
      · split
        · exact ⟨_, _, _, _, _, rfl, fun silent => absurd silent attempt, fun _ => ⟨attempt, rfl, rfl, rfl⟩⟩
        · exact ⟨_, _, _, _, _, rfl, fun silent => absurd silent attempt, fun _ => ⟨nofun, rfl, rfl, rfl⟩⟩

/-- The frame of an objected message has ended, and the report of the attempt is open (R74). -/
theorem readObjected_upd (n : Nat) (m : Message) (check : BitVec 8) (s : State) :
    let u := advanceInFrame n s
    ∃ transmission request channels sched, readObjected n m check s = { u with
        lines := { u.lines with dataDriving := false }
        engine := { u.engine with
          framing := .gap, recessiveTime := 0, ending := some { elapsed := 0, dominant := false }, frame := none
          accumulator := m.check, objection := none, verdict := none, transmission := transmission, request := request }
        channels := channels, sched := sched }
      ∧ (s.engine.transmission = .none → transmission = .none ∧ channels = s.channels ∧ sched = s.sched)
      ∧ (s.Sent m → transmission ≠ .none ∧ request = s.engine.request ∧ channels = s.channels ∧ sched = s.sched) := by
  intro u
  obtain ⟨-, -, -, same, records, -, -, -, -, -, -, -, -, -, -, attempt, asked, -⟩ := advanceInFrame_keeps n s
  obtain ⟨driving, transmission, request, channels, sched, run, silent, sent⟩ := readback_upd m u
  refine ⟨transmission, request, channels, sched, ?_, fun none => ?_, fun ⟨k, composed, attempts, kind, sender⟩ => ?_⟩
  · unfold readObjected
    rw [show readback m (advanceInFrame n s) = _ from run]
    rfl
  · obtain ⟨off, unchanged, queued⟩ := silent (attempt.trans none)
    exact ⟨off, unchanged.trans records, queued.trans same⟩
  · obtain ⟨on, asks, unchanged, queued⟩ := sent ⟨k, by rw [same]; exact composed, by rw [attempt]; exact attempts, kind, sender⟩
    exact ⟨on, asks.trans asked, unchanged.trans records, queued.trans same⟩

theorem reportObjected_silent {s : State} (silent : s.engine.transmission = .none) : reportObjected s = s := if_pos silent

theorem reportObjected_attempt {s : State} (attempt : s.engine.transmission ≠ .none) : reportObjected s = reportVoid .objected s := if_neg attempt

/-- What the report of an objected message leaves as it is (R74, R97). -/
theorem reportObjected_leaves (s : State) : ∃ request channels sched port, reportObjected s = { s with
    lines := { s.lines with dataDriving := (reportObjected s).lines.dataDriving }
    engine := { s.engine with transmission := .none, request := request }, channels := channels, sched := sched, port := port }
      ∧ (s.lines.dataDriving = false → (reportObjected s).lines.dataDriving = false) := by
  by_cases silent : s.engine.transmission = .none
  · rw [reportObjected_silent silent]
    refine ⟨s.engine.request, s.channels, s.sched, s.port, ?_, id⟩
    rw [← silent]
  · rw [reportObjected_attempt silent]
    have upd := reportVoid_upd .objected s
    generalize reportVoid .objected s = t at upd ⊢
    generalize (endAttempt s).channels = channels, (endAttempt s).sched.queue = queue at upd
    subst upd
    exact ⟨_, _, _, _, rfl, fun _ => rfl⟩

theorem windowOpen_iff (s : State) :
    s.windowOpen = true ↔ (s.station.state = .listen ∨ s.station.state = .resync) ∧ s.station.opened = true := by
  unfold State.windowOpen
  rw [Bool.and_eq_true, Bool.or_eq_true, beq_iff_eq, beq_iff_eq]

theorem markTraffic_eq (s : State) : markTraffic s = { s with station := { s.station with traffic := s.station.traffic || s.windowOpen } } := by
  unfold markTraffic
  cases s.windowOpen with
  | true => rw [Bool.or_true]; rfl
  | false => rw [Bool.or_false]; rfl

end Sys2Proof.Machine
end

section
/-! An objected message that a SYNC edge ends (R74, R77): its report stands in any order among the blocks' parts. -/

namespace Sys2Proof.Machine

/-! ## Items that the parts leave -/

/-- An item that neither the Plan Table nor the Drive Unit changes, and of the others those alone that are named. -/
theorem edgePart_objected_other {q : EdgePart} {α : Type} (f : State → α) (s : State) (plan : f (edgePlan s) = f s)
    (drive : f (edgeDrive s) = f s) (engine : q = .messageEngine → f (edgeEngine s) = f s)
    (station : q = .stationController → f (edgeStation s) = f s) (attempt : q = .attemptReport → f (reportObjected s) = f s)
    (report : q = .stationReport → f (markTraffic s) = f s) : f (edgePart .objected q s) = f s := by
  cases q with
  | planTable => exact plan
  | driveUnit => exact drive
  | messageEngine => exact engine rfl
  | stationController => exact station rfl
  | message => rfl
  | attemptReport => exact attempt rfl
  | stationReport => exact report rfl

theorem edgeEngine_of_gap {s : State} (gap : s.engine.framing = .gap) : edgeEngine s = dropFrame s := by
  rw [edgeEngine_eq, if_neg (by rw [gap]; decide), if_neg fun h => by rw [gap] at h; exact nomatch h.1]

/-- The state behind the parts of an edge that an objected message falls together with. -/
def objectedEdge (order : List EdgePart) (s : State) : State := order.foldl (fun s q => edgePart .objected q s) s

theorem objectedEdge_timer (order : List EdgePart) (s : State) : (objectedEdge order s).timer = s.timer :=
  foldl_keeps State.timer _ (fun s q => edgePart_objected_other State.timer s (by simp) (by simp) (fun _ => by simp) (fun _ => by simp)
    (fun _ => by
      obtain ⟨_, _, _, _, run, -⟩ := reportObjected_leaves s
      rw [run]) fun _ => by rw [markTraffic_eq]) order s

/-- END has begun: no frame is on the wire. -/
def State.Ended (s : State) : Prop := s.engine.framing = .gap ∧ s.engine.frame = none

theorem edgePart_ended (q : EdgePart) {s : State} (h : s.Ended) : (edgePart .objected q s).Ended := by
  have same (other : q ≠ .messageEngine) : (fun s : State => (s.engine.framing, s.engine.frame)) (edgePart .objected q s)
      = (fun s : State => (s.engine.framing, s.engine.frame)) s :=
    edgePart_objected_other (fun s : State => (s.engine.framing, s.engine.frame)) s (by simp) (by simp) (fun this => absurd this other)
      (fun _ => by simp) (fun _ => by
        obtain ⟨_, _, _, _, run, -⟩ := reportObjected_leaves s
        rw [run]) fun _ => by rw [markTraffic_eq]
  by_cases engine : q = .messageEngine
  · subst engine
    show (edgeEngine s).Ended
    rw [edgeEngine_of_gap h.1]
    exact ⟨rfl, rfl⟩
  · exact ⟨(congrArg Prod.fst (same engine)).trans h.1, (congrArg Prod.snd (same engine)).trans h.2⟩

theorem objectedEdge_ended (order : List EdgePart) {s : State} (h : s.Ended) : (objectedEdge order s).Ended :=
  edgeParts_invariant (h := .objected) (I := fun _ s => s.Ended) (fun q _ _ h => edgePart_ended q h) order s h

/-- The edge drops END (R64). -/
theorem objectedEdge_ending {order : List EdgePart} (engine : EdgePart.messageEngine ∈ order) {s : State} (h : s.Ended) :
    (objectedEdge order s).engine.ending = none := by
  have all := edgeParts_establish (h := .objected) (A := State.Ended) (P := fun s => s.Ended ∧ s.engine.ending = none) (p := .messageEngine)
    (fun q _ _ h => edgePart_ended q h)
    (fun s h => ⟨edgePart_ended .messageEngine h, by
      show (edgeEngine s).engine.ending = none
      rw [edgeEngine_of_gap h.1]
      rfl⟩)
    (fun q s h => ⟨edgePart_ended q h.1, by
      refine (edgePart_objected_other (fun s : State => s.engine.ending) s (by simp) (by simp) (fun _ => ?_) (fun _ => by simp) (fun _ => ?_)
        fun _ => by rw [markTraffic_eq]).trans h.2
      · rw [edgeEngine_of_gap h.1.1]
        exact h.2.symm
      · obtain ⟨_, _, _, _, run, -⟩ := reportObjected_leaves s
        rw [run]⟩) engine (s := s) h
  exact all.2

/-- The report of the attempt leaves no own message on the wire (R97). -/
theorem objectedEdge_silent {order : List EdgePart} (report : EdgePart.attemptReport ∈ order) {s : State} (h : s.Ended) :
    (objectedEdge order s).engine.transmission = .none := by
  have all := edgeParts_establish (h := .objected) (A := State.Ended) (P := fun s => s.Ended ∧ s.engine.transmission = .none)
    (p := .attemptReport) (fun q _ _ h => edgePart_ended q h)
    (fun s h => ⟨edgePart_ended .attemptReport h, by
      show (reportObjected s).engine.transmission = .none
      obtain ⟨_, _, _, _, run, -⟩ := reportObjected_leaves s
      rw [run]⟩)
    (fun q s h => ⟨edgePart_ended q h.1, by
      refine (edgePart_objected_other (fun s : State => s.engine.transmission) s (by simp) (by simp) (fun _ => ?_) (fun _ => by simp)
        (fun _ => ?_) fun _ => by rw [markTraffic_eq]).trans h.2
      · rw [edgeEngine_of_gap h.1.1]
        rfl
      · rw [reportObjected_silent h.2]⟩) report (s := s) h
  exact all.2

/-! ## The void of the own attempt -/

theorem edgePart_objected_calm {q : EdgePart} {rest : List EdgePart} {s : State} (calm : s.CalmBefore (q :: rest)) :
    (edgePart .objected q s).CalmBefore rest := by
  have block := edgePart_calm calm
  obtain ⟨distinct, closed, within, young⟩ := calm
  have stays {u : State} (station : u.station.state = s.station.state) (table : u.table = s.table) (cfg : u.cfg = s.cfg) : u.CalmBefore rest := by
    unfold State.CalmBefore
    rw [station, table, cfg]
    exact ⟨(List.nodup_cons.mp distinct).2, closed, within, fun ahead => young (List.mem_cons_of_mem _ ahead)⟩
  cases q with
  | planTable | driveUnit | messageEngine | stationController => exact block
  | message => exact stays rfl rfl rfl
  | attemptReport =>
    obtain ⟨_, _, _, _, run, -⟩ := reportObjected_leaves s
    have run : edgePart .objected .attemptReport s = _ := run
    rw [run]
    exact stays rfl rfl rfl
  | stationReport =>
    show (markTraffic s).CalmBefore rest
    rw [markTraffic_eq]
    exact stays rfl rfl rfl

/-- What a calm part other than the report of the attempt leaves of the attempt. -/
theorem edgePart_objected_attempt {q : EdgePart} {rest : List EdgePart} {s : State} (calm : s.CalmBefore (q :: rest)) (gap : s.Ended)
    (other : q ≠ .attemptReport) :
    let view : State → Transmission × Option Composed × Nat × LocalPort × CycleTimer :=
      fun s => (s.engine.transmission, s.sched.composed, s.sched.voids, s.port, s.timer)
    view (edgePart .objected q s) = view s := by
  intro view
  have closed : s.windowOpen = false := Bool.eq_false_iff.mpr fun h => calm.2.1 ((windowOpen_iff s).mp h).1
  cases q with
  | planTable =>
    obtain ⟨_, _, _, run, -⟩ := edgePart_of_calm calm nofun
    have run : edgePart .objected .planTable s = _ := run
    rw [run]
  | driveUnit =>
    obtain ⟨_, _, _, run, -⟩ := edgePart_of_calm calm nofun
    have run : edgePart .objected .driveUnit s = _ := run
    rw [run]
  | messageEngine =>
    show view (edgeEngine s) = _
    rw [edgeEngine_of_gap gap.1]
    rfl
  | stationController =>
    show view (edgeStation s) = _
    rw [edgeStation_of_calm calm.2.1]
  | message => rfl
  | attemptReport => exact absurd rfl other
  | stationReport =>
    show view (markTraffic s) = _
    rw [markTraffic_eq]

/-- The void counter, the composed record and the port behind a calm edge (R97). -/
theorem objectedEdge_voids {order : List EdgePart} (report : EdgePart.attemptReport ∈ order) {s : State} (calm : s.CalmBefore order)
    (ended : s.Ended) (attempt : s.engine.transmission ≠ .none) :
    (objectedEdge order s).sched.voids = (if s.sched.voids < 8 then s.sched.voids + 1 else s.sched.voids)
      ∧ (objectedEdge order s).sched.composed = none
      ∧ (objectedEdge order s).port
        = if s.sched.voids = 7 then s.port.post ⟨.txObjected, .cause .objected, s.timer.cycleCounter⟩ else s.port := by
  have all := edgeParts_invariant (h := .objected)
    (I := fun rest u => u.CalmBefore rest ∧ u.Ended
      ∧ (EdgePart.attemptReport ∈ rest ∧ u.engine.transmission ≠ .none ∧ u.sched.voids = s.sched.voids ∧ u.port = s.port ∧ u.timer = s.timer
        ∨ EdgePart.attemptReport ∉ rest
          ∧ u.sched.voids = (if s.sched.voids < 8 then s.sched.voids + 1 else s.sched.voids) ∧ u.sched.composed = none
          ∧ u.port = if s.sched.voids = 7 then s.port.post ⟨.txObjected, .cause .objected, s.timer.cycleCounter⟩ else s.port))
    (fun q rest u stands => ?_) order s ⟨calm, ended, .inl ⟨report, attempt, rfl, rfl, rfl⟩⟩
  · rcases all.2.2 with ⟨ahead, -⟩ | ⟨-, items⟩
    · exact absurd ahead List.not_mem_nil
    · exact items
  · obtain ⟨calm, ended, stands⟩ := stands
    refine ⟨edgePart_objected_calm calm, edgePart_ended q ended, ?_⟩
    obtain ⟨once, -⟩ := List.nodup_cons.mp calm.1
    by_cases this : q = .attemptReport
    · subst this
      rcases stands with ⟨-, attempt, voids, port, timer⟩ | ⟨behind, -⟩
      · refine .inr ⟨once, ?_⟩
        have run : edgePart .objected .attemptReport u = _ := (reportObjected_attempt attempt).trans (reportVoid_upd ..)
        rw [run]
        dsimp only
        rw [voids, port, timer]
        exact ⟨rfl, rfl, rfl⟩
      · exact absurd (List.mem_cons_self ..) behind
    · have same := edgePart_objected_attempt calm ended this
      have transmission := congrArg Prod.fst same
      have composed := congrArg (·.2.1) same
      have voids := congrArg (·.2.2.1) same
      have port := congrArg (·.2.2.2.1) same
      have timer := congrArg (·.2.2.2.2) same
      dsimp only at transmission composed voids port timer
      rw [transmission, composed, voids, port, timer]
      exact stands.imp (fun ⟨ahead, h⟩ => ⟨(List.mem_cons.mp ahead).resolve_left fun h => this h.symm, h⟩)
        fun ⟨behind, h⟩ => ⟨fun h => behind (List.mem_cons_of_mem _ h), h⟩

/-! ## The traffic mark of the join window -/

/-- How the traffic mark stands to the order `B` of the Station Controller's part and the report, of which `rest` are still to come. -/
def TrafficMark (B : Prop) (rest : List EdgePart) (traffic : Bool) : Prop :=
  (.stationController ∈ rest → .stationReport ∈ rest → (B ↔ rest.idxOf .stationController < rest.idxOf .stationReport))
    ∧ (.stationController ∈ rest → .stationReport ∉ rest → ¬B) ∧ (.stationController ∉ rest → .stationReport ∈ rest → B)
    ∧ (.stationController ∉ rest → .stationReport ∉ rest → (traffic = true ↔ B))

theorem TrafficMark.controller {B : Prop} {rest : List EdgePart} {traffic : Bool}
    (mark : TrafficMark B (.stationController :: rest) traffic) (once : .stationController ∉ rest) : TrafficMark B rest false := by
  obtain ⟨both, gone, -, -⟩ := mark
  refine ⟨fun h => absurd h once, fun h => absurd h once, fun _ ahead => ?_, fun _ behind => ?_⟩
  · refine (both (List.mem_cons_self ..) (List.mem_cons_of_mem _ ahead)).mpr ?_
    have apart : EdgePart.stationController ≠ .stationReport := nofun
    rw [List.idxOf_cons_self, List.idxOf_cons_ne _ apart]
    exact Nat.succ_pos _
  · refine ⟨nofun, fun h => absurd h (gone (List.mem_cons_self ..) fun h => ?_)⟩
    exact behind ((List.mem_cons.mp h).resolve_left nofun)

theorem TrafficMark.report {B : Prop} {rest : List EdgePart} {traffic : Bool} (mark : TrafficMark B (.stationReport :: rest) traffic)
    (once : .stationReport ∉ rest) : TrafficMark B rest true := by
  obtain ⟨both, -, done, -⟩ := mark
  refine ⟨fun _ h => absurd h once, fun ahead _ h => ?_, fun _ h => absurd h once, fun behind _ => ?_⟩
  · have order := (both (List.mem_cons_of_mem _ ahead) (List.mem_cons_self ..)).mp h
    rw [List.idxOf_cons_self] at order
    exact absurd order (Nat.not_lt_zero _)
  · exact ⟨fun _ => done (fun h => behind ((List.mem_cons.mp h).resolve_left nofun)) (List.mem_cons_self ..), fun _ => rfl⟩

theorem TrafficMark.other {B : Prop} {q : EdgePart} {rest : List EdgePart} {traffic : Bool} (mark : TrafficMark B (q :: rest) traffic)
    (apart : q ≠ .stationController) (unlike : q ≠ .stationReport) : TrafficMark B rest traffic := by
  unfold TrafficMark at mark ⊢
  rw [List.idxOf_cons_ne _ apart, List.idxOf_cons_ne _ unlike, Nat.succ_lt_succ_iff] at mark
  simpa only [List.mem_cons, apart.symm, unlike.symm, false_or] using mark

/-- A join window that the edge neither opens nor ends goes on (R137). -/
theorem Station.cycled_goes_on {expiry : Nat} {st : Station} (window : st.state = .listen ∨ st.state = .resync) (opened : st.opened = true)
    (short : st.count + 1 < expiry) (mark : st.rollcall ≠ .earlier) :
    st.cycled expiry
      = { st with count := st.count + 1, traffic := false, rollcall := if st.rollcall = .none then .none else .earlier } := by
  rw [Station.cycled, if_pos window, if_neg (by rw [opened]; decide), if_neg fun h => mark h.2, if_neg (Nat.not_le.mpr short)]

/-- The mark that an objected message leaves in an open join window that goes on: the next cycle begins unmarked (R136, R137). -/
theorem objectedEdge_traffic {order : List EdgePart} (distinct : order.Nodup) (controller : EdgePart.stationController ∈ order)
    (report : EdgePart.stationReport ∈ order) {s : State} (window : s.windowOpen = true) (short : s.station.count + 1 < s.expiry)
    (mark : s.station.rollcall ≠ .earlier) :
    (objectedEdge order s).station.state = s.station.state
      ∧ ((objectedEdge order s).station.traffic = true
        ↔ order.idxOf .stationController < order.idxOf .stationReport) := by
  obtain ⟨open', opened⟩ := (windowOpen_iff s).mp window
  obtain ⟨B, hB⟩ : ∃ B : Prop, B = (order.idxOf .stationController < order.idxOf .stationReport) := ⟨_, rfl⟩
  have all := edgeParts_invariant (h := .objected)
    (I := fun rest u => rest.Nodup ∧ u.expiry = s.expiry ∧ u.station.state = s.station.state ∧ u.station.opened = true
      ∧ (EdgePart.stationController ∈ rest → u.station.count = s.station.count ∧ u.station.rollcall = s.station.rollcall)
      ∧ TrafficMark B rest u.station.traffic)
    (fun q rest u stands => ?_) order s ⟨distinct, rfl, rfl, opened, fun _ => ⟨rfl, rfl⟩, fun _ _ => hB ▸ Iff.rfl,
      fun _ h => absurd report h, fun h => absurd controller h, fun h => absurd controller h⟩
  · obtain ⟨-, -, state, -, -, -, -, -, last⟩ := all
    exact ⟨state, hB ▸ last List.not_mem_nil List.not_mem_nil⟩
  · obtain ⟨distinct, expiry, state, opened, items, traffic⟩ := stands
    obtain ⟨once, distinct⟩ := List.nodup_cons.mp distinct
    have budget : (edgePart .objected q u).expiry = s.expiry := by
      have cfg := edgePart_objected_other (q := q) State.cfg u (by simp) (by simp) (fun _ => by simp) (fun _ => by simp) (fun _ => by
        obtain ⟨_, _, _, _, run, -⟩ := reportObjected_leaves u
        rw [run]) fun _ => by rw [markTraffic_eq]
      unfold State.expiry
      rw [cfg]
      exact expiry
    refine ⟨distinct, budget, ?_⟩
    by_cases controls : q = .stationController
    · subst controls
      obtain ⟨count, rollcall⟩ := items (List.mem_cons_self ..)
      have moved : (edgePart .objected .stationController u).station = _ := (edgeStation_station u).trans
        (Station.cycled_goes_on (by rw [state]; exact open') opened (by rw [count, expiry]; exact short) (by rw [rollcall]; exact mark))
      rw [moved]
      exact ⟨state, opened, fun h => absurd h once, traffic.controller once⟩
    · have ahead (h : EdgePart.stationController ∈ rest) := items (List.mem_cons_of_mem _ h)
      by_cases reports : q = .stationReport
      · subst reports
        have openNow : u.windowOpen = true := (windowOpen_iff u).mpr ⟨by rw [state]; exact open', opened⟩
        have marked : (edgePart .objected .stationReport u).station = { u.station with traffic := true } := by
          show (markTraffic u).station = _
          rw [markTraffic_eq, openNow, Bool.or_true]
        rw [marked]
        exact ⟨state, opened, ahead, traffic.report once⟩
      · have same := edgePart_objected_other (q := q) State.station u (by simp) (by simp) (fun _ => by simp)
          (fun this => absurd this controls) (fun _ => by
            obtain ⟨_, _, _, _, run, -⟩ := reportObjected_leaves u
            rw [run]) fun this => absurd this reports
        rw [same]
        exact ⟨state, opened, ahead, traffic.other controls reports⟩

end Sys2Proof.Machine
end

section
/-! Objected messages at a receiver and at their transmitter, away from a SYNC edge and beside one (R74, R97, R136). -/

namespace Sys2Proof.Machine

/-! ## Time inside a frame leaves SYNC high -/

theorem advanceInFrame_syncHigh (n : Nat) {s : State} (counting : s.counting = true) (high : s.lines.syncLow = false) :
    (advanceInFrame n s).lines.syncLow = false ∧ s.lines.syncHighTime ≤ (advanceInFrame n s).lines.syncHighTime := by
  unfold advanceInFrame
  split
  · next f frame =>
    have items : (advanceInMessage (n - f.elapsed) s).lines.syncItems = (passClocks (n - f.elapsed) s).lines.syncItems := by
      unfold advanceInMessage
      rw [passSlots_lines, passData_syncItems]
    have low : (advanceInMessage (n - f.elapsed) s).lines.syncLow = (s.lines.advanceSync (n - f.elapsed) s.counting).syncLow :=
      congrArg (·.2.2.1) items
    have time : (advanceInMessage (n - f.elapsed) s).lines.syncHighTime = (s.lines.advanceSync (n - f.elapsed) s.counting).syncHighTime :=
      congrArg (·.2.2.2.1) items
    unfold LineInterface.advanceSync at low time
    rw [if_neg (by rw [high]; decide), counting] at low time
    rw [low, time]
    exact ⟨high, Nat.le_add_right ..⟩
  · exact ⟨high, Nat.le_refl _⟩

/-- An objected message that is still framed at a valid fall of SYNC ends at the edge (R74, R77). -/
theorem fallWith_objected {hold : Nat} {order : List EdgePart} {m : Message} {check : BitVec 8} {s : State}
    (outcome : EdgePart.outcomeIn order = some (.objected m check)) (counting : s.counting = true) (high : s.lines.syncLow = false)
    (valid : s.fallIsValid = true) :
    fallWith hold order s
      = objectedEdge order (edgeTimer (fallSync hold (readObjected ((LateOutcome.objected m check).instant (s.bits 1)) m check s))) := by
  obtain ⟨x, hx⟩ : ∃ x, x = readObjected ((LateOutcome.objected m check).instant (s.bits 1)) m check s := ⟨_, rfl⟩
  have run : fallWith hold order s = takeFall hold order .objected x := by
    unfold fallWith
    rw [outcome, hx]
    rfl
  obtain ⟨-, later⟩ := advanceInFrame_syncHigh ((LateOutcome.objected m check).instant (s.bits 1)) counting high
  have keeps := advanceInFrame_keeps ((LateOutcome.objected m check).instant (s.bits 1)) s
  have still : x.fallIsValid = true := by
    obtain ⟨_, _, _, _, upd, -⟩ := readObjected_upd ((LateOutcome.objected m check).instant (s.bits 1)) m check s
    rw [← hx] at upd
    clear run hx
    generalize advanceInFrame ((LateOutcome.objected m check).instant (s.bits 1)) s = u at *
    unfold State.fallIsValid at valid ⊢
    rw [Bool.and_eq_true, decide_eq_true_iff] at valid ⊢
    rw [upd]
    obtain ⟨-, cfg, -, -, -, -, -, -, -, running, -⟩ := keeps
    refine ⟨running.trans valid.1, Nat.le_trans ?_ (Nat.le_trans valid.2 later)⟩
    unfold State.bits
    dsimp only
    rw [cfg]
  rw [run, takeFall, if_pos still, hx]
  rfl

/-- Settles O35. -/
theorem objectedMessagesAreVoid : Obligations.ObjectedMessagesAreVoid := by
  intro m check s framed bit own voids told
  have sent (h : own) : s.Sent m := h
  refine ⟨fun quiet => ?_, fun hold order running configured pulse allowed outcome => ?_⟩
  · have run : exec (.messageObjected m check) s = .next (objected m check s) := by
      show Host.Outcome.next (if (ownFall s).engine.framing = .frame then objected m check (ownFall s) else ownFall s) = _
      rw [ownFall_none quiet, if_pos framed]
    obtain ⟨x, hx⟩ : ∃ x, x = readObjected (s.bits m.commitPoint) m check s := ⟨_, rfl⟩
    have marked : objected m check s = markTraffic (reportObjected x) := by rw [hx]; rfl
    have passes := advanceInFrame_timePasses (s.bits m.commitPoint) s
    obtain ⟨-, cfg, -, sched', channels', station, port', -, -, -, counter, -⟩ := advanceInFrame_keeps (s.bits m.commitPoint) s
    obtain ⟨transmission, request, channels, sched, upd, receives, sends⟩ := readObjected_upd (s.bits m.commitPoint) m check s
    rw [← hx] at upd
    generalize advanceInFrame (s.bits m.commitPoint) s = u at *
    clear hx
    obtain ⟨request', after, sched'', port'', left, releases⟩ := reportObjected_leaves x
    have released : (reportObjected x).lines.dataDriving = false := releases (by rw [upd])
    have standing : (reportObjected x).station = s.station := by rw [left, upd]; exact station
    refine ⟨u, markTraffic (reportObjected x), by rw [run, marked], passes, ?_, ?_, ?_, ?_, ?_, ?_, ?_, ?_, ?_, ?_, fun silent => ?_, fun mine => ?_⟩
    · rw [markTraffic_eq]
      generalize reportObjected x = y at left
      generalize y.lines.dataDriving = driving at left
      subst left upd
      rfl
    · rw [markTraffic_eq, left, upd]
    · rw [markTraffic_eq, left, upd]
    · rw [markTraffic_eq, left, upd]
    · rw [markTraffic_eq, left, upd]
    · rw [markTraffic_eq, left, upd]
    · rw [markTraffic_eq, left, upd]
    · rw [markTraffic_eq, left]
    · rw [markTraffic_eq]
      exact released
    · have open' : (reportObjected x).windowOpen = s.windowOpen := by
        unfold State.windowOpen
        rw [standing]
      rw [markTraffic_eq, open', standing]
    · obtain ⟨none, unchanged, queued⟩ := receives silent
      rw [markTraffic_eq, reportObjected_silent (by rw [upd]; exact none), upd]
      exact ⟨queued, unchanged, port'⟩
    · obtain ⟨attempt, asks, unchanged, queued⟩ := sends (sent mine)
      have void : reportObjected x = _ := (reportObjected_attempt (by rw [upd]; exact attempt)).trans (reportVoid_upd ..)
      have here : x.sched = s.sched ∧ x.channels = s.channels ∧ x.engine.request = s.engine.request ∧ x.port = s.port
          ∧ x.timer.cycleCounter = s.timer.cycleCounter := by
        rw [upd]
        exact ⟨queued, unchanged, asks, port', counter⟩
      obtain ⟨queue, records, asked, port, stamp⟩ := here
      rw [markTraffic_eq, void]
      refine ⟨?_, rfl, ?_, fun general => ?_, fun c r before after request flying needs place idle => ?_⟩
      · show (if x.sched.voids < 8 then x.sched.voids + 1 else x.sched.voids) = _
        rw [queue]
      · show (if x.sched.voids = 7 then x.port.post ⟨.txObjected, .cause .objected, x.timer.cycleCounter⟩ else x.port) = _
        rw [queue, port, stamp]
      · rw [← returnEntry_eq, ← queue, ← records]
        exact endAttempt_of_no_channel (State.attemptChannel_of_general (by rw [asked]; exact general))
      · have same : x.channels[c] = s.channels[c] := by rw [records]
        have requeues := endAttempt_requeues (s := x) (c := c) (r := r) (before := before) (after := after) (by rw [asked, request])
          (by rw [same]; exact flying) (by rw [same]; exact needs) (by rw [queue, place]) idle
        rw [same, records] at requeues
        exact requeues
  · have bits : s.bits 1 = bit := Nat.one_mul _
    obtain ⟨t, path, -, same, high, valid, run⟩ :=
      exec_syncEdge_valid hold order running configured fun driving => ⟨(pulse driving).1, (pulse driving).2.1⟩
    have keeps : TimeKeeps s t := by
      rcases path with rfl | ⟨d, rfl⟩
      · exact .refl _
      · exact advance_keeps d s
    obtain ⟨-, cfg, table, sched', channels', station, port', -, -, -, counter, -, -, framing, -, transmission', -⟩ := keeps
    have meets : t.canMeet (.objected m check) = true := by
      unfold State.canMeet
      rw [framing, framed, decide_eq_true rfl, Bool.true_and, Bool.or_eq_true]
      cases waits : s.fallWaits with
      | true =>
        have driving : s.lines.syncDriving = true := by
          unfold State.fallWaits at waits
          exact (Bool.and_eq_true_iff.mp waits).1
        obtain ⟨-, -, f, frame, reached⟩ := pulse driving
        rw [same waits, frame, Option.any_some]
        refine .inr (decide_eq_true ?_)
        show m.objectPosition * s.bits 1 + s.bits 1 / 2 ≤ f.elapsed
        rw [bits]
        exact reached
      | false =>
        have still : t.fallWaits = false := by
          rcases path with rfl | ⟨d, rfl⟩
          · exact waits
          · exact advance_fallWaits waits d
        rw [still]
        exact .inl rfl
    have taken : t.edgeOrder order = order := by
      unfold State.edgeOrder EdgePart.taken
      rw [if_pos allowed]
      exact if_pos (by rw [outcome]; exact meets)
    have counting : t.counting = true := by
      unfold State.counting
      rw [station]
      exact decide_eq_true configured
    rw [taken, fallWith_objected outcome counting high valid] at run
    obtain ⟨transmission, request, channels, sched, upd, receives, sends⟩ :=
      readObjected_upd ((LateOutcome.objected m check).instant (t.bits 1)) m check t
    have inFrame := advanceInFrame_keeps ((LateOutcome.objected m check).instant (t.bits 1)) t
    generalize advanceInFrame ((LateOutcome.objected m check).instant (t.bits 1)) t = u at *
    obtain ⟨-, cfgU, tableU, -, -, stationU, portU, -, -, -, counterU, -⟩ := inFrame
    rw [upd] at run
    clear upd
    obtain ⟨z, hz⟩ : ∃ z, z = edgeTimer (fallSync hold { u with
        lines := { u.lines with dataDriving := false }
        engine := { u.engine with
          framing := .gap, recessiveTime := 0, ending := some { elapsed := 0, dominant := false }, frame := none
          accumulator := m.check, objection := none, verdict := none, transmission := transmission, request := request }
        channels := channels, sched := sched }) := ⟨_, rfl⟩
    rw [← hz] at run
    have items : z.timer.cycleCounter = s.timer.cycleCounter + 1 ∧ z.timer.localTime = 0 ∧ z.Ended ∧ z.station = s.station
        ∧ z.table = s.table ∧ z.cfg = s.cfg ∧ z.sched = sched ∧ z.engine.transmission = transmission ∧ z.port = s.port := by
      rw [hz]
      exact ⟨congrArg (· + 1) (counterU.trans counter), rfl, ⟨rfl, rfl⟩, stationU.trans station, tableU.trans table, cfgU.trans cfg, rfl,
        rfl, portU.trans port'⟩
    clear hz
    obtain ⟨stamp, zero, ended, stands, plan, config, queue, attempt, port⟩ := items
    obtain ⟨distinct, blocks⟩ := EdgePart.allowed_nodup allowed
    have reports : EdgePart.attemptReport ∈ order ∧ EdgePart.stationReport ∈ order := by
      simp only [EdgePart.orderAllowed, outcome, Bool.and_eq_true, List.all_eq_true, List.contains_iff_mem] at allowed
      exact ⟨allowed.2.1.2 _ (by decide), allowed.2.1.2 _ (by decide)⟩
    obtain ⟨gap, frame⟩ := objectedEdge_ended order ended
    have timer := objectedEdge_timer order z
    refine ⟨objectedEdge order z, run, by rw [timer, stamp], by rw [timer, zero], gap, objectedEdge_ending (blocks (by decide)) ended, frame,
      objectedEdge_silent reports.1 ended, fun mine state young within => ?_, fun window short mark => ?_⟩
    · obtain ⟨k, composed, attempts, kind, sender⟩ := sent mine
      obtain ⟨on, -, -, queued⟩ := sends ⟨k, by rw [sched']; exact composed, by rw [transmission']; exact attempts, kind, sender⟩
      have calm : z.CalmBefore order := by
        unfold State.CalmBefore
        rw [stands, plan, config]
        refine ⟨distinct, fun window => ?_, within, fun _ => young⟩
        rcases state with state | state
        · rw [state] at window
          exact window.elim nofun nofun
        · rw [state] at window
          exact window.elim nofun nofun
      obtain ⟨counts, none, posts⟩ := objectedEdge_voids reports.1 calm ended (by rw [attempt]; exact on)
      have before : z.sched = s.sched := queue.trans (queued.trans sched')
      rw [before] at counts posts
      rw [port, stamp] at posts
      exact ⟨counts, none, posts⟩
    · have goes := objectedEdge_traffic (order := order) (s := z) distinct (blocks (by decide)) reports.2
        (by unfold State.windowOpen at window ⊢; rw [stands]; exact window)
        (by unfold State.expiry; rw [stands, config]; exact short) (by rw [stands]; exact mark)
      rw [stands] at goes
      exact goes

end Sys2Proof.Machine
end

section
/-! What the parts of a SYNC edge make of a channel's entry in the drive table and of its held demand (R37, R109, R112, R121). -/

namespace Sys2Proof.Machine

/-! ## The latch -/

/-- The station states in which the latch gives entries (R121). -/
def StationState.Drives (st : StationState) : Prop := st = .joined ∨ st = .resync ∨ st = .leaving

theorem StationState.Drives.attached {st : StationState} (drives : st.Drives) : st.attached = true := by
  rcases drives with rfl | rfl | rfl <;> rfl

/-- The entry of a holding that is latched with a held demand (R122). -/
def Holding.entry (h : Holding) (held : Nat) : DriveEntry :=
  { start := h.start, length := h.length, fraction := if (held + 7) / 8 = h.length then held % 8 else 0 }

theorem latchedEntry_driving {s : State} {c : ChannelId} (drives : s.station.state.Drives) (used : s.channels[c].state ≠ .unused) :
    latchedEntry s c = (s.table.find s.cfg.address c).map fun h => h.entry s.channels[c].held := by
  rw [latchedEntry, if_neg used]
  rcases drives with state | state | state <;> rw [state] <;> rfl

theorem latchedEntry_of_none {s : State} {c : ChannelId} (none : s.table.find s.cfg.address c = none) : latchedEntry s c = .none := by
  rw [latchedEntry, none]
  split
  · rfl
  · cases s.station.state <;> rfl

theorem edgeDrive_entry {s : State} (attached : s.station.state.attached = true) (c : ChannelId) :
    (edgeDrive s).drive.table[c] = latchedEntry s c := by
  rw [edgeDrive, setOutputs_table_eq, latch_entry, if_pos attached]

theorem edgeDrive_output (s : State) (c : ChannelId) :
    (edgeDrive s).drive.outputs[c] = (edgeDrive s).drive.table[c].any fun e => e.conducts s.ditherIndex 0 := by
  have dither : (latch s).ditherIndex = s.ditherIndex := by
    unfold State.ditherIndex
    rw [show (latch s).timer = s.timer by simp]
  rw [edgeDrive, setOutputs_output, dither, setOutputs_table_eq]

/-- An entry conducts in slot 0 where it covers the slot and, with a fraction in the last slot of the span, the dither order says so. -/
theorem conducts_slotZero (e : DriveEntry) (index : Nat) :
    e.conducts index 0 = true ↔ (64 - e.start.val) % 64 < e.length
      ∧ (0 ≠ (e.start.val + e.length - 1) % 64 ∨ e.fraction = 0 ∨ index ∈ [0, 4, 2, 6, 1, 5, 3, 7].take e.fraction) := by
  simp only [DriveEntry.conducts, spanCovers, ditherOrder, Bool.and_eq_true, Bool.or_eq_true, decide_eq_true_iff, List.contains_iff_mem,
    or_assoc, Fin.val_zero, Nat.zero_add]

/-! ## The held demand -/

/-- What settling and retrying leave of a channel's record: its target, whether it is used, and its held demand or, where that is free to
change, its target in the place of it. -/
def Channel.Settles (free : Prop) (before after : Channel) : Prop :=
  after.target = before.target ∧ (after.state = .unused ↔ before.state = .unused)
    ∧ (after.held = before.held ∨ free ∧ after.held = before.target)

theorem Channel.Settles.refl (free : Prop) (ch : Channel) : ch.Settles free ch := ⟨rfl, Iff.rfl, .inl rfl⟩

theorem Channel.Settles.of_eq {free : Prop} {a b : Channel} (same : b = a) : a.Settles free b := same ▸ .refl free a

theorem Channel.Settles.trans {free : Prop} {a b d : Channel} (first : a.Settles free b) (second : b.Settles free d) : a.Settles free d := by
  obtain ⟨target, used, held⟩ := first
  obtain ⟨target', used', held'⟩ := second
  refine ⟨target'.trans target, used'.trans used, ?_⟩
  rcases held' with same | ⟨can, becomes⟩
  · rw [same]
    exact held
  · exact .inr ⟨can, becomes.trans target⟩

theorem settle_settles {free : Prop} (can : free) (c d : ChannelId) (s : State) : s.channels[d].Settles free (settle c s).channels[d] := by
  have fields := settle_get_fields c d s
  refine ⟨(congrArg Channel.target fields).trans rfl, ⟨fun unused => ?_, fun unused => ?_⟩, ?_⟩
  · by_contra used
    exact settle_used used unused
  · by_cases same : d = c
    · subst same
      rw [settle_eq, if_pos (.inl unused)]
      exact unused
    · rw [settle_get_ne same]
      exact unused
  · by_cases same : d = c
    · subst same
      have placed (r : Request) : (placeRequest r d s).channels[d].held = s.channels[d].held := by
        rw [placeRequest_get, if_pos rfl]
      rw [settle_eq]
      split
      · exact .inl rfl
      · split
        · exact .inl (placed _)
        · split
          · exact .inl (placed _)
          · refine .inr ⟨can, ?_⟩
            rw [mapChannel_get, if_pos rfl]
            rfl
    · rw [settle_get_ne same]
      exact .inl rfl

theorem leaveFlight_settles {free : Prop} (can : free) (c d : ChannelId) (s : State) :
    s.channels[d].Settles free (leaveFlight c s).channels[d] := by
  refine Channel.Settles.trans ?_ (settle_settles can c d _)
  rw [mapChannel_get]
  split
  · next same =>
    subst same
    split
    · next flying => exact ⟨rfl, by rw [flying]; exact ⟨nofun, nofun⟩, .inl rfl⟩
    · exact .refl free _
  · exact .refl free _

theorem endAttempt_settles {free : Prop} (can : free) (d : ChannelId) (s : State) : s.channels[d].Settles free (endAttempt s).channels[d] := by
  rw [endAttempt_eq]
  cases s.attemptChannel with
  | none => exact .refl free _
  | some c => exact leaveFlight_settles can c d s.returned

theorem settleWaiting_settles {free : Prop} (can : free) (d : ChannelId) (s : State) :
    s.channels[d].Settles free (settleWaiting s).channels[d] := by
  rw [settleWaiting, forChannels]
  refine List.foldlRecOn allChannels _ (motive := fun u : State => s.channels[d].Settles free u.channels[d]) (.refl free _) fun u so c _ => ?_
  refine so.trans ?_
  show u.channels[d].Settles free (settleIfWaiting c u).channels[d]
  unfold settleIfWaiting
  split
  · exact settle_settles can c d u
  · exact .refl free _

theorem freeingNotice_settles (free : Prop) (d : ChannelId) (s : State) : s.channels[d].Settles free (freeingNotice s).channels[d] := by
  rw [(freeingNotice_freed s).1 d]
  split
  · next starved =>
    refine ⟨rfl, ?_, .inl rfl⟩
    rw [starved]
    dsimp only
    split <;> exact ⟨nofun, nofun⟩
  · exact .refl free _

theorem edgeEngine_settles {free : Prop} {s : State} (can : ¬free → s.engine.transmission = .none) (d : ChannelId) :
    s.channels[d].Settles free (edgeEngine s).channels[d] := by
  rw [edgeEngine_eq]
  split
  · exact .refl free _
  · split
    · next attempt =>
      rw [reportVoid_upd]
      exact endAttempt_settles (by_contra fun h => attempt.2 (can h)) d (dropFrame s)
    · exact .refl free _

theorem edgeStation_settles {free : Prop} {s : State} (can : ¬free → ¬(s.station.state = .listen ∨ s.station.state = .resync))
    (d : ChannelId) : s.channels[d].Settles free (edgeStation s).channels[d] := by
  by_cases h : free
  · rcases edgeStation_cases s with ⟨cause, joins⟩ | ⟨station, stays⟩
    · rw [joins, enterJoined_eq, post_channels]
      exact settleWaiting_settles h d (enteringJoined cause { s with station := { s.station with count := s.station.count + 1 } })
    · rw [stays]
      exact .refl free _
  · rw [edgeStation_of_calm (can h)]
    exact .refl free _

/-! ## The Plan Table's part -/

/-- A channel that has no holding keeps its entry and its output where other holdings of the station are lost. -/
theorem expireRecord_entry {c : ChannelId} (a : Address) {s : State} (none : s.table.find s.cfg.address c = none) :
    (expireRecord a s).drive.table[c] = s.drive.table[c] ∧ (expireRecord a s).drive.outputs[c] = s.drive.outputs[c] := by
  by_cases own : a = s.cfg.address
  · have apart : ∀ h ∈ s.table.holdingsOf a, c ≠ h.channel := fun h held same => by
      rw [PlanTable.holdingsOf, List.mem_filterMap] at held
      obtain ⟨d, -, found⟩ := held
      obtain ⟨here, owner, -⟩ := PlanTable.find_some found
      exact PlanTable.find_none_iff.mp none h here ⟨owner.trans own, same.symm⟩
    rw [show expireRecord a s = (s.table.holdingsOf a).foldl (fun s h => loseHolding false h.channel s)
      { s with table := s.table.without a s.expiry } from if_pos own]
    refine List.foldlRecOn (s.table.holdingsOf a) _
      (motive := fun u : State => u.drive.table[c] = s.drive.table[c] ∧ u.drive.outputs[c] = s.drive.outputs[c]) ⟨rfl, rfl⟩
      fun u same h held => ?_
    obtain ⟨entry, output⟩ := clearDrive_get h.channel c u
    rw [loseHolding_drive, entry, output, if_neg (apart h held), if_neg (apart h held)]
    exact same
  · rw [expireRecord_of_other own]
    exact ⟨rfl, rfl⟩

theorem expireRecords_entry {c : ChannelId} (as : List Address) : ∀ {s : State}, s.table.find s.cfg.address c = none →
    (as.foldl (fun s a => expireRecord a s) s).drive.table[c] = s.drive.table[c]
      ∧ (as.foldl (fun s a => expireRecord a s) s).drive.outputs[c] = s.drive.outputs[c] := by
  induction as with
  | nil => exact fun _ => ⟨rfl, rfl⟩
  | cons a as ih =>
    intro s none
    have cfg : (expireRecord a s).cfg = s.cfg := by simp
    have still : (expireRecord a s).table.find (expireRecord a s).cfg.address c = .none := by
      rw [cfg, expireRecord_table]
      exact PlanTable.find_none_iff.mpr fun h here => PlanTable.find_none_iff.mp none h (PlanTable.mem_removeOwner here).1
    obtain ⟨entry, output⟩ := expireRecord_entry a none
    obtain ⟨entry', output'⟩ := ih still
    exact ⟨entry'.trans entry, output'.trans output⟩

/-- The expiries of other stations' records touch the plan table alone. -/
theorem expireRecords_of_others (as : List Address) : ∀ {s : State}, s.cfg.address ∉ as →
    as.foldl (fun s a => expireRecord a s) s = { s with table := as.foldl (PlanTable.expired s.expiry) s.table } := by
  induction as with
  | nil => exact fun _ => rfl
  | cons a as ih =>
    intro s others
    rw [List.foldl_cons, expireRecord_of_other fun same => others (same ▸ List.mem_cons_self ..),
      ih (s := { s with table := s.table.without a s.expiry }) fun h => others (List.mem_cons_of_mem _ h)]
    rfl

/-- The Plan Table's part where no slot is over budget: the expiries, the freeing notice at most, and the announce-due test. -/
theorem edgePlan_within {s : State} (within : s.table.WithinBudget s.cfg.budget) :
    ∃ (removed : State) (port : LocalPort),
      removed = (s.table.agePeers.due s.expiry).foldl (fun s a => expireRecord a s) { s with table := s.table.agePeers }
        ∧ (edgePlan s).drive = removed.drive
        ∧ ((edgePlan s).channels = removed.channels ∨ (edgePlan s).channels = (freeingNotice { removed with port := port }).channels) := by
  obtain ⟨removed, hr⟩ : ∃ removed, removed
    = (s.table.agePeers.due s.expiry).foldl (fun s a => expireRecord a s) { s with table := s.table.agePeers } := ⟨_, rfl⟩
  obtain ⟨told, ht⟩ : ∃ told, told = (s.table.agePeers.due s.expiry).foldl (fun s a => postExpiry a s) removed := ⟨_, rfl⟩
  have posts : ∃ port, told = { removed with port := port } := by
    rw [ht]
    exact List.foldlRecOn (s.table.agePeers.due s.expiry) _ (motive := fun u : State => ∃ port, u = { removed with port := port }) ⟨_, rfl⟩
      fun u stands a _ => by
        obtain ⟨port, rfl⟩ := stands
        exact ⟨_, rfl⟩
  obtain ⟨port, posts⟩ := posts
  refine ⟨removed, port, hr, ?_⟩
  have cfg : removed.cfg = s.cfg := by
    rw [hr]
    exact foldl_keeps State.cfg _ (fun s a => by simp) _ _
  have after : removed.table.WithinBudget removed.cfg.budget := by
    obtain ⟨ls, run⟩ := expireRecords_eq_loseEach (s.table.agePeers.due s.expiry) { s with table := s.table.agePeers }
    rw [cfg, hr, run, loseEach_withTable]
    exact PlanTable.WithinBudget.expired (t := s.table.agePeers) _ within
  have run : ∃ lost, edgePlan s = announceDueTest (if lost = true then freeingNotice told else told) := by
    obtain ⟨lost, expired⟩ := expireAll_run (s.table.agePeers.due s.expiry) { s with table := s.table.agePeers }
    rw [← hr, evictAndFree_within lost _ after (by rw [← ht, posts]), ← ht] at expired
    exact ⟨lost, congrArg announceDueTest expired⟩
  obtain ⟨lost, run⟩ := run
  have due (u : State) : (announceDueTest u).drive = u.drive ∧ (announceDueTest u).channels = u.channels := by
    unfold announceDueTest
    split
    · exact ⟨rfl, rfl⟩
    · exact ⟨rfl, rfl⟩
  rw [run, (due _).1, (due _).2, ← posts]
  split
  · refine ⟨?_, .inr rfl⟩
    rw [freeingNotice_upd, posts]
  · rw [posts]
    exact ⟨rfl, .inl rfl⟩

/-- The own record does not reach the expiry at this edge. -/
def PlanTable.OwnStays (t : PlanTable) (cfg : Configuration) : Prop :=
  t.peers[cfg.address].present = true → t.peers[cfg.address].age + 1 < 3 * cfg.interval

theorem edgePlan_of_ownStays {s : State} (within : s.table.WithinBudget s.cfg.budget) (stays : s.table.OwnStays s.cfg) :
    (edgePlan s).drive = s.drive
      ∧ ((edgePlan s).channels = s.channels ∨ ∃ u : State, u.channels = s.channels ∧ (edgePlan s).channels = (freeingNotice u).channels) := by
  obtain ⟨removed, port, hr, drive, channels⟩ := edgePlan_within within
  have others : s.cfg.address ∉ s.table.agePeers.due s.expiry := fun due => by
    obtain ⟨present, late⟩ := PlanTable.mem_aged_due.mp due
    exact absurd (stays present) (Nat.not_lt.mpr late)
  rw [expireRecords_of_others _ (s := { s with table := s.table.agePeers }) others] at hr
  have same : removed.drive = s.drive ∧ removed.channels = s.channels := by
    rw [hr]
    exact ⟨rfl, rfl⟩
  exact ⟨drive.trans same.1, channels.imp (fun h => h.trans same.2) fun h => ⟨{ removed with port := port }, same.2, h⟩⟩

theorem edgePlan_settles {s : State} (within : s.table.WithinBudget s.cfg.budget) (stays : s.table.OwnStays s.cfg) (free : Prop) (d : ChannelId) :
    s.channels[d].Settles free (edgePlan s).channels[d] := by
  rcases (edgePlan_of_ownStays within stays).2 with same | ⟨u, before, after⟩
  · rw [same]
    exact .refl free _
  · rw [after, ← before]
    exact freeingNotice_settles free d u

theorem edgePlan_fed {s : State} {c : ChannelId} (within : s.table.WithinBudget s.cfg.budget) (stays : s.table.OwnStays s.cfg)
    (fed : s.channels[c].state ≠ .starved) : (edgePlan s).channels[c] = s.channels[c] := by
  rcases (edgePlan_of_ownStays within stays).2 with same | ⟨u, before, after⟩
  · rw [same]
  · rw [after, freeingNotice_get (by rw [before]; exact fed), before]

theorem edgePlan_entry_of_none {s : State} {c : ChannelId} (within : s.table.WithinBudget s.cfg.budget)
    (none : s.table.find s.cfg.address c = none) :
    (edgePlan s).drive.table[c] = s.drive.table[c] ∧ (edgePlan s).drive.outputs[c] = s.drive.outputs[c] := by
  obtain ⟨removed, port, hr, drive, -⟩ := edgePlan_within within
  rw [drive, hr]
  exact expireRecords_entry (s := { s with table := s.table.agePeers }) _ none

/-! ## The plan behind the part -/

theorem PlanTable.find_cycled_none {t : PlanTable} {cfg : Configuration} {o : Address} {c : ChannelId} (none : t.find o c = none) :
    (t.cycled cfg).find o c = .none :=
  PlanTable.find_none_iff.mpr fun h here =>
    PlanTable.find_none_iff.mp none h (PlanTable.mem_expired (t := t.agePeers) (PlanTable.mem_evicted here))

theorem PlanTable.WithinBudget.cycled {t : PlanTable} {cfg : Configuration} (within : t.WithinBudget cfg.budget) :
    (t.cycled cfg).WithinBudget cfg.budget := by
  have expired := PlanTable.WithinBudget.expired (expiry := 3 * cfg.interval) (t.agePeers.due (3 * cfg.interval)) (t := t.agePeers) within
  unfold PlanTable.cycled
  rw [expired.evicted]
  exact expired

theorem PlanTable.Lawful.cycled {t : PlanTable} {cfg : Configuration} (lawful : t.Lawful) (within : t.WithinBudget cfg.budget) :
    (t.cycled cfg).Lawful := by
  have expired := PlanTable.WithinBudget.expired (expiry := 3 * cfg.interval) (t.agePeers.due (3 * cfg.interval)) (t := t.agePeers) within
  unfold PlanTable.cycled
  rw [expired.evicted]
  exact List.foldlRecOn _ (PlanTable.expired (3 * cfg.interval)) (motive := PlanTable.Lawful) lawful.agePeers
    fun u stands a _ => (PlanTable.Lawful.without stands a (3 * cfg.interval)).1

/-- A holding outlives the edge exactly where its owner's record does. -/
theorem PlanTable.Lawful.find_cycled {t : PlanTable} {cfg : Configuration} (lawful : t.Lawful) (within : t.WithinBudget cfg.budget)
    {o : Address} {c : ChannelId} {h : Holding} :
    (t.cycled cfg).find o c = some h
      ↔ t.find o c = some h ∧ (t.peers[o].present = true → t.peers[o].age + 1 < 3 * cfg.interval) := by
  rw [(lawful.cycled within).find_iff, lawful.find_iff, lawful.cycled_plan within, List.mem_filter, Bool.not_eq_true', Bool.and_eq_false_iff,
    decide_eq_false_iff_not, Nat.not_le]
  constructor
  · rintro ⟨⟨here, young⟩, rfl, key⟩
    exact ⟨⟨here, rfl, key⟩, fun present => young.resolve_left (by rw [present]; decide)⟩
  · rintro ⟨⟨here, rfl, key⟩, young⟩
    refine ⟨⟨here, ?_⟩, rfl, key⟩
    cases present : t.peers[h.owner].present with
    | false => exact .inl rfl
    | true => exact .inr (young present)

end Sys2Proof.Machine
end

section
/-! The latch of a valid SYNC edge with which no outcome falls (R121 to R124): the state that it finds among the parts of the edge. -/

namespace Sys2Proof.Machine

/-! ## The parts before the latch and behind it -/

theorem EdgePart.Quiet.split {order : List EdgePart} (quiet : EdgePart.Quiet order) :
    ∃ pre post, order = pre ++ .driveUnit :: post ∧ .planTable ∈ pre := by
  have before : order.idxOf .planTable < order.idxOf .driveUnit := by
    have allowed := quiet.1
    simp only [EdgePart.orderAllowed, quiet.2, EdgePart.before, Bool.and_eq_true, decide_eq_true_iff] at allowed
    exact allowed.2.2
  have distinct := quiet.nodup
  obtain ⟨pre, post, rfl⟩ := List.append_of_mem (quiet.mem (p := .driveUnit) (by decide))
  refine ⟨pre, post, rfl, ?_⟩
  by_contra behind
  have apart : EdgePart.driveUnit ∉ pre := fun h => (List.nodup_append.mp distinct).2.2 _ h _ (List.mem_cons_self ..) rfl
  rw [List.idxOf_append_of_notMem behind, List.idxOf_append_of_notMem apart, List.idxOf_cons_self] at before
  omega

/-- What lets the parts to come settle a channel, its held demand where `free` lets that change: the plan is within the budget, and the own
record outlives the edge. -/
def State.Settling (free : Prop) (rest : List EdgePart) (s : State) : Prop :=
  rest.Nodup ∧ s.table.WithinBudget s.cfg.budget ∧ (.planTable ∈ rest → s.table.OwnStays s.cfg)
    ∧ (¬free → s.engine.transmission = .none ∧ ¬(s.station.state = .listen ∨ s.station.state = .resync))

theorem edgePart_settles {free : Prop} {q : EdgePart} {rest : List EdgePart} {s : State} (stands : s.Settling free (q :: rest)) (d : ChannelId) :
    s.channels[d].Settles free (edgePart .none q s).channels[d] := by
  obtain ⟨-, within, young, calm⟩ := stands
  cases q with
  | planTable => exact edgePlan_settles within (young (List.mem_cons_self ..)) free d
  | driveUnit => exact .of_eq (congrArg (·[d]) (show (edgeDrive s).channels = s.channels by simp))
  | messageEngine => exact edgeEngine_settles (fun h => (calm h).1) d
  | stationController => exact edgeStation_settles (fun h => (calm h).2) d
  | message | attemptReport | stationReport => exact .refl free _

theorem edgePart_settling {free : Prop} {q : EdgePart} {rest : List EdgePart} {s : State} (stands : s.Settling free (q :: rest)) :
    (edgePart .none q s).Settling free rest := by
  obtain ⟨distinct, within, young, calm⟩ := stands
  obtain ⟨once, distinct⟩ := List.nodup_cons.mp distinct
  have cfg : (edgePart .none q s).cfg = s.cfg := edgePart_none_other State.cfg s (by simp) (by simp) (fun _ => by simp) (fun _ => by simp)
  have station (other : q ≠ .stationController) : (edgePart .none q s).station = s.station :=
    edgePart_none_other State.station s (by simp) (by simp) (fun _ => by simp) (fun this => absurd this other)
  have table (other : q ≠ .planTable) : (edgePart .none q s).table = s.table := by
    cases q with
    | planTable => exact absurd rfl other
    | driveUnit | messageEngine | stationController => simp [edgePart]
    | message | attemptReport | stationReport => rfl
  refine ⟨distinct, ?_, fun ahead => ?_, fun h => ?_⟩
  · rw [cfg]
    by_cases this : q = .planTable
    · subst this
      show (edgePlan s).table.WithinBudget _
      rw [edgePlan_table]
      exact within.cycled
    · rw [table this]
      exact within
  · have other : q ≠ .planTable := fun same => once (same ▸ ahead)
    rw [cfg, table other]
    exact young (List.mem_cons_of_mem _ ahead)
  · obtain ⟨silent, closed⟩ := calm h
    constructor
    · by_cases this : q = .messageEngine
      · subst this
        show (edgeEngine s).engine.transmission = .none
        rw [edgeEngine_eq]
        split
        · exact silent
        · rw [if_neg fun attempt => attempt.2 silent]
          exact silent
      · have engine := edgePart_none_other State.engine s (by simp) (by simp) (fun same => absurd same this) (fun _ => by simp)
        rw [engine]
        exact silent
    · by_cases this : q = .stationController
      · subst this
        show ¬((edgeStation s).station.state = .listen ∨ (edgeStation s).station.state = .resync)
        rw [edgeStation_of_calm closed]
        exact closed
      · rw [station this]
        exact closed

theorem edgeParts_settle {free : Prop} (d : ChannelId) : ∀ {parts : List EdgePart} {s : State}, s.Settling free parts →
    s.channels[d].Settles free (parts.foldl (fun s q => edgePart .none q s) s).channels[d]
      ∧ (parts.foldl (fun s q => edgePart .none q s) s).Settling free []
  | [], _, stands => ⟨.refl free _, stands⟩
  | q :: rest, s, stands => by
    obtain ⟨later, ends⟩ := edgeParts_settle d (parts := rest) (edgePart_settling stands)
    exact ⟨(edgePart_settles stands d).trans later, ends⟩

theorem Station.cycled_state (expiry : Nat) (st : Station) : (st.cycled expiry).state = st.state ∨ (st.cycled expiry).state = .joined := by
  unfold Station.cycled
  split
  · split
    · exact .inl rfl
    · split
      · exact .inr rfl
      · split
        · exact .inr rfl
        · exact .inl rfl
  · exact .inl rfl

theorem edgeParts_state (parts : List EdgePart) (s : State) :
    (parts.foldl (fun s q => edgePart .none q s) s).station.state = s.station.state
      ∨ (parts.foldl (fun s q => edgePart .none q s) s).station.state = .joined := by
  refine List.foldlRecOn parts _ (motive := fun u : State => u.station.state = s.station.state ∨ u.station.state = .joined) (.inl rfl)
    fun u stands q _ => ?_
  have part : (edgePart .none q u).station.state = u.station.state ∨ (edgePart .none q u).station.state = .joined := by
    by_cases this : q = .stationController
    · subst this
      show (edgeStation u).station.state = _ ∨ (edgeStation u).station.state = _
      rw [edgeStation_station]
      exact Station.cycled_state _ _
    · exact .inl (edgePart_none_other (fun s : State => s.station.state) u (by simp) (by simp) (fun _ => by simp) (fun same => absurd same this))
  rcases part with same | joined
  · rw [same]
    exact stands
  · exact .inr joined

/-! ## The latch -/

/-- The latch finds the plan behind the edge, and the drive table that it makes is that behind the edge. -/
theorem quietEdge_latch {order : List EdgePart} (quiet : EdgePart.Quiet order) (s : State) :
    ∃ u, (quietEdge order s).drive = (edgeDrive u).drive ∧ u.cfg = s.cfg ∧ u.timer = s.timer ∧ u.table = s.table.cycled s.cfg
      ∧ (u.station.state = s.station.state ∨ u.station.state = .joined)
      ∧ ∀ free, s.Settling free order → ∀ d : ChannelId,
          s.channels[d].Settles free u.channels[d] ∧ u.channels[d].Settles free (quietEdge order s).channels[d] := by
  have table : (quietEdge order s).table = s.table.cycled s.cfg := quietEdge_table quiet s
  obtain ⟨pre, post, split, ahead⟩ := quiet.split
  have distinct := quiet.nodup
  rw [split] at distinct
  obtain ⟨first, last, apart⟩ := List.nodup_append.mp distinct
  have behind : ∀ q ∈ EdgePart.driveUnit :: post, q ≠ .planTable := fun q hq same => apart _ ahead _ hq same.symm
  obtain ⟨u, hu⟩ : ∃ u, u = pre.foldl (fun s q => edgePart .none q s) s := ⟨_, rfl⟩
  have run : quietEdge order s = (EdgePart.driveUnit :: post).foldl (fun s q => edgePart .none q s) u := by
    rw [quietEdge, split, List.foldl_append, hu]
  obtain ⟨cfg, -, -, timer, -⟩ := quietEdge_keeps s pre
  refine ⟨u, ?_, by rw [hu]; exact cfg, by rw [hu]; exact timer, ?_, by rw [hu]; exact edgeParts_state pre s, fun free stands d => ?_⟩
  · rw [run]
    refine edgeParts_once.foldl_keepsOn State.drive post (fun q hq v => ?_) (edgeDrive u)
    have other := behind q (List.mem_cons_of_mem _ hq)
    cases q with
    | planTable => exact absurd rfl other
    | driveUnit => exact absurd hq (List.nodup_cons.mp last).1
    | messageEngine | stationController => simp [edgePart]
    | message | attemptReport | stationReport => rfl
  · rw [← table, run]
    refine (edgeParts_once.foldl_keepsOn State.table (EdgePart.driveUnit :: post) (fun q hq v => ?_) u).symm
    cases q with
    | planTable => exact absurd rfl (behind _ hq)
    | driveUnit | messageEngine | stationController => simp [edgePart]
    | message | attemptReport | stationReport => rfl
  · obtain ⟨distinct', within, young, calm⟩ := stands
    have start : s.Settling free pre := ⟨first, within, fun _ => young (by rw [split]; exact List.mem_append_left _ ahead), calm⟩
    obtain ⟨settles, -, within', -, calm'⟩ := edgeParts_settle d start
    rw [← hu] at settles within' calm'
    have next : u.Settling free (.driveUnit :: post) := ⟨last, within', fun h => absurd rfl (behind _ h), calm'⟩
    rw [run]
    exact ⟨settles, (edgeParts_settle d next).1⟩

/-- The outputs behind the edge are those of slot 0 of the new cycle (R123, R124). -/
theorem quietEdge_output {order : List EdgePart} (quiet : EdgePart.Quiet order) (s : State) (c : ChannelId) :
    (quietEdge order s).drive.outputs[c] = (quietEdge order s).drive.table[c].any fun e => e.conducts s.ditherIndex 0 := by
  obtain ⟨u, drive, -, timer, -⟩ := quietEdge_latch quiet s
  have dither : u.ditherIndex = s.ditherIndex := by
    unfold State.ditherIndex
    rw [timer]
  rw [drive, edgeDrive_output, dither]

/-- The entries behind the edge at a station whose state drives (R121, R122). -/
theorem quietEdge_entry {order : List EdgePart} (quiet : EdgePart.Quiet order) {s : State} (drives : s.station.state.Drives)
    (lawful : s.table.Lawful) (within : s.table.WithinBudget s.cfg.budget) (c : ChannelId) :
    ∃ held, (quietEdge order s).drive.table[c]
        = (if s.channels[c].state = .unused then none
          else ((quietEdge order s).table.find s.cfg.address c).map fun h => h.entry held)
      ∧ (held = s.channels[c].held ∨ held = (quietEdge order s).channels[c].held)
      ∧ (s.engine.transmission = .none → s.station.state ≠ .resync → ((quietEdge order s).table.find s.cfg.address c).isSome = true →
          held = s.channels[c].held) := by
  obtain ⟨u, drive, cfg, -, table, state, settles⟩ := quietEdge_latch quiet s
  have behind : (quietEdge order s).table = s.table.cycled s.cfg := quietEdge_table quiet s
  have driving : u.station.state.Drives := by
    rcases state with same | joined
    · rw [same]
      exact drives
    · exact .inl joined
  have latched : (quietEdge order s).drive.table[c] = latchedEntry u c := by rw [drive, edgeDrive_entry driving.attached]
  rw [latched, behind]
  cases found : (s.table.cycled s.cfg).find s.cfg.address c with
  | none =>
    have none : u.table.find u.cfg.address c = none := by
      rw [cfg, table]
      exact found
    exact ⟨s.channels[c].held, by rw [latchedEntry_of_none none, Option.map_none, ite_self], .inl rfl, fun _ _ _ => rfl⟩
  | some h =>
    have young : s.table.OwnStays s.cfg := ((lawful.find_cycled within).mp found).2
    have stands : s.Settling (¬(s.engine.transmission = .none ∧ s.station.state ≠ .resync)) order :=
      ⟨quiet.nodup, within, fun _ => young, fun calm => by
        obtain ⟨silent, closed⟩ := not_not.mp calm
        refine ⟨silent, fun window => window.elim (fun listen => ?_) closed⟩
        rw [listen] at drives
        rcases drives with other | other | other <;> cases other⟩
    obtain ⟨⟨target, unused, becomes⟩, -, -, ends⟩ := settles _ stands c
    by_cases idle : s.channels[c].state = .unused
    · exact ⟨s.channels[c].held, by rw [latchedEntry_unused (unused.mpr idle), if_pos idle], .inl rfl, fun _ _ _ => rfl⟩
    · refine ⟨u.channels[c].held, ?_, ?_, fun silent open' _ => becomes.resolve_right fun moved => moved.1 ⟨silent, open'⟩⟩
      · rw [latchedEntry_driving driving fun h => idle (unused.mp h), cfg, table, found, if_neg idle]
      · rcases becomes with same | ⟨-, moved⟩
        · exact .inl same
        · rcases ends with last | ⟨-, last⟩
          · exact .inr last.symm
          · exact .inr (moved.trans (target.symm.trans last.symm))

/-- Without holdings in LISTEN and QUIET the entries behind the edge are empty (R121). -/
theorem quietEdge_no_entry {order : List EdgePart} (quiet : EdgePart.Quiet order) {s : State}
    (silent : s.station.state = .listen ∨ s.station.state = .quiet) {c : ChannelId} (none : s.table.find s.cfg.address c = none) :
    (quietEdge order s).drive.table[c] = .none := by
  obtain ⟨u, drive, cfg, -, table, state, -⟩ := quietEdge_latch quiet s
  have attached : u.station.state.attached = true := by
    rcases state with same | joined
    · rcases silent with h | h <;> rw [same, h] <;> rfl
    · rw [joined]
      rfl
  rw [drive, edgeDrive_entry attached, latchedEntry_of_none]
  rw [cfg, table]
  exact PlanTable.find_cycled_none none

end Sys2Proof.Machine
end

section
/-! A valid SYNC edge with which the commit of the station's own CLAIM or RELEASE falls: the latch stands ahead of the commit or behind it
(R76, R122). -/

namespace Sys2Proof.Machine

/-! ## The places of the parts -/

/-- What holds at each place of an order, of the parts taken so far, holds at its end. -/
theorem edgeParts_positions {h : HandOffs} {order : List EdgePart} (distinct : order.Nodup) {I : Nat → State → Prop}
    (part : ∀ p s, p ∈ order → I (order.idxOf p) s → I (order.idxOf p + 1) (edgePart h p s)) {s : State} (start : I 0 s) :
    I order.length (order.foldl (fun s q => edgePart h q s) s) := by
  have all := edgeParts_invariant (h := h) (I := fun rest u => ∃ pre, order = pre ++ rest ∧ I pre.length u) (fun p rest u stands => by
    obtain ⟨pre, split, here⟩ := stands
    have apart : p ∉ pre := by
      rw [split] at distinct
      exact fun h => (List.nodup_append.mp distinct).2.2 _ h _ (List.mem_cons_self ..) rfl
    have place : order.idxOf p = pre.length := by rw [split, List.idxOf_append_of_notMem apart, List.idxOf_cons_self, Nat.add_zero]
    refine ⟨pre ++ [p], by rw [split, List.append_assoc, List.singleton_append], ?_⟩
    rw [List.length_append, List.length_singleton, ← place]
    exact part p u (by rw [split]; exact List.mem_append_right _ (List.mem_cons_self ..)) (by rw [place]; exact here)) order s
    ⟨[], rfl, start⟩
  obtain ⟨pre, split, ends⟩ := all
  rw [List.append_nil] at split
  rw [← split] at ends
  exact ends

/-- Two parts of an order have different places. -/
theorem EdgePart.idxOf_ne {order : List EdgePart} {p q : EdgePart} (here : p ∈ order) (other : p ≠ q) : order.idxOf p ≠ order.idxOf q :=
  fun same => other ((List.idxOf_inj here).mp same)

/-- The places of the parts in an order with a commit: its hand-offs keep their order, ahead of the ageing, and the latch does not stand
between the commit and the ageing (R34, R76, R122). -/
structure EdgePart.Committing (order : List EdgePart) (m : Message) (refused : Bool) : Prop where
  distinct : order.Nodup
  mem : ∀ p ∈ [EdgePart.planTable, .driveUnit, .attemptReport, .message (.committed m refused)], p ∈ order
  only : ∀ late, .message late ∈ order → late = .committed m refused
  ages : order.idxOf (.message (.committed m refused)) < order.idxOf .planTable
  reports : order.idxOf (.message (.committed m refused)) < order.idxOf .attemptReport
  latches : order.idxOf .planTable < order.idxOf .driveUnit ∨ order.idxOf .driveUnit < order.idxOf (.message (.committed m refused))

theorem EdgePart.committing {order : List EdgePart} {m : Message} {refused : Bool} (allowed : EdgePart.orderAllowed order = true)
    (outcome : EdgePart.outcomeIn order = some (.committed m refused)) : EdgePart.Committing order m refused := by
  obtain ⟨distinct, blocks⟩ := EdgePart.allowed_nodup allowed
  have here := EdgePart.mem_of_outcomeIn outcome
  simp only [EdgePart.orderAllowed, outcome, EdgePart.handOffsAllowed, EdgePart.before, Bool.and_eq_true, Bool.or_eq_true, List.all_eq_true,
    List.contains_iff_mem, decide_eq_true_iff, beq_iff_eq] at allowed
  obtain ⟨-, ⟨length, reports⟩, ⟨⟨⟨ages, tells⟩, -⟩, latches⟩, -⟩ := allowed
  have report : EdgePart.attemptReport ∈ order := reports _ (by decide)
  refine ⟨distinct, ?_, fun late other => ?_, ages, tells, latches⟩
  · simp only [List.forall_mem_cons, List.not_mem_nil, false_imp_iff, implies_true, and_true]
    exact ⟨blocks (by decide), blocks (by decide), report, here⟩
  · have all : EdgePart.message (.committed m refused) :: (EdgePart.blocks ++ [.attemptReport, .stationReport]) ⊆ order :=
      List.cons_subset.2 ⟨here, List.append_subset.2 ⟨blocks, reports⟩⟩
    have once : (EdgePart.message (.committed m refused) :: (EdgePart.blocks ++ [.attemptReport, .stationReport])).Nodup := by
      simp [EdgePart.blocks]
    have perm := (once.subperm all).perm_of_length_le (by rw [length]; rfl)
    have found := perm.mem_iff.mpr other
    simpa [EdgePart.blocks] using found

/-! ## The edge -/

/-- The hand-offs of an own commit (R76). -/
def sentHandOffs (m : Message) (k : Composed) (verdict : Option Verdict) (refused : Bool) : HandOffs :=
  { message := applyMessage m refused, attempt := reportCommit k refused, station := stationReport m true verdict refused }

/-- An own message, as it was composed, that is still framed at a valid fall of SYNC is handed over among the parts of the edge (R76, R77). -/
theorem fallWith_sent {hold : Nat} {order : List EdgePart} {m : Message} {refused : Bool} {k : Composed} {s : State}
    (outcome : EdgePart.outcomeIn order = some (.committed m refused)) (acceptable : m.unacceptable = false) (drives : s.drives m = true)
    (composed : s.sched.composed = some k) (applies : s.haltCause m true = none) (counting : s.counting = true)
    (high : s.lines.syncLow = false) (valid : s.fallIsValid = true) :
    ∃ verdict, fallWith hold order s
      = order.foldl (fun u q => edgePart (sentHandOffs m k verdict (s.wireRefused m refused)) q u) (edgeTimer (fallSync hold (s.ended m))) := by
  have keeps := advanceToBit_keeps m.commitPoint s
  have same : readback m (advanceToBit m.commitPoint s) = advanceToBit m.commitPoint s :=
    readback_sent ((State.drives_congr keeps m).trans drives)
  have wire := State.wireRefused_congr keeps m refused (.inl drives)
  have handed : handOver m true (s.verdictAtCommit m) (s.wireRefused m refused) (s.ended m)
      = sentHandOffs m k (s.verdictAtCommit m) (s.wireRefused m refused) := by
    have kept : (s.ended m).sched.composed = some k := (congrArg Scheduler.composed keeps.sched).trans composed
    unfold handOver
    rw [(State.haltCause_congr (s.ended_cfg m) m true).trans applies, kept]
    rfl
  have decides : decided m refused s = (s.ended m, sentHandOffs m k (s.verdictAtCommit m) (s.wireRefused m refused)) := by
    rw [decided, if_neg (by rw [acceptable]; decide), same]
    dsimp only
    rw [State.drives_congr keeps, State.verdictAtCommit_congr keeps, wire, drives, ← handed]
    rfl
  have run : fallWith hold order s = takeFall hold order (sentHandOffs m k (s.verdictAtCommit m) (s.wireRefused m refused)) (s.ended m) := by
    unfold fallWith
    rw [outcome]
    show takeFall hold order (decided m refused s).2 (decided m refused s).1 = _
    rw [decides]
  have still : (s.ended m).fallIsValid = true := by
    obtain ⟨-, later⟩ := advanceInFrame_syncHigh (s.bits m.commitPoint) counting high
    have later : s.lines.syncHighTime ≤ (advanceToBit m.commitPoint s).lines.syncHighTime := later
    show (advanceToBit m.commitPoint s).fallIsValid = true
    obtain ⟨-, cfg, -, -, -, -, -, -, -, running, -⟩ := keeps
    unfold State.fallIsValid at valid ⊢
    rw [Bool.and_eq_true, decide_eq_true_iff] at valid ⊢
    refine ⟨running.trans valid.1, Nat.le_trans ?_ (Nat.le_trans valid.2 later)⟩
    unfold State.bits
    rw [cfg]
  exact ⟨s.verdictAtCommit m, by rw [run, takeFall, if_pos still]; rfl⟩

/-! ## The parts around an own commit -/

theorem edgeStation_get {c : ChannelId} {s : State} (rests : s.channels[c].state ≠ .waiting) :
    (edgeStation s).channels[c] = s.channels[c] := by
  rcases edgeStation_cases s with ⟨cause, joins⟩ | ⟨station, stays⟩
  · rw [joins, enterJoined_eq, post_channels]
    exact settleWaiting_get (enteringJoined cause { s with station := { s.station with count := s.station.count + 1 } }) rests
  · rw [stays]

/-- What no part of the edge changes of a station that drives its outputs, with a message that has ended: the configuration, and these. -/
def State.Latching (z u : State) : Prop :=
  u.cfg = z.cfg ∧ u.station.state.Drives ∧ u.engine.framing = .gap ∧ u.table.WithinBudget z.cfg.budget

theorem State.Latching.block {z u : State} (stands : z.Latching u) (h : HandOffs) {q : EdgePart} (block : q ∈ EdgePart.blocks) :
    z.Latching (edgePart h q u) := by
  obtain ⟨cfg, drives, gap, within⟩ := stands
  have state : (edgePart h q u).station.state = u.station.state ∨ (edgePart h q u).station.state = .joined := by
    have same : edgePart h q u = edgePart .none q u := by
      simp only [EdgePart.blocks, List.mem_cons, List.not_mem_nil, or_false] at block
      rcases block with rfl | rfl | rfl | rfl <;> rfl
    rw [same]
    exact edgeParts_state [q] u
  have driving : (edgePart h q u).station.state.Drives := by
    rcases state with same | joined
    · rw [same]
      exact drives
    · exact .inl joined
  simp only [EdgePart.blocks, List.mem_cons, List.not_mem_nil, or_false] at block
  rcases block with rfl | rfl | rfl | rfl
  · refine ⟨(edgePlan_frame u).2.1.trans cfg, driving, ?_, ?_⟩
    · show (edgePlan u).engine.framing = _
      rw [(edgePlan_frame u).2.2.2.2.1]
      exact gap
    · show (edgePlan u).table.WithinBudget _
      rw [edgePlan_table, cfg]
      exact within.cycled
  · refine ⟨?_, driving, ?_, ?_⟩
    · show (edgeDrive u).cfg = _
      simp [cfg]
    · show (edgeDrive u).engine.framing = _
      simp [gap]
    · show (edgeDrive u).table.WithinBudget _
      simp [within]
  · refine ⟨(edgeEngine_frame u).2.1.trans cfg, driving, ?_, ?_⟩
    · show (edgeEngine u).engine.framing = _
      rw [edgeEngine_of_gap gap]
      rfl
    · show (edgeEngine u).table.WithinBudget _
      rw [(edgeEngine_frame u).2.2.1]
      exact within
  · refine ⟨?_, driving, ?_, ?_⟩
    · show (edgeStation u).cfg = _
      simp [cfg]
    · show (edgeStation u).engine.framing = _
      simp [gap]
    · show (edgeStation u).table.WithinBudget _
      simp [within]

/-! ## The own RELEASE -/

/-- The hand-offs of the own RELEASE. -/
def releaseHandOffs (own : Address) (c : ChannelId) : HandOffs :=
  { message := applyRelease own c, attempt := fun s => channelReleased c (ownCommitted resolveEntry (endTransmission s)), station := id }

theorem channelReleased_upd (c : ChannelId) (s : State) :
    ∃ channels queue, channelReleased c (ownCommitted resolveEntry (endTransmission s))
      = { s with
          lines := { s.lines with dataDriving := false }
          engine := { s.engine with transmission := .none, request := none }
          channels := channels, sched := { queue := queue, composed := none, voids := 0 } } := by
  obtain ⟨v, hv⟩ : ∃ v : State, v = (ownCommitted resolveEntry (endTransmission s)).mapChannel c fun ch => { ch with span := none, held := 0 } :=
    ⟨_, rfl⟩
  have upd : channelReleased c (ownCommitted resolveEntry (endTransmission s)) = _ :=
    (show _ = leaveFlight c v by rw [hv]; rfl).trans (leaveFlight_upd c v)
  generalize (leaveFlight c v).channels = channels, (leaveFlight c v).sched.queue = queue at upd
  rw [upd, hv]
  exact ⟨channels, queue, rfl⟩

/-- How the latch stands to the commit of the own RELEASE when the first `n` parts of the edge have been taken: the plan and the channel
stand until the commit, and the holding is gone from then on. -/
def State.ReleaseLatched (order : List EdgePart) (commit : EdgePart) (c : ChannelId) (z : State) (n : Nat) (u : State) : Prop :=
  z.Latching u
    ∧ (n ≤ order.idxOf commit → u.table = z.table ∧ u.channels[c] = z.channels[c])
    ∧ (order.idxOf commit < n → u.table.find z.cfg.address c = none)
    ∧ (order.idxOf .driveUnit < n →
        (order.idxOf commit < order.idxOf .driveUnit → u.drive.table[c] = none ∧ u.drive.outputs[c] = false)
          ∧ (order.idxOf .driveUnit < order.idxOf commit →
              u.drive.table[c] = (z.table.find z.cfg.address c).map fun h => h.entry z.channels[c].held))

section
variable {order : List EdgePart} {m : Message} {refused : Bool} {c : ChannelId} {z u : State}

/-- A part other than the commit and the latch, which leaves the channel's entry, and before the commit the plan and the channel too. -/
theorem State.ReleaseLatched.next {p : EdgePart} {v : State} (here : p ∈ order) (commits : p ≠ .message (.committed m refused))
    (latches : p ≠ .driveUnit) (stands : z.ReleaseLatched order (.message (.committed m refused)) c (order.idxOf p) u) (latching : z.Latching v)
    (leaves : order.idxOf p < order.idxOf (.message (.committed m refused)) → v.table = u.table ∧ v.channels[c] = u.channels[c])
    (gone : order.idxOf (.message (.committed m refused)) < order.idxOf p → v.table.find z.cfg.address c = none)
    (drive : v.drive.table[c] = u.drive.table[c] ∧ v.drive.outputs[c] = u.drive.outputs[c]) :
    z.ReleaseLatched order (.message (.committed m refused)) c (order.idxOf p + 1) v := by
  obtain ⟨-, before, -, latched⟩ := stands
  have apart := EdgePart.idxOf_ne here commits
  have other := EdgePart.idxOf_ne here latches
  refine ⟨latching, fun ahead => ?_, fun behind => gone (by omega), fun taken => ?_⟩
  · obtain ⟨table, record⟩ := leaves (by omega)
    obtain ⟨table', record'⟩ := before (by omega)
    exact ⟨table.trans table', record.trans record'⟩
  · rw [drive.1, drive.2]
    exact latched (by omega)

variable (places : EdgePart.Committing order m refused)

include places

theorem releaseLatched_part (lawful : z.table.Lawful) (flying : z.channels[c].state = .inFlight) {p : EdgePart} (here : p ∈ order)
    (stands : z.ReleaseLatched order (.message (.committed m refused)) c (order.idxOf p) u) :
    z.ReleaseLatched order (.message (.committed m refused)) c (order.idxOf p + 1) (edgePart (releaseHandOffs z.cfg.address c) p u) := by
  obtain ⟨latching, before, gone, latched⟩ := id stands
  obtain ⟨cfg, drives, gap, within⟩ := id latching
  have within' : u.table.WithinBudget u.cfg.budget := by rw [cfg]; exact within
  have none (behind : order.idxOf (.message (.committed m refused)) < order.idxOf p) : u.table.find u.cfg.address c = .none := by
    rw [cfg]
    exact gone behind
  cases p with
  | planTable =>
    refine stands.next here nofun nofun (latching.block _ (by decide)) (fun ahead => absurd ahead (Nat.not_lt.mpr (Nat.le_of_lt places.ages)))
      (fun behind => ?_) (edgePlan_entry_of_none within' (none places.ages))
    show (edgePlan u).table.find _ c = .none
    rw [edgePlan_table]
    exact PlanTable.find_cycled_none (gone behind)
  | driveUnit =>
    have same : (edgeDrive u).table = u.table ∧ (edgeDrive u).channels = u.channels := by simp
    have apart := EdgePart.idxOf_ne here (q := .message (.committed m refused)) nofun
    have entry : (edgeDrive u).drive.table[c] = latchedEntry u c := edgeDrive_entry drives.attached c
    refine ⟨latching.block _ (by decide), fun ahead => ?_, fun behind => ?_, fun _ => ⟨fun behind => ?_, fun ahead => ?_⟩⟩
    · obtain ⟨table, record⟩ := before (by omega)
      show (edgeDrive u).table = _ ∧ (edgeDrive u).channels[c] = _
      rw [same.1, same.2]
      exact ⟨table, record⟩
    · show (edgeDrive u).table.find _ c = _
      rw [same.1]
      exact gone (by omega)
    · have empty : (edgeDrive u).drive.table[c] = .none := entry.trans (latchedEntry_of_none (none behind))
      exact ⟨empty, (edgeDrive_output u c).trans (by rw [empty]; rfl)⟩
    · obtain ⟨table, record⟩ := before (Nat.le_of_lt ahead)
      rw [← record] at flying
      refine entry.trans ((latchedEntry_driving drives (by rw [flying]; exact nofun)).trans ?_)
      rw [table, cfg, record]
  | messageEngine =>
    have run : edgeEngine u = dropFrame u := edgeEngine_of_gap gap
    refine stands.next here nofun nofun (latching.block _ (by decide)) (fun _ => ?_) (fun behind => ?_) ?_
    · show (edgeEngine u).table = _ ∧ (edgeEngine u).channels[c] = _
      rw [run]
      exact ⟨rfl, rfl⟩
    · show (edgeEngine u).table.find _ c = _
      rw [run]
      exact gone behind
    · show (edgeEngine u).drive.table[c] = _ ∧ (edgeEngine u).drive.outputs[c] = _
      rw [run]
      exact ⟨rfl, rfl⟩
  | stationController =>
    have same : (edgeStation u).table = u.table ∧ (edgeStation u).drive = u.drive := by simp
    refine stands.next here nofun nofun (latching.block _ (by decide)) (fun ahead => ⟨same.1, edgeStation_get ?_⟩) (fun behind => ?_) ?_
    · rw [(before (Nat.le_of_lt ahead)).2, flying]
      exact nofun
    · show (edgeStation u).table.find _ c = _
      rw [same.1]
      exact gone behind
    · show (edgeStation u).drive.table[c] = _ ∧ (edgeStation u).drive.outputs[c] = _
      rw [same.2]
      exact ⟨rfl, rfl⟩
  | message late =>
    obtain rfl := places.only late here
    obtain ⟨table, record⟩ := before (Nat.le_refl _)
    obtain ⟨upd, -, -⟩ := applyRelease_commits z.cfg.address c within'
    have removed := (lawful.removeKey z.cfg.address c).2.1
    have run : edgePart (releaseHandOffs z.cfg.address c) (.message (.committed m refused)) u = _ := upd
    rw [run]
    refine ⟨⟨cfg, drives, gap, within.removeKey _ _⟩, fun ahead => absurd ahead (Nat.not_le.mpr (Nat.lt_succ_self _)), fun _ => ?_,
      fun taken => latched ?_⟩
    · show (u.table.removeKey z.cfg.address c).find _ c = _
      rw [table]
      refine PlanTable.find_none_iff.mpr fun h held key => ?_
      rw [removed, List.mem_filter, Bool.not_eq_true', decide_eq_false_iff_not] at held
      exact held.2 key
    · have other := EdgePart.idxOf_ne here (q := .driveUnit) nofun
      omega
  | attemptReport =>
    obtain ⟨channels, queue, upd⟩ := channelReleased_upd c u
    have run : edgePart (releaseHandOffs z.cfg.address c) .attemptReport u = _ := upd
    rw [run]
    exact stands.next here nofun nofun ⟨cfg, drives, gap, within⟩ (fun ahead => absurd ahead (Nat.not_lt.mpr (Nat.le_of_lt places.reports)))
      (fun behind => gone behind) ⟨rfl, rfl⟩
  | stationReport => exact stands.next here nofun nofun latching (fun _ => ⟨rfl, rfl⟩) (fun behind => gone behind) ⟨rfl, rfl⟩

/-- The edge with the own RELEASE (R122). -/
theorem releaseEdge_latched (lawful : z.table.Lawful) (flying : z.channels[c].state = .inFlight) (latching : z.Latching z) :
    let t := order.foldl (fun s q => edgePart (releaseHandOffs z.cfg.address c) q s) z
    t.table.find z.cfg.address c = none
      ∧ (order.idxOf (.message (.committed m refused)) < order.idxOf .driveUnit → t.drive.table[c] = none ∧ t.drive.outputs[c] = false)
      ∧ (order.idxOf .driveUnit < order.idxOf (.message (.committed m refused)) →
          t.drive.table[c] = (z.table.find z.cfg.address c).map fun h => h.entry z.channels[c].held) := by
  have all := edgeParts_positions (h := releaseHandOffs z.cfg.address c) places.distinct
    (I := z.ReleaseLatched order (.message (.committed m refused)) c)
    (fun p u here stands => releaseLatched_part places lawful flying here stands) (s := z)
    ⟨latching, fun _ => ⟨rfl, rfl⟩, fun h => absurd h (Nat.not_lt_zero _), fun h => absurd h (Nat.not_lt_zero _)⟩
  obtain ⟨-, -, gone, latched⟩ := all
  obtain ⟨behind, ahead⟩ := latched (List.idxOf_lt_length_of_mem (places.mem _ (by simp)))
  exact ⟨gone (List.idxOf_lt_length_of_mem (places.mem _ (by simp))), behind, ahead⟩

end

end Sys2Proof.Machine
end

section
/-! A valid SYNC edge with which the admitted commit of the station's own CLAIM falls: the latch stands ahead of the commit, between it and
its report to the channel, or behind the report (R76, R110, R122). -/

namespace Sys2Proof.Machine

/-- The hand-offs of the own CLAIM that is admitted. -/
def claimHandOffs (own : Address) (c : ChannelId) (e : WireEntry) (target : Nat) : HandOffs :=
  { message := applyClaim own c e
    attempt := fun s => channelAdmitted c { start := slotOf e.start, length := e.lengthLess1.toNat + 1 } target
      (ownCommitted resolveEntry (endTransmission s))
    station := id }

/-- How the latch stands to the commit of the own CLAIM when the first `n` parts of the edge have been taken: the plan stands until the commit
and holds the new span from then on, and the channel hears of it at the report. -/
structure State.ClaimLatched (order : List EdgePart) (commit : EdgePart) (c : ChannelId) (e : WireEntry) (target : Nat) (z : State) (n : Nat)
    (u : State) : Prop where
  latching : z.Latching u
  closed : u.station.state = .joined ∨ u.station.state = .leaving
  stays : n ≤ order.idxOf .planTable → u.table.OwnStays z.cfg
  before : n ≤ order.idxOf commit → u.table = z.table
  placed : order.idxOf commit < n → u.table.Lawful ∧ u.table.find z.cfg.address c = some (holdingOf z.cfg.address c e)
  unheard : n ≤ order.idxOf .attemptReport → u.channels[c] = z.channels[c]
  heard : order.idxOf .attemptReport < n → u.channels[c].state = .held
    ∧ u.channels[c].span = some { start := slotOf e.start, length := e.lengthLess1.toNat + 1 } ∧ u.channels[c].held = target
  latched : order.idxOf .driveUnit < n → u.drive.table[c]
    = if order.idxOf .driveUnit < order.idxOf commit then
        (z.table.find z.cfg.address c).map fun h => h.entry z.channels[c].held
      else if order.idxOf .driveUnit < order.idxOf .attemptReport then some ((holdingOf z.cfg.address c e).entry z.channels[c].held)
      else some ((holdingOf z.cfg.address c e).entry target)

section
variable {order : List EdgePart} {commit p : EdgePart} {c : ChannelId} {e : WireEntry} {target : Nat} {z u v : State}

theorem State.ClaimLatched.closed_window (stands : z.ClaimLatched order commit c e target (order.idxOf p) u) :
    ¬(u.station.state = .listen ∨ u.station.state = .resync) := by
  rcases stands.closed with state | state <;> rw [state] <;> exact fun h => h.elim nofun nofun

/-- The channel is neither STARVED nor UNUSED at the edge. -/
theorem State.ClaimLatched.busy (flying : z.channels[c].state = .inFlight) {n : Nat} (stands : z.ClaimLatched order commit c e target n u) :
    u.channels[c].state ≠ .starved ∧ u.channels[c].state ≠ .unused := by
  by_cases ahead : n ≤ order.idxOf .attemptReport
  · rw [stands.unheard ahead, flying]
    exact ⟨nofun, nofun⟩
  · rw [(stands.heard (Nat.not_le.mp ahead)).1]
    exact ⟨nofun, nofun⟩

/-- A part other than the ageing and the hand-offs, which leaves the plan and the channel. -/
theorem State.ClaimLatched.next (here : p ∈ order) (commits : p ≠ commit) (ages : p ≠ .planTable) (reports : p ≠ .attemptReport)
    (latches : p ≠ .driveUnit) (stands : z.ClaimLatched order commit c e target (order.idxOf p) u) (latching : z.Latching v)
    (station : v.station = u.station) (table : v.table = u.table) (record : v.channels[c] = u.channels[c])
    (drive : v.drive = u.drive) : z.ClaimLatched order commit c e target (order.idxOf p + 1) v := by
  have := EdgePart.idxOf_ne here commits
  have := EdgePart.idxOf_ne here ages
  have := EdgePart.idxOf_ne here reports
  have := EdgePart.idxOf_ne here latches
  exact
    { latching := latching
      closed := by rw [station]; exact stands.closed
      stays := fun h => by rw [table]; exact stands.stays (by omega)
      before := fun h => table.trans (stands.before (by omega))
      placed := fun h => by rw [table]; exact stands.placed (by omega)
      unheard := fun h => record.trans (stands.unheard (by omega))
      heard := fun h => by rw [record]; exact stands.heard (by omega)
      latched := fun h => by rw [drive]; exact stands.latched (by omega) }

variable {m : Message} {refused : Bool} (places : EdgePart.Committing order m refused) (flying : z.channels[c].state = .inFlight)

include places flying

theorem claimLatched_plan (here : .planTable ∈ order)
    (stands : z.ClaimLatched order (.message (.committed m refused)) c e target (order.idxOf .planTable) u) :
    z.ClaimLatched order (.message (.committed m refused)) c e target (order.idxOf .planTable + 1) (edgePlan u) := by
  obtain ⟨cfg, -, -, within⟩ := id stands.latching
  obtain ⟨lawful, found⟩ := stands.placed places.ages
  have young := stands.stays (Nat.le_refl _)
  have table : (edgePlan u).table = u.table.cycled z.cfg := by rw [edgePlan_table, cfg]
  have record : (edgePlan u).channels[c] = u.channels[c] :=
    edgePlan_fed (by rw [cfg]; exact within) (by rw [cfg]; exact young) (stands.busy flying).1
  have drive : (edgePlan u).drive = u.drive := (edgePlan_of_ownStays (by rw [cfg]; exact within) (by rw [cfg]; exact young)).1
  have ages := places.ages
  have := EdgePart.idxOf_ne here (q := .attemptReport) nofun
  have := EdgePart.idxOf_ne here (q := .driveUnit) nofun
  exact
    { latching := stands.latching.block .none (q := .planTable) (by decide)
      closed := by rw [(edgePlan_frame u).2.2.2.2.2.1]; exact stands.closed
      stays := fun h => by omega
      before := fun h => by omega
      placed := fun _ => by rw [table]; exact ⟨lawful.cycled within, (lawful.find_cycled within).mpr ⟨found, young⟩⟩
      unheard := fun h => record.trans (stands.unheard (by omega))
      heard := fun h => by rw [record]; exact stands.heard (by omega)
      latched := fun h => by rw [drive]; exact stands.latched (by omega) }

theorem claimLatched_latch (here : .driveUnit ∈ order)
    (stands : z.ClaimLatched order (.message (.committed m refused)) c e target (order.idxOf .driveUnit) u) :
    z.ClaimLatched order (.message (.committed m refused)) c e target (order.idxOf .driveUnit + 1) (edgeDrive u) := by
  obtain ⟨cfg, drives, -, -⟩ := id stands.latching
  have table : (edgeDrive u).table = u.table := by simp
  have record : (edgeDrive u).channels = u.channels := by simp
  have station : (edgeDrive u).station = u.station := by simp
  have entry : (edgeDrive u).drive.table[c] = (u.table.find z.cfg.address c).map fun h => h.entry u.channels[c].held := by
    rw [edgeDrive_entry drives.attached, latchedEntry_driving drives (stands.busy flying).2, cfg]
  have := EdgePart.idxOf_ne here (q := .message (.committed m refused)) nofun
  have := EdgePart.idxOf_ne here (q := .attemptReport) nofun
  have := EdgePart.idxOf_ne here (q := .planTable) nofun
  have reports := places.reports
  exact
    { latching := stands.latching.block .none (q := .driveUnit) (by decide)
      closed := by rw [station]; exact stands.closed
      stays := fun h => by rw [table]; exact stands.stays (by omega)
      before := fun h => table.trans (stands.before (by omega))
      placed := fun h => by rw [table]; exact stands.placed (by omega)
      unheard := fun h => by rw [record]; exact stands.unheard (by omega)
      heard := fun h => by rw [record]; exact stands.heard (by omega)
      latched := fun _ => by
        by_cases ahead : order.idxOf .driveUnit < order.idxOf (.message (.committed m refused))
        · rw [if_pos ahead, entry, stands.before (by omega), stands.unheard (by omega)]
        · rw [if_neg ahead, entry, (stands.placed (by omega)).2, Option.map_some]
          by_cases waits : order.idxOf .driveUnit < order.idxOf .attemptReport
          · rw [if_pos waits, stands.unheard (by omega)]
          · rw [if_neg waits, (stands.heard (by omega)).2.2] }

theorem claimLatched_commit (lawful : z.table.Lawful) (present : z.table.peers[z.cfg.address].present = true)
    (fits : z.table.fits z.cfg.budget z.cfg.address c (slotOf e.start) (e.lengthLess1.toNat + 1) e.rating.toNat = true)
    (here : .message (.committed m refused) ∈ order)
    (stands : z.ClaimLatched order (.message (.committed m refused)) c e target (order.idxOf (.message (.committed m refused))) u) :
    z.ClaimLatched order (.message (.committed m refused)) c e target (order.idxOf (.message (.committed m refused)) + 1)
      (applyClaim z.cfg.address c e u) := by
  obtain ⟨cfg, drives, gap, within⟩ := id stands.latching
  have plan := stands.before (Nat.le_refl _)
  have young := stands.stays (Nat.le_of_lt places.ages)
  have fed := (stands.busy flying).1
  obtain ⟨inserted, upd, notice, alone⟩ := applyClaim_commits (a := z.cfg.address) (c := c) (e := e) (s := u)
    (by rw [plan]; exact present) (by rw [cfg]; exact within) (by rw [plan, cfg]; exact fits)
  have record : (applyClaim z.cfg.address c e u).channels[c] = u.channels[c] := by
    by_cases h : ∃ h, u.table.find z.cfg.address c = some h
        ∧ ∃ k : Slot, h.covers k = true ∧ ¬(k.val + 64 - e.start.toNat) % 64 < e.lengthLess1.toNat + 1
    · rw [notice h, freeingNotice_get]
      exact fed
    · rw [alone h]
  obtain ⟨lawful', -, peers⟩ := lawful.insert (holdingOf z.cfg.address c e)
  have within' : (z.table.insert (holdingOf z.cfg.address c e)).WithinBudget z.cfg.budget :=
    PlanTable.WithinBudget.insert (by rw [← plan]; exact within) _ fits
  rw [plan] at inserted young
  have := EdgePart.idxOf_ne here (q := .attemptReport) nofun
  have := EdgePart.idxOf_ne here (q := .driveUnit) nofun
  exact
    { latching := by
        unfold State.Latching
        rw [inserted, upd]
        exact ⟨cfg, drives, gap, within'⟩
      closed := by rw [upd]; exact stands.closed
      stays := fun _ => by
        unfold PlanTable.OwnStays at young ⊢
        rw [inserted, peers]
        exact young
      before := fun h => by omega
      placed := fun _ => by
        rw [inserted]
        exact ⟨lawful', by rw [lawful.find_insert]; exact if_pos ⟨rfl, rfl⟩⟩
      unheard := fun h => record.trans (stands.unheard (by omega))
      heard := fun h => by rw [record]; exact stands.heard (by omega)
      latched := fun h => by rw [upd]; exact stands.latched (by omega) }

theorem claimLatched_report (positive : 0 < target) (targets : z.channels[c].target = target)
    (length : slotsFor target = e.lengthLess1.toNat + 1) (here : .attemptReport ∈ order)
    (stands : z.ClaimLatched order (.message (.committed m refused)) c e target (order.idxOf .attemptReport) u) :
    z.ClaimLatched order (.message (.committed m refused)) c e target (order.idxOf .attemptReport + 1)
      (channelAdmitted c { start := slotOf e.start, length := e.lengthLess1.toNat + 1 } target
        (ownCommitted resolveEntry (endTransmission u))) := by
  obtain ⟨cfg, drives, gap, within⟩ := id stands.latching
  have record := stands.unheard (Nat.le_refl _)
  have told := channelAdmitted_leaves (s := ownCommitted resolveEntry (endTransmission u)) (c := c) (target := target)
    (span := { start := slotOf e.start, length := e.lengthLess1.toNat + 1 })
    (by show u.channels[c].state = _; rw [record]; exact flying) resolveEntry_idle
  generalize channelAdmitted c _ target _ = t at told ⊢
  obtain ⟨⟨channels, queue, same⟩, -, span, held⟩ := told
  obtain ⟨state, becomes⟩ := held positive (by show u.channels[c].target = _; rw [record]; exact targets) length.symm
  have items : t.cfg = u.cfg ∧ t.station = u.station ∧ t.table = u.table ∧ t.drive = u.drive ∧ t.engine.framing = u.engine.framing := by
    rw [same]
    exact ⟨rfl, rfl, rfl, rfl, rfl⟩
  obtain ⟨cfg', station, table, drive, framing⟩ := items
  have reports := places.reports
  have := EdgePart.idxOf_ne here (q := .planTable) nofun
  have := EdgePart.idxOf_ne here (q := .driveUnit) nofun
  exact
    { latching := by
        unfold State.Latching
        rw [cfg', station, table, framing]
        exact ⟨cfg, drives, gap, within⟩
      closed := by rw [station]; exact stands.closed
      stays := fun h => by rw [table]; exact stands.stays (by omega)
      before := fun h => by omega
      placed := fun _ => by rw [table]; exact stands.placed places.reports
      unheard := fun h => by omega
      heard := fun _ => ⟨state, span, becomes⟩
      latched := fun h => by rw [drive]; exact stands.latched (by omega) }

/-- The edge with the own CLAIM (R110, R122). -/
theorem claimEdge_latched (lawful : z.table.Lawful) (latching : z.Latching z)
    (closed : z.station.state = .joined ∨ z.station.state = .leaving) (present : z.table.peers[z.cfg.address].present = true)
    (young : z.table.peers[z.cfg.address].age + 1 < 3 * z.cfg.interval)
    (fits : z.table.fits z.cfg.budget z.cfg.address c (slotOf e.start) (e.lengthLess1.toNat + 1) e.rating.toNat = true)
    (positive : 0 < target) (targets : z.channels[c].target = target) (length : slotsFor target = e.lengthLess1.toNat + 1) :
    z.ClaimLatched order (.message (.committed m refused)) c e target order.length
      (order.foldl (fun s q => edgePart (claimHandOffs z.cfg.address c e target) q s) z) := by
  refine edgeParts_positions (h := claimHandOffs z.cfg.address c e target) places.distinct
    (I := z.ClaimLatched order (.message (.committed m refused)) c e target) (fun p u here stands => ?_) (s := z)
    { latching := latching, closed := closed, stays := fun _ _ => young, before := fun _ => rfl, placed := fun h => absurd h (Nat.not_lt_zero _)
      unheard := fun _ => rfl, heard := fun h => absurd h (Nat.not_lt_zero _), latched := fun h => absurd h (Nat.not_lt_zero _) }
  cases p with
  | planTable => exact claimLatched_plan places flying here stands
  | driveUnit => exact claimLatched_latch places flying here stands
  | messageEngine =>
    obtain ⟨-, -, gap, -⟩ := id stands.latching
    have run : edgeEngine u = dropFrame u := edgeEngine_of_gap gap
    have latching := stands.latching.block .none (q := .messageEngine) (by decide)
    show z.ClaimLatched _ _ _ _ _ _ (edgeEngine u)
    rw [show edgePart .none .messageEngine u = dropFrame u from run] at latching
    rw [run]
    exact stands.next here nofun nofun nofun nofun latching rfl rfl rfl rfl
  | stationController =>
    show z.ClaimLatched _ _ _ _ _ _ (edgeStation u)
    rw [edgeStation_of_calm stands.closed_window]
    exact stands.next here nofun nofun nofun nofun stands.latching rfl rfl rfl rfl
  | message late =>
    obtain rfl := places.only late here
    exact claimLatched_commit places flying lawful present fits here stands
  | attemptReport => exact claimLatched_report places flying positive targets length here stands
  | stationReport => exact stands.next here nofun nofun nofun nofun stands.latching rfl rfl rfl rfl

end

end Sys2Proof.Machine
end

section
/-! SYNC_EDGE and the latch of the drive table (R121 to R124), beside the commit of an own RELEASE or CLAIM too. -/

namespace Sys2Proof.Machine

/-! ## The own commit at the edge -/

theorem sentHandOffs_release {own : BitVec 5} {c : ChannelId} {k : Composed} (wants : k.request = .release c) (verdict : Option Verdict)
    (refused : Bool) : sentHandOffs (.release own (BitVec.ofNat 4 c.val)) k verdict refused = releaseHandOffs (addressOf own) c := by
  have plans : applyMessage (.release own (BitVec.ofNat 4 c.val)) refused = applyRelease (addressOf own) c := by
    funext s
    rw [applyMessage, channelOf?_ofNat]
  obtain ⟨_, _, target, composer⟩ := k
  subst wants
  rw [sentHandOffs, plans]
  rfl

theorem sentHandOffs_claim {own : BitVec 5} {c : ChannelId} {e : WireEntry} {k : Composed} (wants : k.request = .claim c)
    (message : k.message = .claim own e) (channel : e.channel = BitVec.ofNat 4 c.val) (verdict : Option Verdict) :
    sentHandOffs (.claim own e) k verdict false = claimHandOffs (addressOf own) c e k.target := by
  have plans : applyMessage (.claim own e) false = applyClaim (addressOf own) c e := by
    funext s
    rw [applyMessage, channel, channelOf?_ofNat]
    rfl
  obtain ⟨_, _, target, composer⟩ := k
  subst wants message
  rw [sentHandOffs, plans]
  rfl

/-- SYNC_EDGE with the commit of the own message: the state that the parts of the edge start from, and what is handed over among them. -/
theorem exec_syncEdge_sent {hold : Nat} {order : List EdgePart} {s : State} {k : Composed} {refused : Bool}
    (running : s.timer.running = true) (configured : s.station.state ≠ .unconfigured)
    (pulse : s.lines.syncDriving = true → s.lines.syncLow = false ∧ 16 * bitPeriods s.cfg.rateCode.val ≤ s.lines.syncHighTime)
    (framed : s.engine.framing = .frame) (sends : s.engine.transmission = .driving) (composed : s.sched.composed = some k)
    (reached : s.lines.syncDriving = true →
      ∃ f, s.engine.frame = some f ∧ k.message.commitPoint * bitPeriods s.cfg.rateCode.val ≤ f.elapsed)
    (allowed : EdgePart.orderAllowed order = true) (outcome : EdgePart.outcomeIn order = some (.committed k.message refused))
    (acceptable : k.message.unacceptable = false) (applies : s.haltCause k.message true = none) :
    ∃ z verdict, exec (.syncEdge hold order) s
        = .next (order.foldl (fun u q => edgePart (sentHandOffs k.message k verdict (s.wireRefused k.message refused)) q u) z)
      ∧ z.cfg = s.cfg ∧ z.table = s.table ∧ z.channels = s.channels ∧ z.station = s.station ∧ z.engine.framing = .gap := by
  obtain ⟨t, path, -, same, high, valid, run⟩ := exec_syncEdge_valid hold order running configured pulse
  have keeps : TimeKeeps s t := by
    rcases path with rfl | ⟨d, rfl⟩
    · exact .refl _
    · exact advance_keeps d s
  have drives : s.drives k.message = true := State.drives_own sends composed rfl
  have wire := State.wireRefused_congr keeps k.message refused (.inl drives)
  have drives' : t.drives k.message = true := (State.drives_congr keeps k.message).trans drives
  obtain ⟨-, cfg, table, sched, channels, station, -, -, -, -, -, -, -, framing, -⟩ := keeps
  have meets : t.canMeet (.committed k.message refused) = true := by
    unfold State.canMeet
    rw [framing, framed, decide_eq_true rfl, Bool.true_and, Bool.or_eq_true]
    cases waits : s.fallWaits with
    | true =>
      have driving : s.lines.syncDriving = true := by
        unfold State.fallWaits at waits
        exact (Bool.and_eq_true_iff.mp waits).1
      obtain ⟨f, frame, late⟩ := reached driving
      rw [same waits, frame, Option.any_some]
      refine .inr (decide_eq_true ?_)
      show k.message.commitPoint * (1 * bitPeriods s.cfg.rateCode.val) ≤ f.elapsed
      rw [Nat.one_mul]
      exact late
    | false =>
      have still : t.fallWaits = false := by
        rcases path with rfl | ⟨d, rfl⟩
        · exact waits
        · exact advance_fallWaits waits d
      rw [still]
      exact .inl rfl
  have taken : t.edgeOrder order = order := by
    unfold State.edgeOrder EdgePart.taken
    rw [if_pos allowed]
    exact if_pos (by rw [outcome]; exact meets)
  have counting : t.counting = true := by
    unfold State.counting
    rw [station]
    exact decide_eq_true configured
  obtain ⟨verdict, falls⟩ := fallWith_sent (hold := hold) outcome acceptable drives' (by rw [sched]; exact composed)
    ((State.haltCause_congr cfg k.message true).trans applies) counting high valid
  rw [taken, falls, wire] at run
  obtain ⟨table', channels', -, station', cfg', -⟩ := t.ended_items k.message
  exact ⟨_, verdict, run, cfg'.trans cfg, table'.trans table, channels'.trans channels, station'.trans station, rfl⟩

/-- Settles O18. -/
theorem syncEdgeLatchesTheDriveTable : Obligations.SyncEdgeLatchesTheDriveTable := by
  intro hold order s running configured pulse driving entry
  constructor
  · intro none
    obtain ⟨t, o, path, quiet, run⟩ :=
      exec_syncEdge_unmet hold order running configured pulse fun late outcome => by rw [none] at outcome; cases outcome
    have start := edgeStart_items path hold
    obtain ⟨z, hz⟩ : ∃ z, z = edgeTimer (fallSync hold t) := ⟨_, rfl⟩
    rw [← hz] at run
    have run : exec (.syncEdge hold order) s = .next (quietEdge o z) := run
    simp only [← hz] at start
    clear hz
    obtain ⟨-, cfg, table, -, channels, station, -, -, -, counter, -, -, transmission, -⟩ := start
    have dither : z.ditherIndex = (s.timer.cycleCounter.toNat + 1) % 8 := by
      have := s.timer.cycleCounter.isLt
      rw [State.ditherIndex, counter, BitVec.toNat_add]
      simp only [BitVec.ofNat_eq_ofNat, BitVec.toNat_ofNat]
      omega
    have output (c : ChannelId) := quietEdge_output quiet z c
    refine ⟨quietEdge o z, run, fun drives => ⟨fun c => ?_, fun lawful within c => ?_⟩, fun silent empty c => ?_⟩
    · rw [output c, Option.any_eq_true, dither]
      simp only [conducts_slotZero]
    · have latches := quietEdge_entry quiet (s := z) (by rw [station]; exact drives) (by rw [table]; exact lawful)
        (by rw [table, cfg]; exact within) c
      rw [channels, cfg, transmission, station] at latches
      exact latches
    · have gone := quietEdge_no_entry quiet (s := z) (by rw [station]; exact silent) (c := c) (by rw [table, cfg]; exact empty c)
      exact ⟨gone, by rw [output c, gone]; rfl⟩
  · intro c k refused drives framed sends composed _ flying lawful within reached allowed outcome own latched commit old
    have places := EdgePart.committing allowed outcome
    have ours : addressOf own = s.cfg.address := addressOf_ofNat _
    refine ⟨fun wants message => ?_, fun e wants message channel rated admitted closed present young fits positive targets length => ?_⟩
    · obtain ⟨z, verdict, run, cfg, table, channels, station, gap⟩ := exec_syncEdge_sent (hold := hold) running configured pulse framed sends
        composed reached allowed outcome (by rw [message]; exact release_acceptable own c)
        (by rw [message]; unfold State.haltCause; exact if_neg fun h => nomatch h.2)
      have offs := sentHandOffs_release (own := own) wants verdict (s.wireRefused k.message refused)
      rw [← message, ours, ← cfg] at offs
      rw [offs] at run
      obtain ⟨gone, behind, ahead⟩ := releaseEdge_latched places (z := z) (c := c) (by rw [table]; exact lawful)
        (by rw [channels]; exact flying) ⟨rfl, by rw [station]; exact drives, gap, by rw [table, cfg]; exact within⟩
      refine ⟨_, run, by rw [← cfg]; exact gone, behind, fun first => (ahead first).trans ?_⟩
      rw [table, cfg, channels]
      rfl
    · subst admitted
      obtain ⟨z, verdict, run, cfg, table, channels, station, gap⟩ := exec_syncEdge_sent (hold := hold) running configured pulse framed sends
        composed reached allowed outcome (by rw [message]; exact claim_acceptable channel rated)
        (by rw [message]; unfold State.haltCause; exact if_neg fun h => nomatch h.2)
      have wire : s.wireRefused k.message false = false := by
        have drives := State.drives_own sends composed message
        rw [message]
        exact if_pos drives
      have offs := sentHandOffs_claim wants message channel verdict
      rw [← message, ours, ← cfg] at offs
      rw [wire, offs] at run
      have edge := claimEdge_latched places (z := z) (c := c) (e := e) (target := k.target) (by rw [channels]; exact flying)
        (by rw [table]; exact lawful) ⟨rfl, by rw [station]; exact drives, gap, by rw [table, cfg]; exact within⟩
        (by rw [station]; exact closed) (by simp only [table, cfg, present]) (by simp only [table, cfg, young])
        (by rw [table, cfg]; exact fits) positive (by rw [channels]; exact targets) length
      generalize order.foldl (fun u q => edgePart (claimHandOffs z.cfg.address c e k.target) q u) z = t at run edge
      obtain ⟨-, found⟩ := edge.placed (List.idxOf_lt_length_of_mem (places.mem _ (by simp)))
      obtain ⟨-, span, held⟩ := edge.heard (List.idxOf_lt_length_of_mem (places.mem _ (by simp)))
      have entry := edge.latched (List.idxOf_lt_length_of_mem (places.mem _ (by simp)))
      rw [cfg] at found entry
      rw [table, channels] at entry
      exact ⟨_, run, found, span, held, entry⟩

end Sys2Proof.Machine
end
